-- ==== Sys2Proof/Word.lean ====
section
/-!
DEFINITION. The plain word types of the K6 and their simplest arithmetic (R6, R11, R22), and the sparse
tables that the state is made of.
-/

namespace Sys2Proof

/-- One byte of memory (R6). -/
abbrev Byte := BitVec 8
/-- A 32-bit register (R14). -/
abbrev Word := BitVec 32
/-- A 64-bit value: a register pair (R17). -/
abbrev Dword := BitVec 64
/-- A 57-bit virtual address (R20, R127). -/
abbrev VA := BitVec 57
/-- A set of lanes of a warp: bit `i` for lane `i` (R144, R186). -/
abbrev LaneSet := BitVec 64
/-- A time of the logical clock: 64 bits, compared modulo 2^64 (R229, R380). -/
abbrev Time := BitVec 64

/-- `x[hi:lo]` of a number, `n` bits from bit `lo` up (R11). -/
def bitsOf (x lo n : Nat) : Nat := x / 2 ^ lo % 2 ^ n

/-- A number as a signed value of `w` bits: `SignExt` of R11. -/
def sext (w x : Nat) : Int := if x % 2 ^ w < 2 ^ (w - 1) then (x % 2 ^ w : Nat) else (x % 2 ^ w : Nat) - (2 ^ w : Nat)

/-- `Wrap` of R22: an exact integer taken modulo `2^w`. -/
def wrapTo (w : Nat) (y : Int) : Nat := (y % (2 ^ w : Nat)).toNat

/-- A sparse table: an index that is not listed holds the default the reader of the table names. -/
abbrev Map (α : Type) := List (Nat × α)

/-- The entry at `k`, or the default `d`. -/
def Map.get {α : Type} (m : Map α) (k : Nat) (d : α) : α :=
  match m with
  | [] => d
  | (i, v) :: rest => if i = k then v else Map.get rest k d

/-- The table with `v` at `k`; an entry already there is replaced where it stands. -/
def Map.set {α : Type} (m : Map α) (k : Nat) (v : α) : Map α :=
  match m with
  | [] => [(k, v)]
  | (i, w) :: rest => if i = k then (k, v) :: rest else (i, w) :: Map.set rest k v

/-- The table without index `k`. -/
def Map.erase {α : Type} (m : Map α) (k : Nat) : Map α := m.filter (fun e => e.1 ≠ k)

/-- The entry at `k`, if it is listed. -/
def Map.find {α : Type} (m : Map α) (k : Nat) : Option α :=
  match m with
  | [] => none
  | (i, v) :: rest => if i = k then some v else Map.find rest k

/-- The table with every listed entry changed. -/
def Map.mapVal {α : Type} (m : Map α) (f : Nat → α → α) : Map α := m.map (fun e => (e.1, f e.1 e.2))

end Sys2Proof
end

