-- ==== Sys2Proof/Config.lean ====
section
/-!
DEFINITION. What is fixed for one module (R2, R4, R7) and the free values: opaque constants without a body
that stand for every value the manual leaves open (R9), applied to the counter `State.free` or to the operands.
-/

namespace Sys2Proof.Config

/-- Bytes of the unified store of a core: 3 MiB (R2, R223). -/
def storeBytes : Nat := 3 * 2 ^ 20
/-- Bytes of one accumulator bank (R2, R228). -/
def accBank : Nat := 2 ^ 19
/-- Bytes of the store that stay unallocated for the level-one cache (R145, R224). -/
def l1Floor : Nat := 256 * 1024
/-- Warp slots of a core (R2, R224). -/
def slots : Nat := 16
/-- Compute dies, sockets 0 to 5 (R2). -/
def dies : Nat := 6
/-- Cores of a die: 32 user cores and the service core, number 32 (R2). -/
def coresPerDie : Nat := 33
/-- Sets of an L2 slice and ways of a set: 8 MiB of lines of 128 bytes (R2, R342). -/
def l2Sets : Nat := 4096
/-- Ways of a set (R342). -/
def l2Ways : Nat := 16
/-- Scoreboard entries of a warp slot (R307). -/
def scoreboard : Nat := 32
/-- Entries of an engine's queue (R251). -/
def engineQueue : Nat := 32
/-- Instructions of a quantum (R159). -/
def quantum : Nat := 256
/-- Core cycles in a microsecond at 700 MHz (R7). -/
def cyclesPerUs : Nat := 700
/-- Cycles after which an open section closes (R317). -/
def sectionCycles : Nat := 65536
/-- The horizon at reset (R383). -/
def horizon : Time := 0x80000000#64
/-- PTADV's largest step (R361). -/
def ptadvMax : Nat := 2 ^ 20

/-- A byte the manual leaves unpredictable (R9); the argument is the counter of free values. -/
opaque freeByte : Nat → Byte
/-- A register value the manual leaves unpredictable (R9, R62). -/
opaque freeWord : Nat → Word
/-- Which of two values the manual allows is meant (R118, R135, R332). -/
opaque freeBool : Nat → Bool
/-- How far, in units of the last place, a special function's result lies from the nearest value (R119, R120):
a function of the opcode, the operand bits and FPCS.FTZ. The model keeps the result within the bound. -/
opaque specialOffset : BitVec 10 → Word → Word → Bool → Int
/-- The set of 0 to 4,095 that a line takes in its L2 slice, modulo 4,096 (R342: the choice of set is open). -/
opaque l2Set : Nat → Nat
/-- SHA-384 of a run of bytes (R467: the algorithm is another standard's). -/
opaque sha384 : List Byte → BitVec 384
/-- The SHA-384 digest of the Carafe image of a version (R467: the image's bytes are not the spec's). -/
opaque imageDigest : Word → BitVec 384
/-- The Ed25519 signature of the device identity over a nonce, an image digest and record digests (R467). -/
opaque signEd : BitVec 128 → BitVec 384 → List (BitVec 384) → BitVec 512
/-- Its ML-DSA-65 signature over the same, of 3,309 bytes (R463, R467). -/
opaque signMl : BitVec 128 → BitVec 384 → List (BitVec 384) → BitVec 26472
/-- FlowHash of R449: a fixed function of source and destination that the manual does not give. -/
opaque flowHash : Nat → Nat → Nat

end Sys2Proof.Config
end

