-- ==== Sys2Proof/Syntax.lean ====
section
/-!
DEFINITION. The syntax of the K6: the 96-bit instruction word's fields with every code turned into a name
(R41 to R54), and one constructor of `Instr` for each row of spec/opcode_table.json, the events included.
-/

namespace Sys2Proof

/-- TYPE codes of R50. -/
inductive Ty where
  | none | b8 | b16 | b32 | b64 | b128 | i8 | i16 | i32 | i64 | n8 | n16 | n32 | n64
  | f64 | f32 | f16 | bf16 | e4m3 | e5m2 | cb4
deriving DecidableEq, Repr, Inhabited

/-- Rounding modes of R30. -/
inductive Rnd where
  | rne | rz | ru | rd | sr
deriving DecidableEq, Repr, Inhabited

/-- ORDER codes of R51. -/
inductive Order where
  | none | rlx | acq | rel | ar | sc
deriving DecidableEq, Repr, Inhabited

/-- SCOPE codes of R51, R242. -/
inductive Scope where
  | none | w | b | c | d | s
deriving DecidableEq, Repr, Inhabited

/-- LEASE hints of R52. -/
inductive Lease where
  | predicted | short | long | noAlloc
deriving DecidableEq, Repr, Inhabited

/-- Branch hints of R52. -/
inductive BrHint where
  | none | likely | unlikely | uniform
deriving DecidableEq, Repr, Inhabited

/-- HNT of R52. -/
structure Hints where
  rx : Bool := false
  ru : Bool := false
  lease : Lease := .predicted
  yf : Bool := false
  br : BrHint := .none
deriving DecidableEq, Repr, Inhabited

/-- GRD of R54: `pred` 15 names pt or qt. -/
structure Guard where
  neg : Bool := false
  pred : BitVec 4 := 15
deriving DecidableEq, Repr, Inhabited

/-- Special operands of R47. -/
inductive Special where
  | pred (n : BitVec 4) (neg : Bool)
  | upred (n : BitVec 4) (neg : Bool)
  | ctr (n : BitVec 4)
  | mask (n : BitVec 3)
  | bar (n : BitVec 6)
  | atab (n : BitVec 2)
  | cbook (n : BitVec 4)
  | sreg (n : BitVec 10)
  | accb (n : BitVec 1)
  | vec (n : BitVec 6)
deriving DecidableEq, Repr

/-- An operand field of R44; `none` is a field the form does not use, all zero (R48). -/
inductive Operand where
  | none
  | v (n : BitVec 9) (ix neg abs : Bool)
  | u (n : BitVec 6) (ix neg abs : Bool)
  | imm (x : BitVec 16)
  | sp (k : Special)
deriving DecidableEq, Repr

/-- Relations of ICMPP, ISET and the float compares (R88, R105). -/
inductive Cmp where
  | eq | ne | lt | le | gt | ge | num | nan
deriving DecidableEq, Repr, Inhabited

/-- LOP and BOP of R88. -/
inductive Bop where
  | and | or | xor
deriving DecidableEq, Repr, Inhabited

/-- What the X field holds, by the layout the form gives it (R48, R49, R88, R105, R131, R179, R285, R373, R426, R443). -/
inductive Ext where
  | none
  | mod (fn : BitVec 3) (scope : Scope) (order : Order) (sat : Bool) (rnd : Rnd) (ty : Ty)
  | opC (c : Operand) (m : BitVec 4)
  | immHi (hi : BitVec 16)
  | carry (co : BitVec 4) (cin : Bool) (ci : BitVec 4) (ty : Ty)
  | lut (v : BitVec 8) (ty : Ty)
  | icmp (cmp : Cmp) (bop : Bop) (pe : BitVec 4) (pcn : Bool) (pc : BitVec 4) (ty : Ty)
  | iset (cmp : Cmp) (one : Bool) (ty : Ty)
  | select (pn : Bool) (p : BitVec 4) (ty : Ty)
  | lea (sh : BitVec 3) (ty : Ty)
  | plog (lop bop : Bop) (pe : BitVec 4) (pcn : Bool) (pc : BitVec 4)
  | fcmp (cmp : Cmp) (bop : Bop) (pe : BitVec 4) (pcn : Bool) (pc : BitVec 4) (u bf : Bool)
  | fset (cmp : Cmp) (one u : Bool)
  | conv (dt : Ty) (sat : Bool) (rnd : Rnd) (st : Ty)
  | mem (dh : BitVec 3) (scope : Scope) (order : Order) (dl : BitVec 4) (ty : Ty)
  | shfl (mode : BitVec 2) (seg : BitVec 3) (ty : Ty)
  | red (op : BitVec 3) (excl : Bool) (ty : Ty)
  | mma (nc : BitVec 2) (sel : BitVec 6)
  | svc (fn : BitVec 16)
  | mred (aop : BitVec 4) (ty : Ty)
  | recall (toMem : Bool) (attr : BitVec 2)
deriving DecidableEq, Repr

/-- The fields of an instruction word beside its opcode (R41). -/
structure Ins where
  grd : Guard := {}
  hnt : Hints := {}
  d : Operand := .none
  a : Operand := .none
  b : Operand := .none
  x : Ext := .none
deriving DecidableEq, Repr

/-- A fibre: block, warp of the block, fibre of the layout (R154). -/
structure FRef where
  blk : Nat
  warp : Nat
  fib : Nat
deriving DecidableEq, Repr, Inhabited

/-- Where the device places one block: core (33 × socket + number) and store offsets (R224, R225, R226). -/
structure Placement where
  core : Nat
  rbase : Nat
  sbase : Nat
deriving DecidableEq, Repr, Inhabited

/-- What an error-correcting code found (R322, R384, R385). -/
inductive EccResult where
  | clean | corrected | uncorrectable
deriving DecidableEq, Repr

/-- Where an uncorrectable error of R385 lies: a memory sector by PA, a sector of a home or requester-side copy, or data that
cross the base die, of a request or its reply, of an eviction, of a fill, or of an engine command (R363). -/
inductive ErrPlace where
  | memory | homeCopy | requesterCopy | message | eviction | fill | engine
deriving DecidableEq, Repr

/-- Virtual channels of a port (R446). -/
inductive Vc where
  | classO | classU | escape | mgmt
deriving DecidableEq, Repr

/-- What a packet of the fabric carries (R448, R452 to R461). -/
inductive PktBody where
  | read (ptr : Dword) (size : Nat)
  | write (ptr : Dword) (data : List Byte) (poison : List Bool)
  | atom (ptr : Dword) (aop : BitVec 4) (ty : Ty) (vals : List (BitVec 128))
  | notice (vi vector : Nat) (payload : Word)
  | data (bytes : List Byte) (poison : List Bool)
  | ack
  | olds (vals : List Dword) (poison : Bool)
  | answer (ok : Bool)
  | refusal
  | mgmtRead (offset : Nat)
  | mgmtWrite (offset : Nat) (value : Nat)
  | mgmtValue (value : Nat)
  | portNotice (devid port : Nat) (state : BitVec 2) (stamp : Dword)
deriving DecidableEq, Repr

/-- A packet (R448, R452). -/
structure Packet where
  src : Nat
  dst : Nat
  unassigned : Bool
  vi : Nat
  key : BitVec 16
  vc : Vc
  /-- Of class O, whichever channel it is on; else of class U (R449). -/
  classO : Bool := true
  engine : Nat
  seq : BitVec 16
  body : PktBody
deriving DecidableEq, Repr

/-- A flit as it is received (R446): whether its CRC holds after correction, and the packet its payload completes; one without payload
carries its header alone. -/
structure Flit where
  vc : Vc
  seq : Nat
  good : Bool
  /-- Flits up to this number have arrived; the flit of this number is asked for again. -/
  ack : Option Nat
  nack : Option Nat
  /-- Credits returned for the channel. -/
  credit : Nat
  packet : Option Packet
  /-- Its payload holds part of a packet that a later flit completes. -/
  part : Bool := false
deriving DecidableEq, Repr

/-- What the checks of a signed object find (R463): of each of the two public keys, whether its SHA-384 digest is the one the boot ROM
holds; of each signature, whether it verifies. Both are inputs. -/
structure SigCheck where
  edKey : Bool := false
  edSig : Bool := false
  mlKey : Bool := false
  mlSig : Bool := false
deriving DecidableEq, Repr, Inhabited

/-- A configuration record as it stands in the store (R463): all its bytes, and what its signature checks find. -/
structure CfgRecord where
  bytes : List Byte
  sig : SigCheck
deriving DecidableEq, Repr, Inhabited

/-- The stored Carafe image (R465): its version, its checks, and the blocks it starts on each service core, as a number of warps, a
kernel descriptor (R388) and a range-set image (R128) (log 95). -/
structure CarafeImage where
  version : Word := 0
  sig : SigCheck := {}
  warps : Nat := 0
  descriptor : List Byte := []
  ranges : List Byte := []
deriving DecidableEq, Repr, Inhabited

/-- The non-volatile store of I/O die 14 (R463): records, anti-rollback counts by TYPE, the stored Carafe image, and the features the
module offers (R468). -/
structure BootStore where
  records : List CfgRecord := []
  rollback : Map Nat := []
  image : CarafeImage := {}
  offered : BitVec 256 := 0
deriving DecidableEq, Repr, Inhabited

/-- The arguments of an event: what the outside, or the choice of what moves next, gives it. Each event reads the
fields its meaning names; the record stands in `State.arg`. -/
structure EvArg where
  /-- A fibre. -/
  ref : FRef := ⟨0, 0, 0⟩
  /-- An address of a fetch. -/
  pc : VA := 0
  /-- A load, command, request, notice or packet by number. -/
  id : Nat := 0
  /-- A core: 33 × socket + number. -/
  core : Nat := 0
  /-- A die by socket. -/
  die : Nat := 0
  /-- A chiplet by socket. -/
  chiplet : Nat := 0
  /-- A line of 128 bytes by IA / 128 (or host line by HPA / 128). -/
  line : Nat := 0
  /-- A sector of 32 bytes. -/
  sector : Nat := 0
  /-- An internal address. -/
  ia : Nat := 0
  /-- A block. -/
  blk : Nat := 0
  /-- A virtual instance. -/
  vi : Nat := 0
  /-- A purge tag. -/
  tag : BitVec 16 := 0
  /-- A page, queue, vector, size or sequence number, as the event says. -/
  index : Nat := 0
  /-- A choice or an outcome, as the event says. -/
  flag : Bool := false
  /-- The number names an engine command of the core. -/
  engine : Bool := false
  /-- A value of up to 64 bits. -/
  value : Dword := 0
  /-- A second value: a process identifier or a power reading. -/
  value2 : Word := 0
  /-- Bytes. -/
  data : List Byte := []
  /-- Where blocks are placed. -/
  places : List Placement := []
  /-- What an error-correcting code found. -/
  ecc : EccResult := .clean
  /-- Where an error lies. -/
  place : ErrPlace := .memory
  /-- A service's results, lane by lane. -/
  results : List (BitVec 192 × Word) := []
  /-- A CXL head. -/
  head : Nat := 0
  /-- A fabric port. -/
  port : Nat := 0
  /-- The partner a port trained with. -/
  partner : Option (BitVec 13) := none
  /-- A flit. -/
  flit : Option Flit := none
  /-- A packet. -/
  packet : Option Packet := none
  /-- The feature word of FEATACC. -/
  feat : BitVec 256 := 0
  /-- What boot finds in the non-volatile store. -/
  store : BootStore := {}
  /-- A register address. -/
  address : BitVec 64 := 0
deriving DecidableEq, Repr



/-- The 212 instruction forms of the opcode table (R59; several forms share an opcode and are told apart by X). -/
inductive Op where
  | iadd | isub | iaddc | isubb | imul | imulh | imad | imadw | imin | imax | iabs | ineg | iclamp | isad
  | idp4 | idp2 | and | or | xor | andn | orn | not | blut | shl | shr | sar | rol | ror | fshl | fshr
  | bfe | bfi | brev | popc | clz | ctz | bmsk | prmt | icmpp | iset | sel | mov | movi | lea | psetp
  | ptov | vtop | fadd | fsub | fmul | ffma | fmin | fmax | fsetp | fset | fclass | frnd | fscale | fgetexp
  | fgetman | padd2 | pmul2 | pfma2 | pmin2 | pmax2 | psetp2 | dadd | dmul | dfma | dmin | dmax | dsetp
  | cvt | cvtsr | pack2 | unpk2 | pack4 | unpk4 | qcb4 | dqcb4 | frcp | frsq | fsqrt | fex2 | flg2 | fsin
  | fcos | fsinr | fcosr | ftanh | fsigm | tblev | fdivf | ldg | stg | lds | sts | lda | sta | ldo | sto
  | atomg | atoms | redg | reds | casg | cass | pref | fence | bra | brx | call | callx | ret | exit
  | rje | rjw | rjx | rjrd | vote | matchW | elect | shfl | redw | scanw | vtou | fibsw | fbara | fbarw
  | fibqState | fibqRec | fresume | rsr | wsr | setx | addx | trap | tret | bpt | nop | yield | ractlOff
  | ractlOn | ractlThr | npb | npe | uiadd | uisub | uimul | ublut | ushl | ushr | uicmpp | umov | umovi
  | ulea | usel | upopc | cpy | gath | scat | chain | kwait | kadj | krd | opf | gang | mma | mmas | accz
  | acczSt | accld | acccvt | accscl | tblld | tblswp | cbld | bara | barw | bars | barx | cpyr | cpym
  | redr | notify | kickcfgOpen | kickcfgFree | kickcfgClose | migrate | waita | wakea | ptadv | spawn
  | join | svc | uisend | uiwait | uiack | uihdlVi | uihdlBlk | uihdlMask | mcst | mred | pcpy | pnotify
  | patom | csrr | csrw | ctxsv | ctxrs | recall | halt
deriving DecidableEq, Repr, Inhabited

/-- The steps of the part: one constructor for each row of the table of operations and events (R59, and the
rule each row names). An instruction carries the fields of its word, an event reads its
arguments from the `arg` of the state. -/
inductive Instr where
  /-- IADD, R90. -/
  | iadd (f : Ins)
  /-- ISUB, R90. -/
  | isub (f : Ins)
  /-- IADDC, R91. -/
  | iaddc (f : Ins)
  /-- ISUBB, R91. -/
  | isubb (f : Ins)
  /-- IMUL, R90. -/
  | imul (f : Ins)
  /-- IMULH, R90. -/
  | imulh (f : Ins)
  /-- IMAD, R90. -/
  | imad (f : Ins)
  /-- IMADW, R90. -/
  | imadw (f : Ins)
  /-- IMIN, R90. -/
  | imin (f : Ins)
  /-- IMAX, R90. -/
  | imax (f : Ins)
  /-- IABS, R90. -/
  | iabs (f : Ins)
  /-- INEG, R90. -/
  | ineg (f : Ins)
  /-- ICLAMP, R90. -/
  | iclamp (f : Ins)
  /-- ISAD, R90. -/
  | isad (f : Ins)
  /-- IDP4, R90. -/
  | idp4 (f : Ins)
  /-- IDP2, R90. -/
  | idp2 (f : Ins)
  /-- AND, R92. -/
  | and (f : Ins)
  /-- OR, R92. -/
  | or (f : Ins)
  /-- XOR, R92. -/
  | xor (f : Ins)
  /-- ANDN, R92. -/
  | andn (f : Ins)
  /-- ORN, R92. -/
  | orn (f : Ins)
  /-- NOT, R92. -/
  | not (f : Ins)
  /-- BLUT, R92. -/
  | blut (f : Ins)
  /-- SHL, R93. -/
  | shl (f : Ins)
  /-- SHR, R93. -/
  | shr (f : Ins)
  /-- SAR, R93. -/
  | sar (f : Ins)
  /-- ROL, R93. -/
  | rol (f : Ins)
  /-- ROR, R93. -/
  | ror (f : Ins)
  /-- FSHL, R94. -/
  | fshl (f : Ins)
  /-- FSHR, R94. -/
  | fshr (f : Ins)
  /-- BFE, R95. -/
  | bfe (f : Ins)
  /-- BFI, R95. -/
  | bfi (f : Ins)
  /-- BREV, R96. -/
  | brev (f : Ins)
  /-- POPC, R96. -/
  | popc (f : Ins)
  /-- CLZ, R96. -/
  | clz (f : Ins)
  /-- CTZ, R96. -/
  | ctz (f : Ins)
  /-- BMSK, R95. -/
  | bmsk (f : Ins)
  /-- PRMT, R97. -/
  | prmt (f : Ins)
  /-- ICMPP, R98. -/
  | icmpp (f : Ins)
  /-- ISET, R98. -/
  | iset (f : Ins)
  /-- SEL, R100. -/
  | sel (f : Ins)
  /-- MOV, R100. -/
  | mov (f : Ins)
  /-- MOVI, R100. -/
  | movi (f : Ins)
  /-- LEA, R101. -/
  | lea (f : Ins)
  /-- PSETP, R99. -/
  | psetp (f : Ins)
  /-- PTOV, R102. -/
  | ptov (f : Ins)
  /-- VTOP, R102. -/
  | vtop (f : Ins)
  /-- FADD, R106. -/
  | fadd (f : Ins)
  /-- FSUB, R106. -/
  | fsub (f : Ins)
  /-- FMUL, R106. -/
  | fmul (f : Ins)
  /-- FFMA, R106. -/
  | ffma (f : Ins)
  /-- FMIN, R107. -/
  | fmin (f : Ins)
  /-- FMAX, R107. -/
  | fmax (f : Ins)
  /-- FSETP, R108. -/
  | fsetp (f : Ins)
  /-- FSET, R108. -/
  | fset (f : Ins)
  /-- FCLASS, R109. -/
  | fclass (f : Ins)
  /-- FRND, R110. -/
  | frnd (f : Ins)
  /-- FSCALE, R106. -/
  | fscale (f : Ins)
  /-- FGETEXP, R110. -/
  | fgetexp (f : Ins)
  /-- FGETMAN, R110. -/
  | fgetman (f : Ins)
  /-- PADD2, R106. -/
  | padd2 (f : Ins)
  /-- PMUL2, R106. -/
  | pmul2 (f : Ins)
  /-- PFMA2, R106. -/
  | pfma2 (f : Ins)
  /-- PMIN2, R107. -/
  | pmin2 (f : Ins)
  /-- PMAX2, R107. -/
  | pmax2 (f : Ins)
  /-- PSETP2, R108. -/
  | psetp2 (f : Ins)
  /-- DADD, R106. -/
  | dadd (f : Ins)
  /-- DMUL, R106. -/
  | dmul (f : Ins)
  /-- DFMA, R106. -/
  | dfma (f : Ins)
  /-- DMIN, R107. -/
  | dmin (f : Ins)
  /-- DMAX, R107. -/
  | dmax (f : Ins)
  /-- DSETP, R108. -/
  | dsetp (f : Ins)
  /-- CVT, R111. -/
  | cvt (f : Ins)
  /-- CVTSR, R114. -/
  | cvtsr (f : Ins)
  /-- PACK2, R115. -/
  | pack2 (f : Ins)
  /-- UNPK2, R115. -/
  | unpk2 (f : Ins)
  /-- PACK4, R115. -/
  | pack4 (f : Ins)
  /-- UNPK4, R115. -/
  | unpk4 (f : Ins)
  /-- QCB4, R116. -/
  | qcb4 (f : Ins)
  /-- DQCB4, R117. -/
  | dqcb4 (f : Ins)
  /-- FRCP, R119. -/
  | frcp (f : Ins)
  /-- FRSQ, R119. -/
  | frsq (f : Ins)
  /-- FSQRT, R119. -/
  | fsqrt (f : Ins)
  /-- FEX2, R119. -/
  | fex2 (f : Ins)
  /-- FLG2, R119. -/
  | flg2 (f : Ins)
  /-- FSIN, R122. -/
  | fsin (f : Ins)
  /-- FCOS, R122. -/
  | fcos (f : Ins)
  /-- FSINR, R120. -/
  | fsinr (f : Ins)
  /-- FCOSR, R120. -/
  | fcosr (f : Ins)
  /-- FTANH, R120. -/
  | ftanh (f : Ins)
  /-- FSIGM, R120. -/
  | fsigm (f : Ins)
  /-- TBLEV, R123. -/
  | tblev (f : Ins)
  /-- FDIVF, R121. -/
  | fdivf (f : Ins)
  /-- LDG, R133. -/
  | ldg (f : Ins)
  /-- STG, R133. -/
  | stg (f : Ins)
  /-- LDS, R133. -/
  | lds (f : Ins)
  /-- STS, R133. -/
  | sts (f : Ins)
  /-- LDA, R133. -/
  | lda (f : Ins)
  /-- STA, R133. -/
  | sta (f : Ins)
  /-- LDO, R133. -/
  | ldo (f : Ins)
  /-- STO, R133. -/
  | sto (f : Ins)
  /-- ATOMG, R137. -/
  | atomg (f : Ins)
  /-- ATOMS, R137. -/
  | atoms (f : Ins)
  /-- REDG, R137. -/
  | redg (f : Ins)
  /-- REDS, R137. -/
  | reds (f : Ins)
  /-- CASG, R137. -/
  | casg (f : Ins)
  /-- CASS, R137. -/
  | cass (f : Ins)
  /-- PREF, R138. -/
  | pref (f : Ins)
  /-- FENCE, R139. -/
  | fence (f : Ins)
  /-- BRA, R181. -/
  | bra (f : Ins)
  /-- BRX, R181. -/
  | brx (f : Ins)
  /-- CALL, R181. -/
  | call (f : Ins)
  /-- CALLX, R181. -/
  | callx (f : Ins)
  /-- RET, R181. -/
  | ret (f : Ins)
  /-- EXIT, R182. -/
  | exit (f : Ins)
  /-- RJE, R183. -/
  | rje (f : Ins)
  /-- RJW, R152. -/
  | rjw (f : Ins)
  /-- RJX, R152. -/
  | rjx (f : Ins)
  /-- RJRD, R184. -/
  | rjrd (f : Ins)
  /-- VOTE, R186. -/
  | vote (f : Ins)
  /-- MATCH, R187. -/
  | matchW (f : Ins)
  /-- ELECT, R188. -/
  | elect (f : Ins)
  /-- SHFL, R189. -/
  | shfl (f : Ins)
  /-- REDW, R190. -/
  | redw (f : Ins)
  /-- SCANW, R191. -/
  | scanw (f : Ins)
  /-- VTOU, R192. -/
  | vtou (f : Ins)
  /-- FIBSW, R193. -/
  | fibsw (f : Ins)
  /-- FBARA, R160. -/
  | fbara (f : Ins)
  /-- FBARW, R160. -/
  | fbarw (f : Ins)
  /-- FIBQ_STATE, R195. -/
  | fibqState (f : Ins)
  /-- FIBQ_REC, R195. -/
  | fibqRec (f : Ins)
  /-- FRESUME, R196. -/
  | fresume (f : Ins)
  /-- RSR, R199. -/
  | rsr (f : Ins)
  /-- WSR, R200. -/
  | wsr (f : Ins)
  /-- SETX, R203. -/
  | setx (f : Ins)
  /-- ADDX, R203. -/
  | addx (f : Ins)
  /-- TRAP, R204. -/
  | trap (f : Ins)
  /-- TRET, R205. -/
  | tret (f : Ins)
  /-- BPT, R204. -/
  | bpt (f : Ins)
  /-- NOP, R206. -/
  | nop (f : Ins)
  /-- YIELD, R206. -/
  | yield (f : Ins)
  /-- RACTL_OFF, R207. -/
  | ractlOff (f : Ins)
  /-- RACTL_ON, R207. -/
  | ractlOn (f : Ins)
  /-- RACTL_THR, R207. -/
  | ractlThr (f : Ins)
  /-- NPB, R208. -/
  | npb (f : Ins)
  /-- NPE, R208. -/
  | npe (f : Ins)
  /-- UIADD, R209. -/
  | uiadd (f : Ins)
  /-- UISUB, R209. -/
  | uisub (f : Ins)
  /-- UIMUL, R209. -/
  | uimul (f : Ins)
  /-- UBLUT, R209. -/
  | ublut (f : Ins)
  /-- USHL, R209. -/
  | ushl (f : Ins)
  /-- USHR, R209. -/
  | ushr (f : Ins)
  /-- UICMPP, R210. -/
  | uicmpp (f : Ins)
  /-- UMOV, R209. -/
  | umov (f : Ins)
  /-- UMOVI, R210. -/
  | umovi (f : Ins)
  /-- ULEA, R209. -/
  | ulea (f : Ins)
  /-- USEL, R209. -/
  | usel (f : Ins)
  /-- UPOPC, R209. -/
  | upopc (f : Ins)
  /-- CPY, R264. -/
  | cpy (f : Ins)
  /-- GATH, R265. -/
  | gath (f : Ins)
  /-- SCAT, R265. -/
  | scat (f : Ins)
  /-- CHAIN, R268. -/
  | chain (f : Ins)
  /-- KWAIT, R272. -/
  | kwait (f : Ins)
  /-- KADJ, R272. -/
  | kadj (f : Ins)
  /-- KRD, R272. -/
  | krd (f : Ins)
  /-- OPF, R293. -/
  | opf (f : Ins)
  /-- GANG, R281. -/
  | gang (f : Ins)
  /-- MMA, R288. -/
  | mma (f : Ins)
  /-- MMAS, R291. -/
  | mmas (f : Ins)
  /-- ACCZ, R296. -/
  | accz (f : Ins)
  /-- ACCZ_ST, R296. -/
  | acczSt (f : Ins)
  /-- ACCLD, R297. -/
  | accld (f : Ins)
  /-- ACCCVT, R298. -/
  | acccvt (f : Ins)
  /-- ACCSCL, R299. -/
  | accscl (f : Ins)
  /-- TBLLD, R270. -/
  | tblld (f : Ins)
  /-- TBLSWP, R271. -/
  | tblswp (f : Ins)
  /-- CBLD, R270. -/
  | cbld (f : Ins)
  /-- BARA, R312. -/
  | bara (f : Ins)
  /-- BARW, R313. -/
  | barw (f : Ins)
  /-- BARS, R314. -/
  | bars (f : Ins)
  /-- BARX, R314. -/
  | barx (f : Ins)
  /-- CPYR, R331. -/
  | cpyr (f : Ins)
  /-- CPYM, R331. -/
  | cpym (f : Ins)
  /-- REDR, R336. -/
  | redr (f : Ins)
  /-- NOTIFY, R354. -/
  | notify (f : Ins)
  /-- KICKCFG_OPEN, R353. -/
  | kickcfgOpen (f : Ins)
  /-- KICKCFG_FREE, R353. -/
  | kickcfgFree (f : Ins)
  /-- KICKCFG_CLOSE, R353. -/
  | kickcfgClose (f : Ins)
  /-- MIGRATE, R357. -/
  | migrate (f : Ins)
  /-- WAITA, R359. -/
  | waita (f : Ins)
  /-- WAKEA, R360. -/
  | wakea (f : Ins)
  /-- PTADV, R361. -/
  | ptadv (f : Ins)
  /-- SPAWN, R398. -/
  | spawn (f : Ins)
  /-- JOIN, R400. -/
  | join (f : Ins)
  /-- SVC, R427. -/
  | svc (f : Ins)
  /-- UISEND, R436. -/
  | uisend (f : Ins)
  /-- UIWAIT, R438. -/
  | uiwait (f : Ins)
  /-- UIACK, R439. -/
  | uiack (f : Ins)
  /-- UIHDL_VI, R440. -/
  | uihdlVi (f : Ins)
  /-- UIHDL_BLK, R440. -/
  | uihdlBlk (f : Ins)
  /-- UIHDL_MASK, R440. -/
  | uihdlMask (f : Ins)
  /-- MCST, R444. -/
  | mcst (f : Ins)
  /-- MRED, R444. -/
  | mred (f : Ins)
  /-- PCPY, R459. -/
  | pcpy (f : Ins)
  /-- PNOTIFY, R460. -/
  | pnotify (f : Ins)
  /-- PATOM, R461. -/
  | patom (f : Ins)
  /-- CSRR, R474. -/
  | csrr (f : Ins)
  /-- CSRW, R474. -/
  | csrw (f : Ins)
  /-- CTXSV, R402. -/
  | ctxsv (f : Ins)
  /-- CTXRS, R402. -/
  | ctxrs (f : Ins)
  /-- RECALL, R374. -/
  | recall (f : Ins)
  /-- HALT, R475. -/
  | halt (f : Ins)
  /-- UNASSIGNED_OPCODE, R60. -/
  | unassignedOpcode (word : BitVec 96)
  /-- FETCH_RETURN, R42. -/
  | fetchReturn
  /-- LOAD_COMPLETION, R235. -/
  | loadCompletion
  /-- RUNAHEAD_ENTRY, R211. -/
  | runaheadEntry
  /-- QUANTUM_EXPIRY, R159. -/
  | quantumExpiry
  /-- FREEZE_LIMIT_EXPIRY, R174. -/
  | freezeLimitExpiry
  /-- NPX, R317. -/
  | npx
  /-- COMMAND_START, R254. -/
  | commandStart
  /-- COMMAND_COMPLETION, R251. -/
  | commandCompletion
  /-- L1_EVICTION, R234. -/
  | l1Eviction
  /-- HOME_GRANT, R230. -/
  | homeGrant
  /-- HOME_WRITE, R230. -/
  | homeWrite
  /-- HOME_ATOMIC, R240. -/
  | homeAtomic
  /-- WAIT_REGISTRATION, R358. -/
  | waitRegistration
  /-- REQUESTER_SIDE_READ, R346. -/
  | requesterSideRead
  /-- REQUESTER_SIDE_DROP, R346. -/
  | requesterSideDrop
  /-- REQUEST_REPLY, R350. -/
  | requestReply
  /-- REQUEST_TIMER, R350. -/
  | requestTimer
  /-- FILL_PIN_RELEASE, R348. -/
  | fillPinRelease
  /-- L2_EVICTION, R348. -/
  | l2Eviction
  /-- MEMORY_WRITEBACK, R378. -/
  | memoryWriteback
  /-- MEMORY_FILL, R378. -/
  | memoryFill
  /-- TRANSLATION_WALK, R370. -/
  | translationWalk
  /-- BEACON_BROADCAST, R379. -/
  | beaconBroadcast
  /-- BEACON_REPORT, R379. -/
  | beaconReport
  /-- SWEEP_PASS, R381. -/
  | sweepPass
  /-- HORIZON_STEP, R380. -/
  | horizonStep
  /-- REFRESH, R384. -/
  | refresh
  /-- SCRUB, R384. -/
  | scrub
  /-- STORE_ERROR, R322. -/
  | storeError
  /-- MEMORY_ERROR, R385. -/
  | memoryError
  /-- PURGE_REPORT, R409. -/
  | purgeReport
  /-- TASK_TAKE, R389. -/
  | taskTake
  /-- BLOCK_ADMISSION, R319. -/
  | blockAdmission
  /-- BYPASS_LIMIT, R392. -/
  | bypassLimit
  /-- BLOCK_FREE, R320. -/
  | blockFree
  /-- OVERFLOW_STORE_DRAIN, R400. -/
  | overflowStoreDrain
  /-- BLOCK_SAVE, R318. -/
  | blockSave
  /-- BLOCK_RESTORE, R406. -/
  | blockRestore
  /-- MIGRATE_ARRIVAL, R357. -/
  | migrateArrival
  /-- DRAIN_LIMIT_EXPIRY, R401. -/
  | drainLimitExpiry
  /-- DRAIN_COMPLETE, R401. -/
  | drainComplete
  /-- RECALL_COMPLETION, R374. -/
  | recallCompletion
  /-- NOTICE_ARRIVAL, R354. -/
  | noticeArrival
  /-- NOTICE_RESEND, R354. -/
  | noticeResend
  /-- NOTICE_LANDING, R355. -/
  | noticeLanding
  /-- SERVICE_REPLY, R427. -/
  | serviceReply
  /-- SEND_ACCEPT, R437. -/
  | sendAccept
  /-- KEEPER_AREA_WRITE, R431. -/
  | keeperAreaWrite
  /-- FAULT_BATCH_CLOSE, R396. -/
  | faultBatchClose
  /-- TAMPER_TURN, R410. -/
  | tamperTurn
  /-- TAMPER_DRAIN_TIMEOUT, R411. -/
  | tamperDrainTimeout
  /-- TAMPER_SCAN, R412. -/
  | tamperScan
  /-- SUBMIT, R391. -/
  | submit
  /-- REARM, R395. -/
  | rearm
  /-- PURGE, R408. -/
  | purge
  /-- VI_PREEMPT, R401. -/
  | viPreempt
  /-- VI_RESUME, R401. -/
  | viResume
  /-- UIDOOR, R433. -/
  | uidoor
  /-- PERMSYNC, R431. -/
  | permsync
  /-- UIREFUSE_CLEAR, R432. -/
  | uirefuseClear
  /-- HOST_CXL_MEM_READ, R418. -/
  | hostCxlMemRead
  /-- HOST_CXL_MEM_WRITE, R418. -/
  | hostCxlMemWrite
  /-- SNP_DATA, R416. -/
  | snpData
  /-- SNP_INV, R416. -/
  | snpInv
  /-- BRIDGE_EVICTION, R416. -/
  | bridgeEviction
  /-- BISNPINV_RESPONSE, R418. -/
  | bisnpinvResponse
  /-- BIAS_FLIP_TO_DEVICE, R420. -/
  | biasFlipToDevice
  /-- BIAS_FLIP_TO_HOST, R420. -/
  | biasFlipToHost
  /-- HWAIT, R423. -/
  | hwait
  /-- ADOPT, R425. -/
  | adopt
  /-- RELEASE, R425. -/
  | release
  /-- HANDOVER_UPDATE, R424. -/
  | handoverUpdate
  /-- CFGO, R430. -/
  | cfgo
  /-- IMAGE_SWITCH, R430. -/
  | imageSwitch
  /-- FEATACC_WRITE, R468. -/
  | feataccWrite
  /-- EVSET, R475. -/
  | evset
  /-- PORT_ENABLE, R447. -/
  | portEnable
  /-- PORT_DISABLE, R447. -/
  | portDisable
  /-- TRAINING_COMPLETE, R447. -/
  | trainingComplete
  /-- TRAINING_TIMEOUT, R447. -/
  | trainingTimeout
  /-- PORT_FAILURE, R454. -/
  | portFailure
  /-- FLIT_RECEIVE, R446. -/
  | flitReceive
  /-- FLIT_REPLAY, R446. -/
  | flitReplay
  /-- PACKET_ARRIVAL, R449. -/
  | packetArrival
  /-- ESCAPE_MOVE, R450. -/
  | escapeMove
  /-- ESCAPE_DROP, R450. -/
  | escapeDrop
  /-- FABRIC_REQUEST_TIMER, R452. -/
  | fabricRequestTimer
  /-- FABRIC_REPLY, R452. -/
  | fabricReply
  /-- INBOUND_PEER_ACCESS, R456. -/
  | inboundPeerAccess
  /-- MANAGEMENT_PACKET, R457. -/
  | managementPacket
  /-- RESET, R383. -/
  | reset
  /-- BOOT, R465. -/
  | boot
  /-- POWER_THROTTLE, R476. -/
  | powerThrottle
  /-- THERMAL_STOP, R476. -/
  | thermalStop
  /-- TELEMETRY_SAMPLE, R472. -/
  | telemetrySample
  /-- REGISTER_WRITE, R8. -/
  | registerWrite
  /-- INSTRUCTION_COMPLETION, R39. -/
  | instructionCompletion
  /-- REMOTE_REDUCTION, R336. -/
  | remoteReduction
  /-- SERVICE_BATCH_START, R427. -/
  | serviceBatchStart
  /-- CXL_CACHE_RESPONSE, R416. -/
  | cxlCacheResponse
  /-- HEAD_LINK_DOWN, R425. -/
  | headLinkDown
  /-- HEAD_LINK_UP, R422. -/
  | headLinkUp
deriving DecidableEq, Repr

/-- The instruction of a form with the fields `f`. -/
def Op.instr (o : Op) (f : Ins) : Instr :=
  match o with
  | .iadd => .iadd f
  | .isub => .isub f
  | .iaddc => .iaddc f
  | .isubb => .isubb f
  | .imul => .imul f
  | .imulh => .imulh f
  | .imad => .imad f
  | .imadw => .imadw f
  | .imin => .imin f
  | .imax => .imax f
  | .iabs => .iabs f
  | .ineg => .ineg f
  | .iclamp => .iclamp f
  | .isad => .isad f
  | .idp4 => .idp4 f
  | .idp2 => .idp2 f
  | .and => .and f
  | .or => .or f
  | .xor => .xor f
  | .andn => .andn f
  | .orn => .orn f
  | .not => .not f
  | .blut => .blut f
  | .shl => .shl f
  | .shr => .shr f
  | .sar => .sar f
  | .rol => .rol f
  | .ror => .ror f
  | .fshl => .fshl f
  | .fshr => .fshr f
  | .bfe => .bfe f
  | .bfi => .bfi f
  | .brev => .brev f
  | .popc => .popc f
  | .clz => .clz f
  | .ctz => .ctz f
  | .bmsk => .bmsk f
  | .prmt => .prmt f
  | .icmpp => .icmpp f
  | .iset => .iset f
  | .sel => .sel f
  | .mov => .mov f
  | .movi => .movi f
  | .lea => .lea f
  | .psetp => .psetp f
  | .ptov => .ptov f
  | .vtop => .vtop f
  | .fadd => .fadd f
  | .fsub => .fsub f
  | .fmul => .fmul f
  | .ffma => .ffma f
  | .fmin => .fmin f
  | .fmax => .fmax f
  | .fsetp => .fsetp f
  | .fset => .fset f
  | .fclass => .fclass f
  | .frnd => .frnd f
  | .fscale => .fscale f
  | .fgetexp => .fgetexp f
  | .fgetman => .fgetman f
  | .padd2 => .padd2 f
  | .pmul2 => .pmul2 f
  | .pfma2 => .pfma2 f
  | .pmin2 => .pmin2 f
  | .pmax2 => .pmax2 f
  | .psetp2 => .psetp2 f
  | .dadd => .dadd f
  | .dmul => .dmul f
  | .dfma => .dfma f
  | .dmin => .dmin f
  | .dmax => .dmax f
  | .dsetp => .dsetp f
  | .cvt => .cvt f
  | .cvtsr => .cvtsr f
  | .pack2 => .pack2 f
  | .unpk2 => .unpk2 f
  | .pack4 => .pack4 f
  | .unpk4 => .unpk4 f
  | .qcb4 => .qcb4 f
  | .dqcb4 => .dqcb4 f
  | .frcp => .frcp f
  | .frsq => .frsq f
  | .fsqrt => .fsqrt f
  | .fex2 => .fex2 f
  | .flg2 => .flg2 f
  | .fsin => .fsin f
  | .fcos => .fcos f
  | .fsinr => .fsinr f
  | .fcosr => .fcosr f
  | .ftanh => .ftanh f
  | .fsigm => .fsigm f
  | .tblev => .tblev f
  | .fdivf => .fdivf f
  | .ldg => .ldg f
  | .stg => .stg f
  | .lds => .lds f
  | .sts => .sts f
  | .lda => .lda f
  | .sta => .sta f
  | .ldo => .ldo f
  | .sto => .sto f
  | .atomg => .atomg f
  | .atoms => .atoms f
  | .redg => .redg f
  | .reds => .reds f
  | .casg => .casg f
  | .cass => .cass f
  | .pref => .pref f
  | .fence => .fence f
  | .bra => .bra f
  | .brx => .brx f
  | .call => .call f
  | .callx => .callx f
  | .ret => .ret f
  | .exit => .exit f
  | .rje => .rje f
  | .rjw => .rjw f
  | .rjx => .rjx f
  | .rjrd => .rjrd f
  | .vote => .vote f
  | .matchW => .matchW f
  | .elect => .elect f
  | .shfl => .shfl f
  | .redw => .redw f
  | .scanw => .scanw f
  | .vtou => .vtou f
  | .fibsw => .fibsw f
  | .fbara => .fbara f
  | .fbarw => .fbarw f
  | .fibqState => .fibqState f
  | .fibqRec => .fibqRec f
  | .fresume => .fresume f
  | .rsr => .rsr f
  | .wsr => .wsr f
  | .setx => .setx f
  | .addx => .addx f
  | .trap => .trap f
  | .tret => .tret f
  | .bpt => .bpt f
  | .nop => .nop f
  | .yield => .yield f
  | .ractlOff => .ractlOff f
  | .ractlOn => .ractlOn f
  | .ractlThr => .ractlThr f
  | .npb => .npb f
  | .npe => .npe f
  | .uiadd => .uiadd f
  | .uisub => .uisub f
  | .uimul => .uimul f
  | .ublut => .ublut f
  | .ushl => .ushl f
  | .ushr => .ushr f
  | .uicmpp => .uicmpp f
  | .umov => .umov f
  | .umovi => .umovi f
  | .ulea => .ulea f
  | .usel => .usel f
  | .upopc => .upopc f
  | .cpy => .cpy f
  | .gath => .gath f
  | .scat => .scat f
  | .chain => .chain f
  | .kwait => .kwait f
  | .kadj => .kadj f
  | .krd => .krd f
  | .opf => .opf f
  | .gang => .gang f
  | .mma => .mma f
  | .mmas => .mmas f
  | .accz => .accz f
  | .acczSt => .acczSt f
  | .accld => .accld f
  | .acccvt => .acccvt f
  | .accscl => .accscl f
  | .tblld => .tblld f
  | .tblswp => .tblswp f
  | .cbld => .cbld f
  | .bara => .bara f
  | .barw => .barw f
  | .bars => .bars f
  | .barx => .barx f
  | .cpyr => .cpyr f
  | .cpym => .cpym f
  | .redr => .redr f
  | .notify => .notify f
  | .kickcfgOpen => .kickcfgOpen f
  | .kickcfgFree => .kickcfgFree f
  | .kickcfgClose => .kickcfgClose f
  | .migrate => .migrate f
  | .waita => .waita f
  | .wakea => .wakea f
  | .ptadv => .ptadv f
  | .spawn => .spawn f
  | .join => .join f
  | .svc => .svc f
  | .uisend => .uisend f
  | .uiwait => .uiwait f
  | .uiack => .uiack f
  | .uihdlVi => .uihdlVi f
  | .uihdlBlk => .uihdlBlk f
  | .uihdlMask => .uihdlMask f
  | .mcst => .mcst f
  | .mred => .mred f
  | .pcpy => .pcpy f
  | .pnotify => .pnotify f
  | .patom => .patom f
  | .csrr => .csrr f
  | .csrw => .csrw f
  | .ctxsv => .ctxsv f
  | .ctxrs => .ctxrs f
  | .recall => .recall f
  | .halt => .halt f

/-- The form and the fields of an instruction; none for an event. -/
def Instr.form? (i : Instr) : Option (Op × Ins) :=
  match i with
  | .iadd f => some (.iadd, f)
  | .isub f => some (.isub, f)
  | .iaddc f => some (.iaddc, f)
  | .isubb f => some (.isubb, f)
  | .imul f => some (.imul, f)
  | .imulh f => some (.imulh, f)
  | .imad f => some (.imad, f)
  | .imadw f => some (.imadw, f)
  | .imin f => some (.imin, f)
  | .imax f => some (.imax, f)
  | .iabs f => some (.iabs, f)
  | .ineg f => some (.ineg, f)
  | .iclamp f => some (.iclamp, f)
  | .isad f => some (.isad, f)
  | .idp4 f => some (.idp4, f)
  | .idp2 f => some (.idp2, f)
  | .and f => some (.and, f)
  | .or f => some (.or, f)
  | .xor f => some (.xor, f)
  | .andn f => some (.andn, f)
  | .orn f => some (.orn, f)
  | .not f => some (.not, f)
  | .blut f => some (.blut, f)
  | .shl f => some (.shl, f)
  | .shr f => some (.shr, f)
  | .sar f => some (.sar, f)
  | .rol f => some (.rol, f)
  | .ror f => some (.ror, f)
  | .fshl f => some (.fshl, f)
  | .fshr f => some (.fshr, f)
  | .bfe f => some (.bfe, f)
  | .bfi f => some (.bfi, f)
  | .brev f => some (.brev, f)
  | .popc f => some (.popc, f)
  | .clz f => some (.clz, f)
  | .ctz f => some (.ctz, f)
  | .bmsk f => some (.bmsk, f)
  | .prmt f => some (.prmt, f)
  | .icmpp f => some (.icmpp, f)
  | .iset f => some (.iset, f)
  | .sel f => some (.sel, f)
  | .mov f => some (.mov, f)
  | .movi f => some (.movi, f)
  | .lea f => some (.lea, f)
  | .psetp f => some (.psetp, f)
  | .ptov f => some (.ptov, f)
  | .vtop f => some (.vtop, f)
  | .fadd f => some (.fadd, f)
  | .fsub f => some (.fsub, f)
  | .fmul f => some (.fmul, f)
  | .ffma f => some (.ffma, f)
  | .fmin f => some (.fmin, f)
  | .fmax f => some (.fmax, f)
  | .fsetp f => some (.fsetp, f)
  | .fset f => some (.fset, f)
  | .fclass f => some (.fclass, f)
  | .frnd f => some (.frnd, f)
  | .fscale f => some (.fscale, f)
  | .fgetexp f => some (.fgetexp, f)
  | .fgetman f => some (.fgetman, f)
  | .padd2 f => some (.padd2, f)
  | .pmul2 f => some (.pmul2, f)
  | .pfma2 f => some (.pfma2, f)
  | .pmin2 f => some (.pmin2, f)
  | .pmax2 f => some (.pmax2, f)
  | .psetp2 f => some (.psetp2, f)
  | .dadd f => some (.dadd, f)
  | .dmul f => some (.dmul, f)
  | .dfma f => some (.dfma, f)
  | .dmin f => some (.dmin, f)
  | .dmax f => some (.dmax, f)
  | .dsetp f => some (.dsetp, f)
  | .cvt f => some (.cvt, f)
  | .cvtsr f => some (.cvtsr, f)
  | .pack2 f => some (.pack2, f)
  | .unpk2 f => some (.unpk2, f)
  | .pack4 f => some (.pack4, f)
  | .unpk4 f => some (.unpk4, f)
  | .qcb4 f => some (.qcb4, f)
  | .dqcb4 f => some (.dqcb4, f)
  | .frcp f => some (.frcp, f)
  | .frsq f => some (.frsq, f)
  | .fsqrt f => some (.fsqrt, f)
  | .fex2 f => some (.fex2, f)
  | .flg2 f => some (.flg2, f)
  | .fsin f => some (.fsin, f)
  | .fcos f => some (.fcos, f)
  | .fsinr f => some (.fsinr, f)
  | .fcosr f => some (.fcosr, f)
  | .ftanh f => some (.ftanh, f)
  | .fsigm f => some (.fsigm, f)
  | .tblev f => some (.tblev, f)
  | .fdivf f => some (.fdivf, f)
  | .ldg f => some (.ldg, f)
  | .stg f => some (.stg, f)
  | .lds f => some (.lds, f)
  | .sts f => some (.sts, f)
  | .lda f => some (.lda, f)
  | .sta f => some (.sta, f)
  | .ldo f => some (.ldo, f)
  | .sto f => some (.sto, f)
  | .atomg f => some (.atomg, f)
  | .atoms f => some (.atoms, f)
  | .redg f => some (.redg, f)
  | .reds f => some (.reds, f)
  | .casg f => some (.casg, f)
  | .cass f => some (.cass, f)
  | .pref f => some (.pref, f)
  | .fence f => some (.fence, f)
  | .bra f => some (.bra, f)
  | .brx f => some (.brx, f)
  | .call f => some (.call, f)
  | .callx f => some (.callx, f)
  | .ret f => some (.ret, f)
  | .exit f => some (.exit, f)
  | .rje f => some (.rje, f)
  | .rjw f => some (.rjw, f)
  | .rjx f => some (.rjx, f)
  | .rjrd f => some (.rjrd, f)
  | .vote f => some (.vote, f)
  | .matchW f => some (.matchW, f)
  | .elect f => some (.elect, f)
  | .shfl f => some (.shfl, f)
  | .redw f => some (.redw, f)
  | .scanw f => some (.scanw, f)
  | .vtou f => some (.vtou, f)
  | .fibsw f => some (.fibsw, f)
  | .fbara f => some (.fbara, f)
  | .fbarw f => some (.fbarw, f)
  | .fibqState f => some (.fibqState, f)
  | .fibqRec f => some (.fibqRec, f)
  | .fresume f => some (.fresume, f)
  | .rsr f => some (.rsr, f)
  | .wsr f => some (.wsr, f)
  | .setx f => some (.setx, f)
  | .addx f => some (.addx, f)
  | .trap f => some (.trap, f)
  | .tret f => some (.tret, f)
  | .bpt f => some (.bpt, f)
  | .nop f => some (.nop, f)
  | .yield f => some (.yield, f)
  | .ractlOff f => some (.ractlOff, f)
  | .ractlOn f => some (.ractlOn, f)
  | .ractlThr f => some (.ractlThr, f)
  | .npb f => some (.npb, f)
  | .npe f => some (.npe, f)
  | .uiadd f => some (.uiadd, f)
  | .uisub f => some (.uisub, f)
  | .uimul f => some (.uimul, f)
  | .ublut f => some (.ublut, f)
  | .ushl f => some (.ushl, f)
  | .ushr f => some (.ushr, f)
  | .uicmpp f => some (.uicmpp, f)
  | .umov f => some (.umov, f)
  | .umovi f => some (.umovi, f)
  | .ulea f => some (.ulea, f)
  | .usel f => some (.usel, f)
  | .upopc f => some (.upopc, f)
  | .cpy f => some (.cpy, f)
  | .gath f => some (.gath, f)
  | .scat f => some (.scat, f)
  | .chain f => some (.chain, f)
  | .kwait f => some (.kwait, f)
  | .kadj f => some (.kadj, f)
  | .krd f => some (.krd, f)
  | .opf f => some (.opf, f)
  | .gang f => some (.gang, f)
  | .mma f => some (.mma, f)
  | .mmas f => some (.mmas, f)
  | .accz f => some (.accz, f)
  | .acczSt f => some (.acczSt, f)
  | .accld f => some (.accld, f)
  | .acccvt f => some (.acccvt, f)
  | .accscl f => some (.accscl, f)
  | .tblld f => some (.tblld, f)
  | .tblswp f => some (.tblswp, f)
  | .cbld f => some (.cbld, f)
  | .bara f => some (.bara, f)
  | .barw f => some (.barw, f)
  | .bars f => some (.bars, f)
  | .barx f => some (.barx, f)
  | .cpyr f => some (.cpyr, f)
  | .cpym f => some (.cpym, f)
  | .redr f => some (.redr, f)
  | .notify f => some (.notify, f)
  | .kickcfgOpen f => some (.kickcfgOpen, f)
  | .kickcfgFree f => some (.kickcfgFree, f)
  | .kickcfgClose f => some (.kickcfgClose, f)
  | .migrate f => some (.migrate, f)
  | .waita f => some (.waita, f)
  | .wakea f => some (.wakea, f)
  | .ptadv f => some (.ptadv, f)
  | .spawn f => some (.spawn, f)
  | .join f => some (.join, f)
  | .svc f => some (.svc, f)
  | .uisend f => some (.uisend, f)
  | .uiwait f => some (.uiwait, f)
  | .uiack f => some (.uiack, f)
  | .uihdlVi f => some (.uihdlVi, f)
  | .uihdlBlk f => some (.uihdlBlk, f)
  | .uihdlMask f => some (.uihdlMask, f)
  | .mcst f => some (.mcst, f)
  | .mred f => some (.mred, f)
  | .pcpy f => some (.pcpy, f)
  | .pnotify f => some (.pnotify, f)
  | .patom f => some (.patom, f)
  | .csrr f => some (.csrr, f)
  | .csrw f => some (.csrw, f)
  | .ctxsv f => some (.ctxsv, f)
  | .ctxrs f => some (.ctxrs, f)
  | .recall f => some (.recall, f)
  | .halt f => some (.halt, f)
  | .unassignedOpcode .. => none
  | .fetchReturn .. => none
  | .loadCompletion .. => none
  | .runaheadEntry .. => none
  | .quantumExpiry .. => none
  | .freezeLimitExpiry .. => none
  | .npx .. => none
  | .commandStart .. => none
  | .commandCompletion .. => none
  | .l1Eviction .. => none
  | .homeGrant .. => none
  | .homeWrite .. => none
  | .homeAtomic .. => none
  | .waitRegistration .. => none
  | .requesterSideRead .. => none
  | .requesterSideDrop .. => none
  | .requestReply .. => none
  | .requestTimer .. => none
  | .fillPinRelease .. => none
  | .l2Eviction .. => none
  | .memoryWriteback .. => none
  | .memoryFill .. => none
  | .translationWalk .. => none
  | .beaconBroadcast .. => none
  | .beaconReport .. => none
  | .sweepPass .. => none
  | .horizonStep .. => none
  | .refresh .. => none
  | .scrub .. => none
  | .storeError .. => none
  | .memoryError .. => none
  | .purgeReport .. => none
  | .taskTake .. => none
  | .blockAdmission .. => none
  | .bypassLimit .. => none
  | .blockFree .. => none
  | .overflowStoreDrain .. => none
  | .blockSave .. => none
  | .blockRestore .. => none
  | .migrateArrival .. => none
  | .drainLimitExpiry .. => none
  | .drainComplete .. => none
  | .recallCompletion .. => none
  | .noticeArrival .. => none
  | .noticeResend .. => none
  | .noticeLanding .. => none
  | .serviceReply .. => none
  | .sendAccept .. => none
  | .keeperAreaWrite .. => none
  | .faultBatchClose .. => none
  | .tamperTurn .. => none
  | .tamperDrainTimeout .. => none
  | .tamperScan .. => none
  | .submit .. => none
  | .rearm .. => none
  | .purge .. => none
  | .viPreempt .. => none
  | .viResume .. => none
  | .uidoor .. => none
  | .permsync .. => none
  | .uirefuseClear .. => none
  | .hostCxlMemRead .. => none
  | .hostCxlMemWrite .. => none
  | .snpData .. => none
  | .snpInv .. => none
  | .bridgeEviction .. => none
  | .bisnpinvResponse .. => none
  | .biasFlipToDevice .. => none
  | .biasFlipToHost .. => none
  | .hwait .. => none
  | .adopt .. => none
  | .release .. => none
  | .handoverUpdate .. => none
  | .cfgo .. => none
  | .imageSwitch .. => none
  | .feataccWrite .. => none
  | .evset .. => none
  | .portEnable .. => none
  | .portDisable .. => none
  | .trainingComplete .. => none
  | .trainingTimeout .. => none
  | .portFailure .. => none
  | .flitReceive .. => none
  | .flitReplay .. => none
  | .packetArrival .. => none
  | .escapeMove .. => none
  | .escapeDrop .. => none
  | .fabricRequestTimer .. => none
  | .fabricReply .. => none
  | .inboundPeerAccess .. => none
  | .managementPacket .. => none
  | .reset .. => none
  | .boot .. => none
  | .powerThrottle .. => none
  | .thermalStop .. => none
  | .telemetrySample .. => none
  | .registerWrite .. => none
  | .instructionCompletion .. => none
  | .remoteReduction .. => none
  | .serviceBatchStart .. => none
  | .cxlCacheResponse .. => none
  | .headLinkDown .. => none
  | .headLinkUp .. => none

end Sys2Proof
end

