-- ==== Sys2Proof/Machine/Forms.lean ====
section
/-!
DEFINITION. The forms: for every instruction form its opcode, class, the kinds its fields accept, the layout of X
and what X may hold, and the role, width and format of every operand (R44 to R60, R84 to R88, R103 to R105,
R130 to R132, R178, R179, R209, R260, R285, R295, R310, R329, R334, R352, R373, R397, R402, R426, R435, R443,
R458, R473).
-/

namespace Sys2Proof

/-- A part of the list of forms. -/
def Op.list0 : List Op :=
  [.iadd, .isub, .iaddc, .isubb, .imul, .imulh, .imad, .imadw, .imin, .imax,
   .iabs, .ineg, .iclamp, .isad, .idp4, .idp2, .and, .or, .xor, .andn,
   .orn, .not, .blut, .shl, .shr, .sar, .rol, .ror, .fshl, .fshr,
   .bfe, .bfi, .brev, .popc, .clz, .ctz, .bmsk, .prmt, .icmpp, .iset]

/-- A part of the list of forms. -/
def Op.list1 : List Op :=
  [.sel, .mov, .movi, .lea, .psetp, .ptov, .vtop, .fadd, .fsub, .fmul,
   .ffma, .fmin, .fmax, .fsetp, .fset, .fclass, .frnd, .fscale, .fgetexp, .fgetman,
   .padd2, .pmul2, .pfma2, .pmin2, .pmax2, .psetp2, .dadd, .dmul, .dfma, .dmin,
   .dmax, .dsetp, .cvt, .cvtsr, .pack2, .unpk2, .pack4, .unpk4, .qcb4, .dqcb4]

/-- A part of the list of forms. -/
def Op.list2 : List Op :=
  [.frcp, .frsq, .fsqrt, .fex2, .flg2, .fsin, .fcos, .fsinr, .fcosr, .ftanh,
   .fsigm, .tblev, .fdivf, .ldg, .stg, .lds, .sts, .lda, .sta, .ldo,
   .sto, .atomg, .atoms, .redg, .reds, .casg, .cass, .pref, .fence, .bra,
   .brx, .call, .callx, .ret, .exit, .rje, .rjw, .rjx, .rjrd, .vote]

/-- A part of the list of forms. -/
def Op.list3 : List Op :=
  [.matchW, .elect, .shfl, .redw, .scanw, .vtou, .fibsw, .fbara, .fbarw, .fibqState,
   .fibqRec, .fresume, .rsr, .wsr, .setx, .addx, .trap, .tret, .bpt, .nop,
   .yield, .ractlOff, .ractlOn, .ractlThr, .npb, .npe, .uiadd, .uisub, .uimul, .ublut,
   .ushl, .ushr, .uicmpp, .umov, .umovi, .ulea, .usel, .upopc, .cpy, .gath]

/-- A part of the list of forms. -/
def Op.list4 : List Op :=
  [.scat, .chain, .kwait, .kadj, .krd, .opf, .gang, .mma, .mmas, .accz,
   .acczSt, .accld, .acccvt, .accscl, .tblld, .tblswp, .cbld, .bara, .barw, .bars,
   .barx, .cpyr, .cpym, .redr, .notify, .kickcfgOpen, .kickcfgFree, .kickcfgClose, .migrate, .waita,
   .wakea, .ptadv, .spawn, .join, .svc, .uisend, .uiwait, .uiack, .uihdlVi, .uihdlBlk]

/-- A part of the list of forms. -/
def Op.list5 : List Op :=
  [.uihdlMask, .mcst, .mred, .pcpy, .pnotify, .patom, .csrr, .csrw, .ctxsv, .ctxrs,
   .recall, .halt]

/-- Every form. -/
def Op.all : List Op := Op.list0 ++ Op.list1 ++ Op.list2 ++ Op.list3 ++ Op.list4 ++ Op.list5

/-- The opcode of a form (R59). -/
def Op.code (o : Op) : BitVec 10 :=
  match o with
  | .iadd => 0x000#10
  | .isub => 0x001#10
  | .iaddc => 0x002#10
  | .isubb => 0x003#10
  | .imul => 0x004#10
  | .imulh => 0x005#10
  | .imad => 0x006#10
  | .imadw => 0x007#10
  | .imin => 0x008#10
  | .imax => 0x009#10
  | .iabs => 0x00A#10
  | .ineg => 0x00B#10
  | .iclamp => 0x00C#10
  | .isad => 0x00D#10
  | .idp4 => 0x00E#10
  | .idp2 => 0x00F#10
  | .and => 0x010#10
  | .or => 0x011#10
  | .xor => 0x012#10
  | .andn => 0x013#10
  | .orn => 0x014#10
  | .not => 0x015#10
  | .blut => 0x016#10
  | .shl => 0x017#10
  | .shr => 0x018#10
  | .sar => 0x019#10
  | .rol => 0x01A#10
  | .ror => 0x01B#10
  | .fshl => 0x01C#10
  | .fshr => 0x01D#10
  | .bfe => 0x01E#10
  | .bfi => 0x01F#10
  | .brev => 0x020#10
  | .popc => 0x021#10
  | .clz => 0x022#10
  | .ctz => 0x023#10
  | .bmsk => 0x024#10
  | .prmt => 0x025#10
  | .icmpp => 0x026#10
  | .iset => 0x027#10
  | .sel => 0x028#10
  | .mov => 0x029#10
  | .movi => 0x02A#10
  | .lea => 0x02B#10
  | .psetp => 0x02C#10
  | .ptov => 0x02D#10
  | .vtop => 0x02E#10
  | .fadd => 0x080#10
  | .fsub => 0x081#10
  | .fmul => 0x082#10
  | .ffma => 0x083#10
  | .fmin => 0x084#10
  | .fmax => 0x085#10
  | .fsetp => 0x086#10
  | .fset => 0x087#10
  | .fclass => 0x088#10
  | .frnd => 0x089#10
  | .fscale => 0x08A#10
  | .fgetexp => 0x08B#10
  | .fgetman => 0x08C#10
  | .padd2 => 0x08D#10
  | .pmul2 => 0x08E#10
  | .pfma2 => 0x08F#10
  | .pmin2 => 0x090#10
  | .pmax2 => 0x091#10
  | .psetp2 => 0x092#10
  | .dadd => 0x093#10
  | .dmul => 0x094#10
  | .dfma => 0x095#10
  | .dmin => 0x096#10
  | .dmax => 0x097#10
  | .dsetp => 0x098#10
  | .cvt => 0x099#10
  | .cvtsr => 0x09A#10
  | .pack2 => 0x09B#10
  | .unpk2 => 0x09C#10
  | .pack4 => 0x09D#10
  | .unpk4 => 0x09E#10
  | .qcb4 => 0x09F#10
  | .dqcb4 => 0x0A0#10
  | .frcp => 0x0A1#10
  | .frsq => 0x0A2#10
  | .fsqrt => 0x0A3#10
  | .fex2 => 0x0A4#10
  | .flg2 => 0x0A5#10
  | .fsin => 0x0A6#10
  | .fcos => 0x0A7#10
  | .fsinr => 0x0A8#10
  | .fcosr => 0x0A9#10
  | .ftanh => 0x0AA#10
  | .fsigm => 0x0AB#10
  | .tblev => 0x0AC#10
  | .fdivf => 0x0AD#10
  | .ldg => 0x100#10
  | .stg => 0x101#10
  | .lds => 0x102#10
  | .sts => 0x103#10
  | .lda => 0x104#10
  | .sta => 0x105#10
  | .ldo => 0x106#10
  | .sto => 0x107#10
  | .atomg => 0x108#10
  | .atoms => 0x109#10
  | .redg => 0x10A#10
  | .reds => 0x10B#10
  | .casg => 0x10C#10
  | .cass => 0x10D#10
  | .pref => 0x10E#10
  | .fence => 0x10F#10
  | .bra => 0x140#10
  | .brx => 0x141#10
  | .call => 0x142#10
  | .callx => 0x143#10
  | .ret => 0x144#10
  | .exit => 0x145#10
  | .rje => 0x146#10
  | .rjw => 0x147#10
  | .rjx => 0x148#10
  | .rjrd => 0x149#10
  | .vote => 0x14A#10
  | .matchW => 0x14B#10
  | .elect => 0x14C#10
  | .shfl => 0x14D#10
  | .redw => 0x14E#10
  | .scanw => 0x14F#10
  | .vtou => 0x150#10
  | .fibsw => 0x151#10
  | .fbara => 0x152#10
  | .fbarw => 0x153#10
  | .fibqState => 0x154#10
  | .fibqRec => 0x154#10
  | .fresume => 0x155#10
  | .rsr => 0x156#10
  | .wsr => 0x157#10
  | .setx => 0x158#10
  | .addx => 0x159#10
  | .trap => 0x15A#10
  | .tret => 0x15B#10
  | .bpt => 0x15C#10
  | .nop => 0x15D#10
  | .yield => 0x15E#10
  | .ractlOff => 0x15F#10
  | .ractlOn => 0x15F#10
  | .ractlThr => 0x15F#10
  | .npb => 0x160#10
  | .npe => 0x161#10
  | .uiadd => 0x1C0#10
  | .uisub => 0x1C1#10
  | .uimul => 0x1C2#10
  | .ublut => 0x1C3#10
  | .ushl => 0x1C4#10
  | .ushr => 0x1C5#10
  | .uicmpp => 0x1C6#10
  | .umov => 0x1C7#10
  | .umovi => 0x1C8#10
  | .ulea => 0x1C9#10
  | .usel => 0x1CA#10
  | .upopc => 0x1CB#10
  | .cpy => 0x200#10
  | .gath => 0x201#10
  | .scat => 0x202#10
  | .chain => 0x203#10
  | .kwait => 0x204#10
  | .kadj => 0x205#10
  | .krd => 0x206#10
  | .opf => 0x207#10
  | .gang => 0x208#10
  | .mma => 0x209#10
  | .mmas => 0x20A#10
  | .accz => 0x20B#10
  | .acczSt => 0x20B#10
  | .accld => 0x20C#10
  | .acccvt => 0x20D#10
  | .accscl => 0x20E#10
  | .tblld => 0x20F#10
  | .tblswp => 0x210#10
  | .cbld => 0x211#10
  | .bara => 0x260#10
  | .barw => 0x261#10
  | .bars => 0x262#10
  | .barx => 0x263#10
  | .cpyr => 0x280#10
  | .cpym => 0x281#10
  | .redr => 0x282#10
  | .notify => 0x2A0#10
  | .kickcfgOpen => 0x2A1#10
  | .kickcfgFree => 0x2A1#10
  | .kickcfgClose => 0x2A1#10
  | .migrate => 0x2A2#10
  | .waita => 0x2A3#10
  | .wakea => 0x2A4#10
  | .ptadv => 0x2A5#10
  | .spawn => 0x2C0#10
  | .join => 0x2C1#10
  | .svc => 0x2C2#10
  | .uisend => 0x2C3#10
  | .uiwait => 0x2C4#10
  | .uiack => 0x2C5#10
  | .uihdlVi => 0x2C6#10
  | .uihdlBlk => 0x2C6#10
  | .uihdlMask => 0x2C6#10
  | .mcst => 0x2C7#10
  | .mred => 0x2C8#10
  | .pcpy => 0x2E0#10
  | .pnotify => 0x2E1#10
  | .patom => 0x2E2#10
  | .csrr => 0x3F0#10
  | .csrw => 0x3F1#10
  | .ctxsv => 0x3F2#10
  | .ctxrs => 0x3F3#10
  | .recall => 0x3F4#10
  | .halt => 0x3F5#10

/-- The form of an opcode, before X chooses among the forms that share it (R59, R178, R295, R352, R435). -/
def Op.ofCode (n : Nat) : Option Op :=
  match n with
  | 0x000 => some .iadd
  | 0x001 => some .isub
  | 0x002 => some .iaddc
  | 0x003 => some .isubb
  | 0x004 => some .imul
  | 0x005 => some .imulh
  | 0x006 => some .imad
  | 0x007 => some .imadw
  | 0x008 => some .imin
  | 0x009 => some .imax
  | 0x00A => some .iabs
  | 0x00B => some .ineg
  | 0x00C => some .iclamp
  | 0x00D => some .isad
  | 0x00E => some .idp4
  | 0x00F => some .idp2
  | 0x010 => some .and
  | 0x011 => some .or
  | 0x012 => some .xor
  | 0x013 => some .andn
  | 0x014 => some .orn
  | 0x015 => some .not
  | 0x016 => some .blut
  | 0x017 => some .shl
  | 0x018 => some .shr
  | 0x019 => some .sar
  | 0x01A => some .rol
  | 0x01B => some .ror
  | 0x01C => some .fshl
  | 0x01D => some .fshr
  | 0x01E => some .bfe
  | 0x01F => some .bfi
  | 0x020 => some .brev
  | 0x021 => some .popc
  | 0x022 => some .clz
  | 0x023 => some .ctz
  | 0x024 => some .bmsk
  | 0x025 => some .prmt
  | 0x026 => some .icmpp
  | 0x027 => some .iset
  | 0x028 => some .sel
  | 0x029 => some .mov
  | 0x02A => some .movi
  | 0x02B => some .lea
  | 0x02C => some .psetp
  | 0x02D => some .ptov
  | 0x02E => some .vtop
  | 0x080 => some .fadd
  | 0x081 => some .fsub
  | 0x082 => some .fmul
  | 0x083 => some .ffma
  | 0x084 => some .fmin
  | 0x085 => some .fmax
  | 0x086 => some .fsetp
  | 0x087 => some .fset
  | 0x088 => some .fclass
  | 0x089 => some .frnd
  | 0x08A => some .fscale
  | 0x08B => some .fgetexp
  | 0x08C => some .fgetman
  | 0x08D => some .padd2
  | 0x08E => some .pmul2
  | 0x08F => some .pfma2
  | 0x090 => some .pmin2
  | 0x091 => some .pmax2
  | 0x092 => some .psetp2
  | 0x093 => some .dadd
  | 0x094 => some .dmul
  | 0x095 => some .dfma
  | 0x096 => some .dmin
  | 0x097 => some .dmax
  | 0x098 => some .dsetp
  | 0x099 => some .cvt
  | 0x09A => some .cvtsr
  | 0x09B => some .pack2
  | 0x09C => some .unpk2
  | 0x09D => some .pack4
  | 0x09E => some .unpk4
  | 0x09F => some .qcb4
  | 0x0A0 => some .dqcb4
  | 0x0A1 => some .frcp
  | 0x0A2 => some .frsq
  | 0x0A3 => some .fsqrt
  | 0x0A4 => some .fex2
  | 0x0A5 => some .flg2
  | 0x0A6 => some .fsin
  | 0x0A7 => some .fcos
  | 0x0A8 => some .fsinr
  | 0x0A9 => some .fcosr
  | 0x0AA => some .ftanh
  | 0x0AB => some .fsigm
  | 0x0AC => some .tblev
  | 0x0AD => some .fdivf
  | 0x100 => some .ldg
  | 0x101 => some .stg
  | 0x102 => some .lds
  | 0x103 => some .sts
  | 0x104 => some .lda
  | 0x105 => some .sta
  | 0x106 => some .ldo
  | 0x107 => some .sto
  | 0x108 => some .atomg
  | 0x109 => some .atoms
  | 0x10A => some .redg
  | 0x10B => some .reds
  | 0x10C => some .casg
  | 0x10D => some .cass
  | 0x10E => some .pref
  | 0x10F => some .fence
  | 0x140 => some .bra
  | 0x141 => some .brx
  | 0x142 => some .call
  | 0x143 => some .callx
  | 0x144 => some .ret
  | 0x145 => some .exit
  | 0x146 => some .rje
  | 0x147 => some .rjw
  | 0x148 => some .rjx
  | 0x149 => some .rjrd
  | 0x14A => some .vote
  | 0x14B => some .matchW
  | 0x14C => some .elect
  | 0x14D => some .shfl
  | 0x14E => some .redw
  | 0x14F => some .scanw
  | 0x150 => some .vtou
  | 0x151 => some .fibsw
  | 0x152 => some .fbara
  | 0x153 => some .fbarw
  | 0x154 => some .fibqState
  | 0x155 => some .fresume
  | 0x156 => some .rsr
  | 0x157 => some .wsr
  | 0x158 => some .setx
  | 0x159 => some .addx
  | 0x15A => some .trap
  | 0x15B => some .tret
  | 0x15C => some .bpt
  | 0x15D => some .nop
  | 0x15E => some .yield
  | 0x15F => some .ractlOff
  | 0x160 => some .npb
  | 0x161 => some .npe
  | 0x1C0 => some .uiadd
  | 0x1C1 => some .uisub
  | 0x1C2 => some .uimul
  | 0x1C3 => some .ublut
  | 0x1C4 => some .ushl
  | 0x1C5 => some .ushr
  | 0x1C6 => some .uicmpp
  | 0x1C7 => some .umov
  | 0x1C8 => some .umovi
  | 0x1C9 => some .ulea
  | 0x1CA => some .usel
  | 0x1CB => some .upopc
  | 0x200 => some .cpy
  | 0x201 => some .gath
  | 0x202 => some .scat
  | 0x203 => some .chain
  | 0x204 => some .kwait
  | 0x205 => some .kadj
  | 0x206 => some .krd
  | 0x207 => some .opf
  | 0x208 => some .gang
  | 0x209 => some .mma
  | 0x20A => some .mmas
  | 0x20B => some .accz
  | 0x20C => some .accld
  | 0x20D => some .acccvt
  | 0x20E => some .accscl
  | 0x20F => some .tblld
  | 0x210 => some .tblswp
  | 0x211 => some .cbld
  | 0x260 => some .bara
  | 0x261 => some .barw
  | 0x262 => some .bars
  | 0x263 => some .barx
  | 0x280 => some .cpyr
  | 0x281 => some .cpym
  | 0x282 => some .redr
  | 0x2A0 => some .notify
  | 0x2A1 => some .kickcfgOpen
  | 0x2A2 => some .migrate
  | 0x2A3 => some .waita
  | 0x2A4 => some .wakea
  | 0x2A5 => some .ptadv
  | 0x2C0 => some .spawn
  | 0x2C1 => some .join
  | 0x2C2 => some .svc
  | 0x2C3 => some .uisend
  | 0x2C4 => some .uiwait
  | 0x2C5 => some .uiack
  | 0x2C6 => some .uihdlVi
  | 0x2C7 => some .mcst
  | 0x2C8 => some .mred
  | 0x2E0 => some .pcpy
  | 0x2E1 => some .pnotify
  | 0x2E2 => some .patom
  | 0x3F0 => some .csrr
  | 0x3F1 => some .csrw
  | 0x3F2 => some .ctxsv
  | 0x3F3 => some .ctxrs
  | 0x3F4 => some .recall
  | 0x3F5 => some .halt
  | _ => none

/-- Classes of R54. -/
inductive Cls where
  | l | w | u | s
deriving DecidableEq, Repr

/-- The class of a form (R55). -/
def Op.cls (o : Op) : Cls :=
  match o with
  | .fence => .u
  | .bra | .brx | .call | .callx | .ret | .exit | .rje | .rjw | .rjx | .rsr | .wsr => .l
  | .vote | .matchW | .elect | .shfl | .redw | .scanw | .vtou => .w
  | .gath | .scat | .mma | .mmas | .accscl | .svc => .w
  | .redr | .patom => .l
  | _ => if o.code.toNat < 0x140 then .l else if o.code.toNat < 0x3F0 then .u else .s

/-- What a field accepts (R48): register kinds, an immediate within bounds, subkinds of special operands (R47),
whether NEG and ABS may stand (R85), and whether an all-zero field may stand for no operand. -/
structure Fld where
  v : Bool := false
  u : Bool := false
  imm : Bool := false
  lo : Nat := 0
  hi : Nat := 65535
  neg : Bool := false
  sp : List Nat := []
  spNeg : Bool := false
  opt : Bool := false
deriving DecidableEq, Repr

/-- No operand: the field must be zero (R48). -/
def Fld.no : Fld := { opt := true }
/-- A vector register (R84). -/
def Fld.vd : Fld := { v := true }
/-- A vector register with NEG and ABS. -/
def Fld.vn : Fld := { v := true, neg := true }
/-- A vector or uniform register without NEG and ABS. -/
def Fld.vu : Fld := { v := true, u := true }
/-- A vector or uniform register with NEG and ABS. -/
def Fld.vun : Fld := { v := true, u := true, neg := true }
/-- A register or an immediate without NEG and ABS. -/
def Fld.vui : Fld := { v := true, u := true, imm := true }
/-- A register or an immediate with NEG and ABS. -/
def Fld.vuin : Fld := { v := true, u := true, imm := true, neg := true }
/-- A uniform register. -/
def Fld.ur : Fld := { u := true }
/-- A uniform register with NEG and ABS. -/
def Fld.urn : Fld := { u := true, neg := true }
/-- A uniform register or an immediate. -/
def Fld.ui : Fld := { u := true, imm := true }
/-- A uniform register with NEG and ABS, or an immediate. -/
def Fld.uin : Fld := { u := true, imm := true, neg := true }
/-- An immediate between bounds. -/
def Fld.im (lo hi : Nat) : Fld := { imm := true, lo := lo, hi := hi }
/-- A special operand of one subkind. -/
def Fld.s (k : Nat) : Fld := { sp := [k] }

/-- The subkind of a special operand (R47). -/
def Special.sub (k : Special) : Nat :=
  match k with
  | .pred .. => 0 | .upred .. => 1 | .ctr _ => 2 | .mask _ => 3 | .bar _ => 4 | .atab _ => 5
  | .cbook _ => 6 | .sreg _ => 7 | .accb _ => 8 | .vec _ => 9

/-- The negate bit of a predicate operand. -/
def Special.neg (k : Special) : Bool :=
  match k with
  | .pred _ n => n
  | .upred _ n => n
  | _ => false

/-- The special-register numbers of R198. -/
def sregListed (n : Nat) : Bool :=
  n ≤ 0x006 || (0x008 ≤ n && n ≤ 0x013) || (0x018 ≤ n && n ≤ 0x01B) || (0x020 ≤ n && n ≤ 0x022) ||
    (0x028 ≤ n && n ≤ 0x02C) || (0x030 ≤ n && n ≤ 0x037)

/-- The special registers that are 64 bits wide (R198). -/
def sregWide (n : Nat) : Bool :=
  n = 0x018 || n = 0x019 || n = 0x01A || n = 0x01B || n = 0x028 || n = 0x02A || n = 0x02C || (0x030 ≤ n && n ≤ 0x033)

/-- Does the field accept this operand? (R46 to R48) -/
def Fld.ok (fl : Fld) (o : Operand) : Bool :=
  match o with
  | .none => fl.opt
  | .v _ _ neg abs => fl.v && (fl.neg || (!neg && !abs))
  | .u _ _ neg abs => fl.u && (fl.neg || (!neg && !abs))
  | .imm x => fl.imm && decide (fl.lo ≤ x.toNat) && decide (x.toNat ≤ fl.hi)
  | .sp k => fl.sp.contains k.sub && (fl.spNeg || !k.neg) &&
      (match k with
       | .sreg n => sregListed n.toNat
       | _ => true)

/-- The destination field of a form. -/
def Op.fd (o : Op) : Fld :=
  match o with
  | .icmpp | .psetp | .fsetp | .psetp2 | .dsetp => Fld.s 0
  | .vtop => Fld.no
  | .pref | .fence => Fld.no
  | .bra | .brx | .ret | .exit => Fld.no
  | .rje | .rjw | .rjx => Fld.s 3
  | .rjrd => Fld.ur
  | .vote => { v := true, u := true, sp := [0, 1] }
  | .elect => Fld.s 0
  | .redw => Fld.vu
  | .vtou => Fld.ur
  | .fibsw | .fbara | .fbarw | .setx | .addx | .trap | .tret | .bpt | .nop | .yield => Fld.no
  | .fibqState | .fibqRec => Fld.ur
  | .fresume => Fld.s 1
  | .wsr => Fld.s 7
  | .ractlOff | .ractlOn | .ractlThr | .npb | .npe => Fld.no
  | .uiadd | .uisub | .uimul | .ublut | .ushl | .ushr | .umov | .umovi | .ulea | .usel | .upopc => Fld.ur
  | .uicmpp => Fld.s 1
  | .cpy | .gath | .scat | .chain | .tblld | .cbld => Fld.s 2
  | .kwait | .kadj | .opf | .gang | .tblswp => Fld.no
  | .krd => Fld.ur
  | .mma | .mmas | .accz | .accld | .acccvt | .accscl => Fld.s 2
  | .acczSt => Fld.ur
  | .bara => Fld.ur
  | .barw | .bars | .barx => Fld.no
  | .cpyr | .cpym => Fld.s 2
  | .notify => Fld.s 2
  | .kickcfgOpen => Fld.ur
  | .kickcfgFree | .kickcfgClose => Fld.no
  | .migrate => Fld.s 1
  | .waita => Fld.ur
  | .wakea | .ptadv => Fld.no
  | .spawn | .join => Fld.s 1
  | .svc => Fld.s 2
  | .uisend => Fld.s 1
  | .uiwait | .uiack => Fld.ur
  | .uihdlVi | .uihdlBlk | .uihdlMask => Fld.no
  | .mcst | .mred | .pcpy => Fld.s 2
  | .pnotify => Fld.s 1
  | .csrr => Fld.ur
  | .csrw | .halt => Fld.no
  | .ctxsv | .ctxrs | .recall => Fld.s 2
  | _ => Fld.vd

/-- Field A of a form. -/
def Op.fa (o : Op) : Fld :=
  match o with
  | .and | .or | .xor | .andn | .orn | .not | .blut | .shl | .shr | .sar | .rol | .ror => Fld.vu
  | .fshl | .fshr | .bfi | .prmt | .brev | .popc | .clz | .ctz | .bmsk | .sel | .vtop | .idp4 | .idp2 => Fld.vu
  | .mov => Fld.vui
  | .movi | .ptov => Fld.no
  | .psetp => { sp := [0], spNeg := true }
  | .pack2 | .unpk2 | .pack4 | .unpk4 | .dqcb4 => Fld.vu
  | .ldg | .stg | .lds | .sts | .lda | .sta | .ldo | .sto | .atomg | .atoms | .redg | .reds | .casg | .cass
  | .pref => Fld.ur
  | .fence => Fld.no
  | .bra | .call | .exit | .rje | .rjw | .rjx => Fld.no
  | .brx | .callx | .ret => Fld.vu
  | .rjrd => Fld.s 3
  | .vote => { sp := [0], spNeg := true }
  | .matchW | .shfl | .vtou => Fld.vd
  | .redw | .scanw => Fld.vn
  | .elect => Fld.no
  | .fibsw | .setx | .addx | .trap | .tret | .bpt | .nop | .yield => Fld.no
  | .fbara | .fbarw => Fld.im 0 3
  | .fibqState | .fibqRec | .fresume => Fld.ui
  | .rsr => Fld.s 7
  | .wsr => Fld.vui
  | .ractlOff | .ractlOn | .ractlThr | .npb | .npe => Fld.no
  | .uiadd | .uisub | .uimul | .uicmpp | .ulea | .ushr => Fld.urn
  | .ublut | .ushl | .usel | .upopc => Fld.ur
  | .umov => Fld.ui
  | .umovi => Fld.no
  | .cpy | .gath | .scat | .chain | .tblld | .cbld => Fld.ur
  | .kwait | .kadj | .krd => Fld.s 2
  | .opf | .gang | .tblswp => Fld.no
  | .mma | .mmas | .accscl => Fld.vd
  | .accz | .accld | .acccvt => Fld.no
  | .acczSt => Fld.s 8
  | .bara | .barw | .bars | .barx => Fld.s 4
  | .cpyr | .cpym => Fld.ur
  | .redr => Fld.ur
  | .notify => Fld.ur
  | .kickcfgOpen => Fld.s 2
  | .kickcfgFree | .kickcfgClose => { u := true, imm := true, hi := 7 }
  | .migrate | .waita | .wakea => Fld.ur
  | .ptadv | .spawn => Fld.no
  | .join | .svc => Fld.ur
  | .uisend | .uiack | .pnotify => { u := true, sp := [9] }
  | .uiwait | .uihdlVi | .uihdlBlk | .uihdlMask => Fld.no
  | .mcst | .mred | .pcpy | .patom => Fld.ur
  | .csrr | .csrw => Fld.ur
  | .ctxsv | .ctxrs | .halt => Fld.no
  | .recall => Fld.ur
  | _ => Fld.vun

/-- Field B of a form. -/
def Op.fb (o : Op) : Fld :=
  match o with
  | .iabs | .ineg | .not | .brev | .popc | .clz | .ctz | .mov | .ptov => Fld.no
  | .movi => Fld.im 0 65535
  | .and | .or | .xor | .andn | .orn | .blut | .shl | .shr | .sar | .rol | .ror => Fld.vui
  | .fshl | .fshr | .bfi | .prmt | .bmsk | .sel | .vtop | .idp4 | .idp2 => Fld.vui
  | .psetp => { sp := [0], spNeg := true }
  | .fclass | .frnd | .fgetexp | .fgetman | .cvt | .unpk2 | .pack4 | .unpk4 => Fld.no
  | .pack2 | .cvtsr => Fld.vui
  | .qcb4 | .dqcb4 => Fld.s 6
  | .frcp | .frsq | .fsqrt | .fex2 | .flg2 | .fsin | .fcos | .fsinr | .fcosr | .ftanh | .fsigm => Fld.no
  | .tblev => Fld.s 5
  | .ldg | .stg | .lds | .sts | .lda | .sta | .ldo | .sto | .atomg | .atoms | .redg | .reds | .casg | .cass
  | .pref | .redr | .patom => { v := true, imm := true }
  | .fence => Fld.no
  | .bra | .call => Fld.im 0 65535
  | .brx | .callx | .ret | .exit | .rje | .rjw | .rjx | .rjrd | .vote | .matchW | .elect | .redw | .scanw => Fld.no
  | .shfl => Fld.vui
  | .vtou => { u := true, imm := true, opt := true }
  | .fibsw | .fbarw | .fibqState | .fibqRec | .rsr | .wsr => Fld.no
  | .fbara => Fld.ui
  | .fresume => { u := true, opt := true }
  | .setx | .addx => Fld.ui
  | .trap => Fld.im 0 65535
  | .tret | .bpt | .nop => Fld.no
  | .yield => Fld.im 0 1023
  | .ractlOff | .ractlOn | .npb | .npe => Fld.no
  | .ractlThr => Fld.ui
  | .uiadd | .uisub | .uimul | .uicmpp | .ulea => Fld.uin
  | .ublut | .ushl | .ushr | .usel => Fld.ui
  | .umov | .upopc => Fld.no
  | .umovi => Fld.im 0 65535
  | .cpy | .chain => Fld.ui
  | .gath | .scat => Fld.vd
  | .kwait | .kadj => Fld.ui
  | .krd | .opf => Fld.no
  | .gang => Fld.ui
  | .tblld | .tblswp => Fld.s 5
  | .cbld => Fld.s 6
  | .mma | .mmas | .accz | .accld | .acccvt | .accscl => Fld.ur
  | .acczSt => Fld.no
  | .bara | .bars => { u := true, imm := true, hi := 1023 }
  | .barw => Fld.ur
  | .barx => Fld.no
  | .cpyr | .cpym => Fld.ui
  | .notify | .kickcfgOpen => Fld.ur
  | .kickcfgFree => { u := true, imm := true, lo := 1, hi := 64 }
  | .kickcfgClose | .migrate => Fld.no
  | .waita => Fld.ui
  | .wakea => Fld.no
  | .ptadv => Fld.ui
  | .spawn => Fld.ur
  | .join => Fld.ui
  | .svc => Fld.vd
  | .uisend | .pnotify => Fld.ur
  | .uiwait | .uiack => Fld.no
  | .uihdlVi | .uihdlBlk => Fld.ui
  | .uihdlMask => Fld.ur
  | .mcst => Fld.ui
  | .mred => Fld.ur
  | .pcpy | .csrr | .halt => Fld.no
  | .csrw => Fld.ur
  | .ctxsv | .ctxrs => Fld.ui
  | .recall => Fld.ur
  | _ => Fld.vuin

/-- The layouts of X (R48, R88, R105, R131, R179, R285, R373, R426, R443). -/
inductive Layout where
  | zero | modw | opC | opC0 | immHi | carry | lut | icmp | iset | select | lea | plog | fcmp | fset | conv
  | mem | shfl | red | mma | svc | mred | recall
deriving DecidableEq, Repr

/-- The layout a form gives X. -/
def Op.layout (o : Op) : Layout :=
  match o with
  | .iaddc | .isubb => .carry
  | .imad | .imadw | .iclamp | .isad | .idp4 | .idp2 | .fshl | .fshr | .bfi | .prmt | .ffma | .pfma2 | .dfma => .opC
  | .blut | .ublut => .lut
  | .icmpp | .uicmpp => .icmp
  | .iset => .iset
  | .sel | .usel => .select
  | .movi | .umovi | .bra | .call => .immHi
  | .lea | .ulea => .lea
  | .psetp => .plog
  | .fsetp | .psetp2 | .dsetp => .fcmp
  | .fset => .fset
  | .cvt | .cvtsr => .conv
  | .ldg | .stg | .lds | .sts | .lda | .sta | .ldo | .sto | .atomg | .atoms | .redg | .reds | .casg | .cass
  | .pref | .redr | .patom => .mem
  | .shfl => .shfl
  | .redw | .scanw => .red
  | .cpy | .chain | .cpyr => .opC0
  | .cpym => .opC
  | .mma | .mmas => .mma
  | .svc => .svc
  | .mred => .mred
  | .recall => .recall
  | .iadd | .isub | .imul | .imulh | .imin | .imax | .iabs | .ineg | .and | .or | .xor | .andn | .orn | .not
  | .shl | .shr | .sar | .rol | .ror | .bfe | .brev | .popc | .clz | .ctz | .bmsk | .mov => .modw
  | .fadd | .fsub | .fmul | .fmin | .fmax | .fclass | .frnd | .fscale | .fgetexp | .fgetman | .padd2 | .pmul2
  | .pmin2 | .pmax2 | .dadd | .dmul | .dmin | .dmax | .pack2 | .unpk2 | .pack4 | .unpk4 | .qcb4 | .dqcb4
  | .frcp | .frsq | .fsqrt | .fex2 | .flg2 | .fsin | .fcos | .fsinr | .fcosr | .ftanh | .fsigm | .tblev
  | .fdivf => .modw
  | .fence | .rjrd | .vote | .matchW | .vtou | .fibqState | .fibqRec | .fresume | .ractlOff | .ractlOn | .ractlThr => .modw
  | .uiadd | .uisub | .uimul | .ushl | .ushr | .umov | .upopc => .modw
  | .tblld | .cbld | .accz | .acczSt | .accld | .acccvt => .modw
  | .bara | .barw | .bars | .barx | .kickcfgOpen | .kickcfgFree | .kickcfgClose | .waita | .wakea => .modw
  | .uihdlVi | .uihdlBlk | .uihdlMask | .ctxsv => .modw
  | _ => .zero

/-- The integer types of R21. -/
def Ty.isInt (t : Ty) : Bool :=
  match t with
  | .i8 | .i16 | .i32 | .i64 | .n8 | .n16 | .n32 | .n64 => true
  | _ => false
/-- The signed integer types. -/
def Ty.signed (t : Ty) : Bool :=
  match t with
  | .i8 | .i16 | .i32 | .i64 => true
  | _ => false
/-- The floating-point formats of R23. -/
def Ty.isFloat (t : Ty) : Bool :=
  match t with
  | .f64 | .f32 | .f16 | .bf16 | .e4m3 | .e5m2 => true
  | _ => false
/-- The width of a type in bits (R21, R23, R28). -/
def Ty.bits (t : Ty) : Nat :=
  match t with
  | .none => 0
  | .b8 | .i8 | .n8 | .e4m3 | .e5m2 => 8
  | .b16 | .i16 | .n16 | .f16 | .bf16 => 16
  | .b32 | .i32 | .n32 | .f32 => 32
  | .b64 | .i64 | .n64 | .f64 => 64
  | .b128 => 128
  | .cb4 => 4
/-- The width of a type in bytes. -/
def Ty.bytes (t : Ty) : Nat := t.bits / 8
/-- The registers an operand of the type takes (R17). -/
def Ty.words (t : Ty) : Nat := (t.bits + 31) / 32

/-- The types 32 and 64 bits wide that integer arithmetic takes (R87). -/
def tyI4 : List Ty := [.i32, .n32, .i64, .n64]
/-- The bit types of logic forms (R87). -/
def tyB2 : List Ty := [.b32, .b64]
/-- The load types of R132. -/
def tyLoad : List Ty := [.b8, .b16, .b32, .b64, .b128, .i8, .i16, .n8, .n16]
/-- The store types of R132. -/
def tyStore : List Ty := [.b8, .b16, .b32, .b64, .b128]
/-- Every rounding mode. -/
def rnd5 : List Rnd := [.rne, .rz, .ru, .rd, .sr]
/-- Every rounding mode but the stochastic one. -/
def rnd4 : List Rnd := [.rne, .rz, .ru, .rd]

/-- The types an AOP code admits (R136). -/
def aopTypes (aop : Nat) : List Ty :=
  if aop ≤ 2 then [.i32, .n32, .i64, .n64, .f32]
  else if aop ≤ 6 then [.b32, .b64]
  else if aop ≤ 8 then [.n32]
  else []

/-- What a modifier word may hold (R49): FN codes, scopes, orders, SAT, roundings and types. -/
def modIs (x : Ext) (fns : List Nat) (scopes : List Scope) (orders : List Order) (sat : Bool) (rnds : List Rnd)
    (tys : List Ty) : Bool :=
  match x with
  | .mod fn sc ord s r t => fns.contains fn.toNat && scopes.contains sc && orders.contains ord && (sat || !s) &&
      rnds.contains r && tys.contains t
  | _ => false

/-- A modifier word that uses TYPE alone, or TYPE and SAT. -/
def modT (x : Ext) (tys : List Ty) (sat : Bool) : Bool := modIs x [0] [.none] [.none] sat [.rne] tys
/-- A modifier word that uses RND and TYPE alone. -/
def modR (x : Ext) (rnds : List Rnd) (tys : List Ty) : Bool := modIs x [0] [.none] [.none] false rnds tys
/-- A modifier word that uses FN and TYPE alone. -/
def modF (x : Ext) (fns : List Nat) (tys : List Ty) : Bool := modIs x fns [.none] [.none] false [.rne] tys

/-- What the memory layout may hold (R131, R132). `disp` says whether displacement bits may stand. -/
def memIs (f : Ins) (tys : List Ty) (orders : List Order) (scopes : List Scope) (disp : Bool) : Bool :=
  match f.x with
  | .mem dh sc ord dl t => tys.contains t &&
      (if ord = .none then orders.contains .none && sc == .none else orders.contains ord && scopes.contains sc) &&
      (if disp then (match f.b with
        | .imm _ => dh == 0 && dl == 0
        | _ => true) else dh == 0)
  | _ => false

/-- AOP and type of an atomic form (R136). -/
def aopIs (f : Ins) (exch : Bool) : Bool :=
  match f.x with
  | .mem _ _ _ dl t => (aopTypes dl.toNat).contains t && (exch || dl != 6)
  | _ => false

/-- The destinations of a dual-predicate form differ unless one is 15 (R89). -/
def dualOk (d : Operand) (pe : BitVec 4) : Bool :=
  match d with
  | .sp (.pred n _) => n == 15 || n != pe
  | .sp (.upred n _) => n == 15 || n != pe
  | _ => false

/-- An operand C (R48): NEG and ABS only where the form admits them. -/
def cIs (c : Operand) (uOnly neg : Bool) : Bool :=
  match c with
  | .v _ _ n a => !uOnly && (neg || (!n && !a))
  | .u _ _ n a => neg || (!n && !a)
  | _ => false

/-- The common scopes of R242, from warp to system. -/
def scopesAll : List Scope := [.w, .b, .c, .d, .s]

/-- Does X hold something the form accepts, alone and together with the other fields? (R48, R63) -/
def Op.xOk (o : Op) (f : Ins) : Bool :=
  match o with
  | .iadd | .isub | .imul => modT f.x tyI4 true
  | .imulh | .imin | .imax | .bfe => modT f.x tyI4 false
  | .iabs | .ineg => modT f.x [.i32, .i64] true
  | .iaddc | .isubb => (match f.x with | .carry _ _ _ t => [Ty.n32, .n64].contains t | _ => false)
  | .imad | .imadw | .isad => (match f.x with | .opC c m => cIs c false true && m.toNat % 8 ≤ 1 | _ => false)
  | .iclamp => (match f.x with | .opC c m => cIs c false true && m.toNat ≤ 1 | _ => false)
  | .idp4 | .idp2 => (match f.x with | .opC c m => cIs c false true && m.toNat % 8 ≤ 3 | _ => false)
  | .fshl | .fshr => (match f.x with | .opC c m => cIs c false false && m.toNat ≤ 1 | _ => false)
  | .bfi | .prmt => (match f.x with | .opC c m => cIs c false false && m == 0 | _ => false)
  | .and | .or | .xor | .andn | .orn | .not | .shl | .shr | .sar | .rol | .ror | .brev | .popc | .clz | .ctz
  | .bmsk => modT f.x tyB2 false
  | .blut | .ublut => (match f.x with | .lut _ t => tyB2.contains t | _ => false)
  | .icmpp | .uicmpp => (match f.x with
      | .icmp c _ pe _ _ t => c != .num && c != .nan && tyI4.contains t && dualOk f.d pe
      | _ => false)
  | .iset => (match f.x with | .iset c _ t => c != .num && c != .nan && tyI4.contains t | _ => false)
  | .sel | .usel => (match f.x with | .select _ _ t => tyB2.contains t | _ => false)
  | .mov => modT f.x (match f.a with | .imm _ => tyB2 | _ => [.b32, .b64, .b128]) false
  | .movi | .umovi | .bra | .call => (match f.x with | .immHi _ => true | _ => false)
  | .lea | .ulea => (match f.x with | .lea _ t => [Ty.n32, .i64, .n64].contains t | _ => false)
  | .psetp => (match f.x with | .plog _ _ pe _ _ => dualOk f.d pe | _ => false)
  | .fadd | .fsub | .fmul | .fscale | .dadd | .dmul => modR f.x rnd5 [.none]
  | .ffma | .dfma => (match f.x with | .opC c m => cIs c false true && m.toNat ≤ 4 | _ => false)
  | .fmin | .fmax | .fgetexp | .fgetman | .dmin | .dmax | .pack2 | .pack4 | .frcp | .frsq | .fex2 | .flg2 | .fsin
  | .fcos | .fsinr | .fcosr | .ftanh | .fsigm | .tblev | .fdivf => modR f.x [.rne] [.none]
  | .fsetp | .dsetp => (match f.x with
      | .fcmp c _ pe _ _ u bf => dualOk f.d pe && !bf && !(u && (c == .num || c == .nan))
      | _ => false)
  | .psetp2 => (match f.x with
      | .fcmp c _ pe _ _ u _ => dualOk f.d pe && !(u && (c == .num || c == .nan))
      | _ => false)
  | .fset => (match f.x with | .fset c _ u => !(u && (c == .num || c == .nan)) | _ => false)
  | .fclass => modT f.x [.f64, .f32, .f16, .bf16, .e4m3, .e5m2] false
  | .frnd | .fsqrt => modR f.x rnd4 [.none]
  | .padd2 | .pmul2 => modR f.x rnd5 [.f16, .bf16]
  | .pfma2 => (match f.x with | .opC c m => cIs c false true && m.toNat / 2 ≤ 4 | _ => false)
  | .pmin2 | .pmax2 => modT f.x [.f16, .bf16] false
  | .cvt => (match f.x with
      | .conv dt sat r st => dt != st && (dt.isInt || dt.isFloat) && (st.isInt || st.isFloat) &&
          (if dt.isInt then (if st.isInt then r == .rne else r != .sr && !sat) else true)
      | _ => false)
  | .cvtsr => (match f.x with
      | .conv dt _ r st => r == .rne && (st == .f64 || st == .f32) && dt.isFloat && decide (dt.bits < st.bits)
      | _ => false)
  | .unpk2 | .unpk4 | .qcb4 | .dqcb4 => modF f.x [0, 1] [.none]
  | .ldg => memIs f tyLoad [.none, .rlx, .acq, .sc] scopesAll true
  | .stg => memIs f tyStore [.none, .rlx, .rel, .sc] scopesAll true
  | .lds => memIs f tyLoad [.none, .rlx, .acq] [.w, .b, .c] true
  | .sts => memIs f tyStore [.none, .rlx, .rel] [.w, .b, .c] true
  | .lda | .sta => memIs f [.b32, .b64, .b128] [.none] [] true
  | .ldo => memIs f tyLoad [.none, .rlx, .acq] [.w, .b, .c, .d] true
  | .sto => memIs f tyStore [.none, .rlx, .rel] [.w, .b, .c, .d] true
  | .atomg => memIs f [.i32, .n32, .i64, .n64, .f32, .b32, .b64] [.rlx, .acq, .rel, .ar, .sc] [.b, .c, .d, .s] false && aopIs f true
  | .redg => memIs f [.i32, .n32, .i64, .n64, .f32, .b32, .b64] [.rlx, .rel] [.b, .c, .d, .s] false && aopIs f false
  | .atoms => memIs f [.i32, .n32, .i64, .n64, .f32, .b32, .b64] [.rlx, .acq, .rel, .ar] [.w, .b, .c] false && aopIs f true
  | .reds => memIs f [.i32, .n32, .i64, .n64, .f32, .b32, .b64] [.rlx, .rel] [.w, .b, .c] false && aopIs f false
  | .redr => memIs f [.i32, .n32, .i64, .n64, .f32, .b32, .b64] [.rlx, .rel] [.c] false && aopIs f false
  | .casg => memIs f tyB2 [.rlx, .acq, .rel, .ar, .sc] [.b, .c, .d, .s] false &&
      (match f.x with | .mem _ _ _ dl _ => dl == 0 | _ => false)
  | .cass => memIs f tyB2 [.rlx, .acq, .rel, .ar] [.w, .b, .c] false &&
      (match f.x with | .mem _ _ _ dl _ => dl == 0 | _ => false)
  | .patom => memIs f [.i32, .n32, .i64, .n64, .f32, .b32, .b64] [.rlx, .acq, .rel, .ar] [.s] false &&
      (match f.x with
       | .mem _ _ _ dl t => if dl == 9 then tyB2.contains t else (aopTypes dl.toNat).contains t
       | _ => false)
  | .pref => memIs f [.none] [.none] [] true
  | .fence => modIs f.x [0] scopesAll [.acq, .rel, .ar, .sc] false [.rne] [.none]
  | .rjrd => modF f.x [0, 1] [.none]
  | .vote => (match f.x, f.d with
      | .mod fn .none .none false .rne .none, .sp _ => decide (fn.toNat ≤ 2)
      | .mod fn .none .none false .rne .none, _ => fn == 3
      | _, _ => false)
  | .matchW => modF f.x [0, 1] tyB2
  | .shfl => (match f.x with | .shfl _ seg t => seg != 7 && tyB2.contains t | _ => false)
  | .redw | .scanw => (match f.x with
      | .red op excl t => (o == .scanw || !excl) &&
          (if op.toNat ≤ 2 then [Ty.i32, .n32, .i64, .n64, .f32].contains t
           else op.toNat ≤ 5 && tyB2.contains t &&
             (match f.a with | .v _ _ n a => !n && !a | _ => true))
      | _ => false)
  | .vtou => (match f.x, f.b with
      | .mod fn .none .none false .rne t, .none => fn == 0 && tyB2.contains t
      | .mod fn .none .none false .rne t, _ => fn == 1 && tyB2.contains t
      | _, _ => false)
  | .fibqState => modF f.x [0] [.none]
  | .fibqRec => modF f.x [1] [.none]
  | .fresume => (match f.x, f.b with
      | .mod fn .none .none false .rne .none, .none => fn == 0
      | .mod fn .none .none false .rne .none, _ => fn == 1
      | _, _ => false)
  | .ractlOff => modF f.x [0] [.none]
  | .ractlOn => modF f.x [1] [.none]
  | .ractlThr => modF f.x [2] [.none]
  | .uiadd | .uisub | .uimul => modT f.x tyI4 true
  | .ushl | .umov | .upopc => modT f.x tyB2 false
  | .ushr => modT f.x tyI4 false
  | .cpy | .chain | .cpyr => (match f.x with
      | .none => true
      | .opC c m => cIs c true false && m == 1
      | _ => false)
  | .cpym => (match f.x with | .opC c m => cIs c true false && m == 1 | _ => false)
  | .tblld | .cbld => modF f.x [0, 1] [.none]
  | .mma => (match f.x with | .mma _ sl => sl == 0 | _ => false)
  | .mmas => (match f.x with | .mma _ _ => true | _ => false)
  | .accz => modF f.x [0] [.none]
  | .acczSt => modF f.x [1] [.none]
  | .accld => modT f.x [.f32, .i32] false
  | .acccvt => modIs f.x [0] [.none] [.none] true rnd4 [.f32, .i32]
  | .bara | .barw | .bars | .barx => modIs f.x [0] [.b, .c, .d] [.none] false [.rne] [.none]
  | .kickcfgOpen => modF f.x [0] [.none]
  | .kickcfgFree => modF f.x [1] [.none]
  | .kickcfgClose => modF f.x [2] [.none]
  | .waita => modIs f.x [0] [.d, .s] [.none] false [.rne] tyB2
  | .wakea => modIs f.x [0] [.d, .s] [.none] false [.rne] [.none]
  | .svc => (match f.x with | .svc _ => true | _ => false)
  | .uihdlVi => modF f.x [0] [.none]
  | .uihdlBlk => modF f.x [1] [.none]
  | .uihdlMask => modF f.x [2] [.none]
  | .mred => (match f.x with | .mred aop t => (aopTypes aop.toNat).contains t && aop != 6 | _ => false)
  | .recall => (match f.x with | .recall _ _ => true | _ => false)
  | .ctxsv => modF f.x [0, 1] [.none]
  | _ => (match f.x with | .none => true | _ => false)

/-- Is the destination register of the form also read? (R92, R116, R130) -/
def Op.dSrc (o : Op) : Bool :=
  match o with
  | .blut | .ublut | .qcb4 | .stg | .sts | .sta | .sto | .atomg | .atoms | .redg | .reds | .casg | .cass | .redr
  | .patom => true
  | _ => false

/-- Is field D only a source? -/
def Op.dOnlySrc (o : Op) : Bool :=
  match o with
  | .stg | .sts | .sta | .sto | .redg | .reds | .redr => true
  | _ => false

/-- Does the form read a vector-register operand, so that it admits RU? (R52; read of the form, not of the word: DEDUCED, log 8) -/
def Op.readsV (o : Op) : Bool :=
  o.fa.v || o.fb.v || (o.dSrc && o.fd.v) || o.layout == .opC && o != .cpym

/-- The hints a form admits (R52). -/
def Op.hntOk (o : Op) (h : Hints) : Bool :=
  (!h.ru || o.readsV) &&
  (h.lease == .predicted ||
    (match o with | .ldg | .stg | .atomg | .redg | .casg | .pref => true | _ => false)) &&
  (h.br == .none || (match o with | .bra | .brx | .call | .callx | .ret => true | _ => false))

/-- A register named for a 64-bit special register that can be no pair: its number is odd and takes no index (R198; that only such a
number is seen at step 3 is DEDUCED, log 66). -/
def Operand.single (x : Operand) : Bool :=
  match x with
  | .v n ix _ _ => !ix && n.toNat % 2 = 1
  | .u n ix _ _ => !ix && n.toNat % 2 = 1
  | _ => false

/-- An immediate or a single register is no value of a 64-bit special register, and is charged to field A (R63, R178, R198). -/
def Op.aOk (o : Op) (f : Ins) : Bool :=
  o.fa.ok f.a &&
  (match o, f.d, f.a with
   | .wsr, .sp (.sreg n), .imm _ => !sregWide n.toNat
   | .wsr, .sp (.sreg n), x => !(sregWide n.toNat && x.single)
   | .rsr, x, .sp (.sreg n) => !(sregWide n.toNat && x.single)
   | _, _, _ => true)

/-- The lowest bit of the first field that makes the word illegal, in the order of R63; none for a legal word. -/
def Op.illegal (o : Op) (f : Ins) : Option Nat :=
  if !o.hntOk f.hnt then some 15
  else if !o.fd.ok f.d then some 24
  else if !o.aOk f then some 42
  else if !o.fb.ok f.b then some 60
  else if !o.xOk f then some 78
  else none

/-- How a form uses an operand: the registers it takes, the format its bits are read in, and whether it packs two elements. -/
structure Role where
  w : Nat := 0
  fmt : Ty := .b32
  pk : Bool := false
deriving DecidableEq, Repr

/-- One 32-bit operand of untyped bits. -/
def Role.one : Role := { w := 1 }
/-- A role of one type: its width and its format. -/
def Role.of (t : Ty) : Role := { w := if t.words = 0 then 1 else t.words, fmt := t }
/-- Untyped bits of `n` registers. -/
def Role.bitsN (n : Nat) : Role := { w := n, fmt := if n = 1 then .b32 else if n = 2 then .b64 else .b128 }

/-- The type X names, where it names one. -/
def Ext.ty (x : Ext) : Ty :=
  match x with
  | .mod _ _ _ _ _ t => t
  | .carry _ _ _ t => t
  | .lut _ t => t
  | .icmp _ _ _ _ _ t => t
  | .iset _ _ t => t
  | .select _ _ t => t
  | .lea _ t => t
  | .conv _ _ _ st => st
  | .mem _ _ _ _ t => t
  | .shfl _ _ t => t
  | .red _ _ t => t
  | .mred _ t => t
  | _ => .none

/-- The modifier M of operand C, as a number. -/
def Ext.m (x : Ext) : Nat :=
  match x with
  | .opC _ m => m.toNat
  | _ => 0

/-- Operand C. -/
def Ext.c (x : Ext) : Operand :=
  match x with
  | .opC c _ => c
  | _ => .none

/-- Rounding, SAT, FN, scope and order of a modifier word or of the layouts that hold them. -/
def Ext.rnd (x : Ext) : Rnd :=
  match x with
  | .mod _ _ _ _ r _ => r
  | .conv _ _ r _ => r
  | _ => .rne
/-- SAT of X. -/
def Ext.sat (x : Ext) : Bool :=
  match x with
  | .mod _ _ _ s _ _ => s
  | .conv _ s _ _ => s
  | .opC _ m => m.getLsbD 3
  | _ => false
/-- FN of X. -/
def Ext.fn (x : Ext) : Nat :=
  match x with
  | .mod fn _ _ _ _ _ => fn.toNat
  | _ => 0
/-- SCOPE of X. -/
def Ext.scope (x : Ext) : Scope :=
  match x with
  | .mod _ s _ _ _ _ => s
  | .mem _ s _ _ _ => s
  | _ => .none
/-- ORDER of X. -/
def Ext.order (x : Ext) : Order :=
  match x with
  | .mod _ _ o _ _ _ => o
  | .mem _ _ o _ _ => o
  | _ => .none
/-- AOP of X. -/
def Ext.aop (x : Ext) : Nat :=
  match x with
  | .mem _ _ _ dl _ => dl.toNat
  | .mred a _ => a.toNat
  | _ => 0

/-- The 32-bit type M selects (R88). -/
def mTy (m : Nat) : Ty := if m % 8 = 1 then .n32 else .i32
/-- The 16-bit type PFMA2 and PSETP2 select (R105). -/
def pkTy (bf : Bool) : Ty := if bf then .bf16 else .f16

/-- The roles of D, A, B and C of a form (R17, R45, R85, R103, R130, R178, R209, R260, R284, R295, R310, R352, R397,
R426, R435, R458, R473). -/
def Op.roles (o : Op) (f : Ins) : Role × Role × Role × Role :=
  let t := f.x.ty
  match o with
  | .iadd | .isub | .imul | .imulh | .imin | .imax | .uiadd | .uisub | .uimul => (.of t, .of t, .of t, {})
  | .iaddc | .isubb => (.of t, .of t, .of t, {})
  | .imad | .iclamp | .isad => (.one, .of (mTy f.x.m), .of (mTy f.x.m), .of (mTy f.x.m))
  | .imadw => (.bitsN 2, .of (mTy f.x.m), .of (mTy f.x.m), .of (if f.x.m % 8 = 1 then .n64 else .i64))
  | .iabs | .ineg => (.of t, .of t, {}, {})
  | .idp4 | .idp2 => (.one, .one, .one, .of .i32)
  | .and | .or | .xor | .andn | .orn | .blut | .ublut => (.of t, .of t, .of t, {})
  | .not | .brev => (.of t, .of t, {}, {})
  | .shl | .shr | .sar | .rol | .ror | .ushl | .ushr => (.of t, .of t, .one, {})
  | .fshl | .fshr | .bfi | .prmt => (.one, .one, .one, .one)
  | .bfe => (.of t, .of t, .of .n32, {})
  | .popc | .clz | .ctz | .upopc => (.one, .of t, {}, {})
  | .bmsk => (.of t, .of .n32, .of .n32, {})
  | .icmpp | .uicmpp => ({}, .of t, .of t, {})
  | .iset => (.one, .of t, .of t, {})
  | .sel | .usel => (.of t, .of t, .of t, {})
  | .mov | .umov => (.of t, .of t, {}, {})
  | .movi | .umovi => (.one, {}, {}, {})
  | .lea | .ulea => (.of t, .of .n32, .of t, {})
  | .psetp => ({}, {}, {}, {})
  | .ptov => (.one, {}, {}, {})
  | .vtop => ({}, .one, .one, {})
  | .fadd | .fsub | .fmul | .fmin | .fmax | .fdivf => (.of .f32, .of .f32, .of .f32, {})
  | .ffma => (.of .f32, .of .f32, .of .f32, .of .f32)
  | .fsetp => ({}, .of .f32, .of .f32, {})
  | .fset => (.one, .of .f32, .of .f32, {})
  | .fclass => (.one, .of t, {}, {})
  | .frnd | .fgetexp | .fgetman | .frcp | .frsq | .fsqrt | .fex2 | .flg2 | .fsin | .fcos | .fsinr | .fcosr | .ftanh
  | .fsigm | .tblev => (.of .f32, .of .f32, {}, {})
  | .fscale => (.of .f32, .of .f32, .of .i32, {})
  | .padd2 | .pmul2 | .pmin2 | .pmax2 => ({ w := 1, fmt := t, pk := true }, { w := 1, fmt := t, pk := true }, { w := 1, fmt := t, pk := true }, {})
  | .pfma2 =>
    let r : Role := { w := 1, fmt := pkTy (f.x.m % 2 == 1), pk := true }
    (r, r, r, r)
  | .psetp2 =>
    let r : Role := { w := 1, fmt := pkTy (match f.x with | .fcmp _ _ _ _ _ _ bf => bf | _ => false), pk := true }
    ({}, r, r, {})
  | .dadd | .dmul | .dmin | .dmax => (.of .f64, .of .f64, .of .f64, {})
  | .dfma => (.of .f64, .of .f64, .of .f64, .of .f64)
  | .dsetp => ({}, .of .f64, .of .f64, {})
  | .cvt => (match f.x with | .conv dt _ _ st => (.of dt, .of st, {}, {}) | _ => (.one, .one, {}, {}))
  | .cvtsr => (match f.x with | .conv dt _ _ st => (.of dt, .of st, .one, {}) | _ => (.one, .one, .one, {}))
  | .pack2 => (.one, .one, .one, {})
  | .unpk2 => (.bitsN 2, .one, {}, {})
  | .pack4 => (.one, .bitsN 4, {}, {})
  | .unpk4 => (.bitsN 4, .one, {}, {})
  | .qcb4 => (.one, { w := 2, fmt := .bf16, pk := true }, {}, {})
  | .dqcb4 => (.bitsN 2, .one, {}, {})
  | .ldg | .stg | .atomg | .redg => (.bitsN t.words, .bitsN 2, .of .n32, {})
  | .ldo | .sto => (.bitsN t.words, .bitsN 2, .of .n32, {})
  | .lds | .sts | .lda | .sta | .atoms | .reds | .redr => (.bitsN t.words, .one, .of .n32, {})
  | .casg => (.bitsN (2 * t.words), .bitsN 2, .of .n32, {})
  | .cass => (.bitsN (2 * t.words), .one, .of .n32, {})
  | .patom => (.bitsN (if f.x.aop = 9 then 2 * t.words else t.words), .bitsN 2, .of .n32, {})
  | .pref => ({}, .bitsN 2, .of .n32, {})
  | .brx | .ret => ({}, .bitsN 2, {}, {})
  | .call => (.bitsN 2, {}, {}, {})
  | .callx => (.bitsN 2, .bitsN 2, {}, {})
  | .rjrd => (.bitsN 2, {}, {}, {})
  | .vote => (match f.d with | .sp _ => ({}, {}, {}, {}) | _ => (.bitsN 2, {}, {}, {}))
  | .matchW => (.bitsN 2, .of t, {}, {})
  | .shfl => (.of t, .of t, .one, {})
  | .redw | .scanw => (.of t, .of t, {}, {})
  | .vtou => (.of t, .of t, .one, {})
  | .fbara => ({}, {}, .one, {})
  | .fibqState => (.one, .one, {}, {})
  | .fibqRec => ({ w := 8 }, .one, {}, {})
  | .fresume => ({}, .one, .bitsN 2, {})
  | .rsr => (match f.a with | .sp (.sreg n) => (.bitsN (if sregWide n.toNat then 2 else 1), {}, {}, {}) | _ => (.one, {}, {}, {}))
  | .wsr => (match f.d with | .sp (.sreg n) => ({}, .bitsN (if sregWide n.toNat then 2 else 1), {}, {}) | _ => ({}, .one, {}, {}))
  | .setx | .addx | .ractlThr => ({}, {}, .one, {})
  | .cpy | .chain | .cpyr => ({}, .bitsN 2, .bitsN 2, .bitsN 2)
  | .cpym => ({}, .bitsN 2, .bitsN 2, .bitsN 2)
  | .gath | .scat => ({}, .bitsN 2, .of .n32, {})
  | .kwait | .kadj | .gang | .ptadv => ({}, {}, .one, {})
  | .krd => (.one, {}, {}, {})
  | .tblld | .cbld => ({}, if f.x.fn = 1 then .one else .bitsN 2, {}, {})
  | .mma => ({}, .of .n32, { w := 8 }, {})
  | .mmas => ({}, .bitsN 2, { w := 8 }, {})
  | .accz => ({}, {}, .bitsN 4, {})
  | .acczSt => (.one, {}, {}, {})
  | .accld | .acccvt => ({}, {}, { w := 8 }, {})
  | .accscl => ({}, .of .b32, .bitsN 4, {})
  | .bara => (.one, {}, .one, {})
  | .barw | .bars => ({}, {}, .one, {})
  | .notify => ({}, .bitsN 2, .bitsN 4, {})
  | .kickcfgOpen => (.bitsN 2, {}, .bitsN 4, {})
  | .kickcfgFree => ({}, .one, .one, {})
  | .kickcfgClose => ({}, .one, {}, {})
  | .migrate => ({}, .bitsN 2, {}, {})
  | .waita => (.of t, .bitsN 2, .of t, {})
  | .wakea => ({}, .bitsN 2, {}, {})
  | .spawn => ({}, {}, { w := 16 }, {})
  | .join => ({}, .bitsN 2, .one, {})
  | .svc => ({}, .bitsN 2, .bitsN 4, {})
  | .uisend | .pnotify => ({}, .one, .bitsN 2, {})
  | .uiwait => (.bitsN 2, {}, {}, {})
  | .uiack => (.bitsN 2, .one, {}, {})
  | .uihdlVi | .uihdlBlk => ({}, {}, .one, {})
  | .uihdlMask => ({}, {}, .bitsN 2, {})
  | .mcst => ({}, .bitsN 2, .one, {})
  | .mred => ({}, .bitsN 2, .bitsN t.words, {})
  | .pcpy => ({}, .bitsN 2, {}, {})
  | .csrr => (.bitsN 2, .bitsN 2, {}, {})
  | .csrw => ({}, .bitsN 2, .bitsN 2, {})
  | .ctxsv | .ctxrs => ({}, {}, .one, {})
  | .recall => ({}, .bitsN 2, .bitsN 2, {})
  | _ => ({}, {}, {}, {})

/-- Is the word legal for the form? (R48; the check of R61 step 3) -/
def Op.legal (o : Op) (f : Ins) : Bool := (o.illegal f).isNone

end Sys2Proof
end

