-- ==== Sys2Proof/Machine/Num.lean ====
section
/-!
DEFINITION. Floating-point values and the one rounding procedure (R23 to R34): values are exact, ± m × 2^e, and
every result is delivered by `roundTo`. Flags are the six bits of FPCS (R36, R37).
-/

namespace Sys2Proof.Machine

/-- An exact value: NaN (signalling or not), an infinity, or ± m × 2^e with the sign of a zero kept. -/
inductive Val where
  | nan (snan : Bool)
  | inf (neg : Bool)
  | fin (neg : Bool) (m : Nat) (e : Int)
deriving DecidableEq, Repr, Inhabited

/-- Flags at their FPCS positions (R36). -/
abbrev FFlags := BitVec 6
/-- Invalid operation. -/
def fIV : FFlags := 1
/-- Division by zero. -/
def fDZ : FFlags := 2
/-- Overflow. -/
def fOF : FFlags := 4
/-- Underflow. -/
def fUF : FFlags := 8
/-- Inexact. -/
def fNX : FFlags := 16
/-- Argument out of reduction range. -/
def fIR : FFlags := 32

/-- Fraction bits of a format (R23). -/
def fbits (t : Ty) : Nat :=
  match t with
  | .f64 => 52 | .f32 => 23 | .f16 => 10 | .bf16 => 7 | .e4m3 => 3 | .e5m2 => 2 | _ => 23
/-- The bias of a format (R23). -/
def fBias (t : Ty) : Nat :=
  match t with
  | .f64 => 1023 | .f32 => 127 | .f16 => 15 | .bf16 => 127 | .e4m3 => 7 | .e5m2 => 15 | _ => 127
/-- The exponent of the format's top binade (R23, R31). -/
def fEmax (t : Ty) : Nat := if t = .e4m3 then 8 else (fBias t)
/-- The exponent of the smallest normal. -/
def fEmin (t : Ty) : Int := 1 - ((fBias t) : Int)
/-- The all-ones exponent field. -/
def fEones (t : Ty) : Nat := 2 ^ (t.bits - 1 - (fbits t)) - 1
/-- The significand of the largest finite value, in units of the top binade's spacing. -/
def fMaxSig (t : Ty) : Nat := if t = .e4m3 then 14 else 2 ^ ((fbits t) + 1) - 1

/-- The canonical NaN of a format (R25). -/
def canonNaN (t : Ty) : Nat :=
  match t with
  | .f64 => 0x7FF8000000000000 | .f32 => 0x7FC00000 | .bf16 => 0x7FC0 | .f16 => 0x7E00 | .e5m2 => 0x7E
  | .e4m3 => 0x7F | _ => 0x7FC00000

/-- The sign bit of a pattern. -/
def signOf (t : Ty) (x : Nat) : Bool := x / 2 ^ (t.bits - 1) % 2 = 1

/-- The pattern of an infinity (for .e4m3, which has none, of the largest finite value). -/
def infPat (t : Ty) (neg : Bool) : Nat :=
  (if neg then 2 ^ (t.bits - 1) else 0) + (if t = .e4m3 then 0x7E else (fEones t) * 2 ^ (fbits t))

/-- The pattern of the largest finite value. -/
def maxPat (t : Ty) (neg : Bool) : Nat :=
  (if neg then 2 ^ (t.bits - 1) else 0) + (if t = .e4m3 then 0x7E else (fEones t) * 2 ^ (fbits t) - 1)

/-- The value of a pattern (R24). -/
def decodeF (t : Ty) (x : Nat) : Val :=
  let fb := (fbits t)
  let neg := signOf t x
  let e := x / 2 ^ fb % ((fEones t) + 1)
  let fr := x % 2 ^ fb
  if e = (fEones t) ∧ t ≠ .e4m3 then
    if fr = 0 then .inf neg else .nan (fr < 2 ^ (fb - 1))
  else if t = .e4m3 ∧ e = 15 ∧ fr = 7 then .nan false
  else if e = 0 then .fin neg fr ((fEmin t) - fb)
  else .fin neg (2 ^ fb + fr) ((e : Int) - (fBias t) - fb)

/-- Is the value a NaN? -/
def Val.isNaN (v : Val) : Bool :=
  match v with
  | .nan _ => true
  | _ => false
/-- Is it a signalling NaN? -/
def Val.isSNaN (v : Val) : Bool :=
  match v with
  | .nan b => b
  | _ => false
/-- Is it an infinity? -/
def Val.isInf (v : Val) : Bool :=
  match v with
  | .inf _ => true
  | _ => false
/-- Is it a zero? -/
def Val.isZero (v : Val) : Bool :=
  match v with
  | .fin _ m _ => m = 0
  | _ => false
/-- Is it finite? -/
def Val.isFin (v : Val) : Bool :=
  match v with
  | .fin .. => true
  | _ => false
/-- The sign; false for a NaN. -/
def Val.neg (v : Val) : Bool :=
  match v with
  | .nan _ => false
  | .inf n => n
  | .fin n _ _ => n
/-- The value with its sign changed. -/
def Val.negate (v : Val) : Val :=
  match v with
  | .nan b => .nan b
  | .inf n => .inf (!n)
  | .fin n m e => .fin (!n) m e
/-- The magnitude. -/
def Val.abs (v : Val) : Val :=
  match v with
  | .nan b => .nan b
  | .inf _ => .inf false
  | .fin _ m e => .fin false m e

/-- The number of bits of a significand. -/
def bitLen (m : Nat) : Nat := if m = 0 then 0 else Nat.log2 m + 1

/-- `m × 2^k` rounded down, with a flag for bits lost: `k` may be negative. -/
def shiftDown (m : Nat) (k : Int) : Nat × Bool :=
  if 0 ≤ k then (m * 2 ^ k.toNat, false)
  else (m / 2 ^ (-k).toNat, m % 2 ^ (-k).toNat ≠ 0)

/-- Compares `2 × (m × 2^k mod 1)` with 1: less, equal or greater. -/
def halfCmp (m : Nat) (k : Int) : Ordering :=
  if 0 ≤ k then .lt
  else compare (2 * (m % 2 ^ (-k).toNat)) (2 ^ (-k).toNat)

/-- The significand of `m × 2^e` in units of `2^u`, chosen by the mode among the neighbours (R31, R33). `r` are the
16 generator bits of a stochastic rounding. -/
def chooseSig (neg : Bool) (m : Nat) (e u : Int) (mode : Rnd) (r : Nat) : Nat :=
  let (q, lost) := shiftDown m (e - u)
  match mode with
  | .rne => (match halfCmp m (e - u) with
    | .lt => q
    | .gt => q + 1
    | .eq => if q % 2 = 1 then q + 1 else q)
  | .rz => q
  | .ru => if lost && !neg then q + 1 else q
  | .rd => if lost && neg then q + 1 else q
  | .sr => ((shiftDown m (e - u + 16)).1 + r) / 65536

/-- Compares `a × 2^i` with `b × 2^j`. -/
def cmpScaled (a : Nat) (i : Int) (b : Nat) (j : Int) : Ordering :=
  if i ≤ j then compare a (b * 2 ^ (j - i).toNat) else compare (a * 2 ^ (i - j).toNat) b

/-- The pattern of `± q × 2^u`, a value of the format. -/
def encodeFin (t : Ty) (neg : Bool) (q : Nat) (u : Int) : Nat :=
  let sgn := if neg then 2 ^ (t.bits - 1) else 0
  let fb := (fbits t)
  if q < 2 ^ fb then sgn + q
  else
    let d := bitLen q - (fb + 1)
    let q' := q / 2 ^ d
    sgn + ((u + d + fb + (fBias t)).toNat) * 2 ^ fb + (q' - 2 ^ fb)

/-- OverflowResult of R31. -/
def overflowPat (t : Ty) (neg : Bool) (mode : Rnd) : Nat :=
  match mode with
  | .rne => infPat t neg
  | .rz => maxPat t neg
  | .ru => if neg then maxPat t neg else infPat t neg
  | .rd => if neg then infPat t neg else maxPat t neg
  | .sr => infPat t neg

/-- The exponent of the leading bit of `m × 2^e`. -/
def leadExp (m : Nat) (e : Int) : Int := e + (bitLen m : Int) - 1

/-- Tiny of R32, for a finite nonzero value: rounded without a lower bound of the exponent, it lies below the
smallest normal. -/
def tiny (t : Ty) (neg : Bool) (m : Nat) (e : Int) (mode : Rnd) (r : Nat) : Bool :=
  let u := leadExp m e - (fbits t)
  let u := if mode = .sr then min u (((fEmax t) : Int) - (fbits t)) else u
  cmpScaled (chooseSig neg m e u mode r) u 1 (fEmin t) == .lt

/-- Round of R31, with the flags it sets: a pattern of the format. -/
def roundTo (t : Ty) (v : Val) (mode : Rnd) (r : Nat := 0) : Nat × FFlags :=
  match v with
  | .nan _ => (canonNaN t, 0)
  | .inf neg => if t = .e4m3 then (canonNaN t, fIV) else (infPat t neg, 0)
  | .fin neg m e =>
    if m = 0 then (if neg then 2 ^ (t.bits - 1) else 0, 0)
    else
      let u := max (leadExp m e) (fEmin t) - (fbits t)
      let u := if mode = .sr then min u (((fEmax t) : Int) - (fbits t)) else u
      let q := chooseSig neg m e u mode r
      let exact := cmpScaled q u m e == .eq
      let uf : FFlags := if !exact && tiny t neg m e mode r then fUF else 0
      if cmpScaled q u (fMaxSig t) (((fEmax t) : Int) - (fbits t)) == .gt then
        (overflowPat t neg mode, fOF ||| fNX ||| uf)
      else (encodeFin t neg q u, (if exact then 0 else fNX) ||| uf)

/-- Round of R31 with the flush of R38: a result that R32 calls tiny is delivered as a zero with UF and NX. -/
def roundFtz (ftz : Bool) (t : Ty) (v : Val) (mode : Rnd) (r : Nat := 0) : Nat × FFlags :=
  match v with
  | .fin neg m e =>
    if ftz && m ≠ 0 && tiny t neg m e mode r then (if neg then 2 ^ (t.bits - 1) else 0, fUF ||| fNX)
    else roundTo t v mode r
  | _ => roundTo t v mode r

/-- A subnormal FP32 input read as a zero of its sign under FTZ (R38). -/
def ftzIn (ftz : Bool) (x : Nat) : Nat :=
  if ftz && x / 2 ^ 23 % 256 = 0 then x / 2 ^ 31 % 2 * 2 ^ 31 else x

/-- IV for each signalling NaN among the inputs (R25). -/
def snanFlag (vs : List Val) : FFlags := if vs.any Val.isSNaN then fIV else 0

/-- The exact sum; `rd` gives an exact zero of opposite signs the sign −0 (R27). Flags: ∞ − ∞ (R37). -/
def vadd (rd : Bool) (a b : Val) : Val × FFlags :=
  match a, b with
  | .nan _, _ => (.nan false, 0)
  | _, .nan _ => (.nan false, 0)
  | .inf x, .inf y => if x = y then (.inf x, 0) else (.nan false, fIV)
  | .inf x, _ => (.inf x, 0)
  | _, .inf y => (.inf y, 0)
  | .fin x m e, .fin y n k =>
    let c := min e k
    let i : Int := (if x then -1 else 1) * (m * 2 ^ (e - c).toNat : Nat)
    let j : Int := (if y then -1 else 1) * (n * 2 ^ (k - c).toNat : Nat)
    let z := i + j
    if z = 0 then (.fin (if x = y then x else rd) 0 c, 0)
    else (.fin (z < 0) z.natAbs c, 0)

/-- The exact product; flags: 0 × ∞ (R27, R37). -/
def vmul (a b : Val) : Val × FFlags :=
  match a, b with
  | .nan _, _ => (.nan false, 0)
  | _, .nan _ => (.nan false, 0)
  | .inf x, y => if y.isZero then (.nan false, fIV) else (.inf (x != y.neg), 0)
  | x, .inf y => if x.isZero then (.nan false, fIV) else (.inf (x.neg != y), 0)
  | .fin x m e, .fin y n k => (.fin (x != y) (m * n) (e + k), 0)

/-- The exact value of an integer. -/
def ofIntV (i : Int) : Val := .fin (i < 0) i.natAbs 0

/-- Orders two values that are not NaN; zeros of either sign are equal. -/
def vcmp (a b : Val) : Ordering :=
  match a, b with
  | .nan _, _ => .eq
  | _, .nan _ => .eq
  | .inf x, .inf y => if x = y then .eq else if x then .lt else .gt
  | .inf x, _ => if x then .lt else .gt
  | _, .inf y => if y then .gt else .lt
  | .fin x m e, .fin y n k =>
    if m = 0 ∧ n = 0 then .eq
    else if m = 0 then (if y then .gt else .lt)
    else if n = 0 then (if x then .lt else .gt)
    else if x ≠ y then (if x then .lt else .gt)
    else if x then cmpScaled n k m e else cmpScaled m e n k

/-- Min of R107 on patterns: one NaN gives the other operand, two give the canonical NaN; −0 lies below +0. -/
def fminPat (t : Ty) (x y : Nat) : Nat :=
  let a := decodeF t x
  let b := decodeF t y
  if a.isNaN && b.isNaN then canonNaN t
  else if a.isNaN then y
  else if b.isNaN then x
  else match vcmp a b with
    | .lt => x
    | .gt => y
    | .eq => if a.neg then x else y

/-- Max of R107 on patterns. -/
def fmaxPat (t : Ty) (x y : Nat) : Nat :=
  let a := decodeF t x
  let b := decodeF t y
  if a.isNaN && b.isNaN then canonNaN t
  else if a.isNaN then y
  else if b.isNaN then x
  else match vcmp a b with
    | .gt => x
    | .lt => y
    | .eq => if a.neg then y else x

/-- The quotient of two finite values with `k` bits below it and a sticky bit; the divisor is not zero. -/
def vdivFin (x : Bool) (m : Nat) (e : Int) (y : Bool) (n : Nat) (k : Int) (bits : Nat) : Val :=
  let sh := bits + bitLen n
  let q := m * 2 ^ sh / n
  let sticky := if m * 2 ^ sh % n = 0 then 0 else 1
  .fin (x != y) (2 * q + sticky) (e - k - sh - 1)

/-- The integer square root by bisection on bits, `i` bits from the top. -/
def isqrtGo (n : Nat) (i : Nat) (acc : Nat) : Nat :=
  match i with
  | 0 => acc
  | j + 1 => let c := acc + 2 ^ j; isqrtGo n j (if c * c ≤ n then c else acc)

/-- The integer square root. -/
def isqrt (n : Nat) : Nat := isqrtGo n (Nat.log2 n / 2 + 1) 0

/-- The square root of a positive finite value with extra bits and a sticky bit. -/
def vsqrtFin (m : Nat) (e : Int) (bits : Nat) : Val :=
  let odd := e % 2 ≠ 0
  let m1 := if odd then 2 * m else m
  let e1 := if odd then e - 1 else e
  let n := m1 * 4 ^ bits
  let q := isqrt n
  .fin false (2 * q + (if q * q = n then 0 else 1)) (e1 / 2 - bits - 1)

/-- One step of the generator (R33). -/
def srStep (x : Word) : Word :=
  let t := x ^^^ (x <<< 13)
  let t := t ^^^ (t >>> 17)
  t ^^^ (t <<< 5)

/-- The 16 bits SrRound uses (R33). -/
def srBits (x : Word) : Nat := x.toNat / 65536

end Sys2Proof.Machine
end

