-- ==== Sys2Proof/WellFormed.lean ====
section
/-!
DEFINITION. When an instruction is well formed: its form accepts every field it holds (R48, R61 step 3). An event
is always well formed; the step for an unassigned opcode holds a word whose opcode R59 does not list.
-/

namespace Sys2Proof

/-- Well-formedness of an instruction, by the checks of R61 step 3. -/
def Instr.wf (i : Instr) : Bool :=
  match i.form? with
  | some (o, f) => o.legal f
  | none =>
    match i with
    | .unassignedOpcode w => (Op.ofCode (w.toNat % 2 ^ 10)).isNone
    | _ => true

end Sys2Proof
end

