-- ==== Sys2Proof/Decode.lean ====
section
/-!
DEFINITION. The decoder: from the 96 bits of a word to an instruction or a rejection by name (R41 to R53, R59 to
R63), and the encoder written from the same tables. Words are read as numbers, bit 0 the lowest (R41, R42).
-/

namespace Sys2Proof

/-- Why a word is refused: the first illegal field in the order of R63. -/
inductive Reject where
  /-- Fewer than the 12 bytes of a word (R42). -/
  | short
  /-- HNT holds a hint the form does not admit (R52). -/
  | hints
  /-- Bits 23:22 are not zero (R41). -/
  | reserved
  /-- Field D holds what the form does not accept (R48). -/
  | fieldD
  /-- Field A. -/
  | fieldA
  /-- Field B. -/
  | fieldB
  /-- Field X, or a combination of fields (R63). -/
  | fieldX
deriving DecidableEq, Repr

/-- The number R63 puts in TVAL[22:16] for the refusal. -/
def Reject.bit (r : Reject) : Nat :=
  match r with
  | .short => 0
  | .hints => 15
  | .reserved => 22
  | .fieldD => 24
  | .fieldA => 42
  | .fieldB => 60
  | .fieldX => 78

/-- TYPE codes of R50. -/
def Ty.code (t : Ty) : Nat :=
  match t with
  | .none => 0 | .b8 => 1 | .b16 => 2 | .b32 => 3 | .b64 => 4 | .b128 => 5 | .i8 => 6 | .i16 => 7 | .i32 => 8
  | .i64 => 9 | .n8 => 10 | .n16 => 11 | .n32 => 12 | .n64 => 13 | .f64 => 14 | .f32 => 15 | .f16 => 16
  | .bf16 => 17 | .e4m3 => 18 | .e5m2 => 19 | .cb4 => 20

/-- The type of a code of R50; codes above 0x14 are reserved. -/
def tyOfCode (n : Nat) : Option Ty :=
  match n with
  | 0 => some .none | 1 => some .b8 | 2 => some .b16 | 3 => some .b32 | 4 => some .b64 | 5 => some .b128
  | 6 => some .i8 | 7 => some .i16 | 8 => some .i32 | 9 => some .i64 | 10 => some .n8 | 11 => some .n16
  | 12 => some .n32 | 13 => some .n64 | 14 => some .f64 | 15 => some .f32 | 16 => some .f16 | 17 => some .bf16
  | 18 => some .e4m3 | 19 => some .e5m2 | 20 => some .cb4 | _ => none

/-- RND codes of R30. -/
def Rnd.code (r : Rnd) : Nat :=
  match r with
  | .rne => 0 | .rz => 1 | .ru => 2 | .rd => 3 | .sr => 4
/-- The mode of a rounding code (R30). -/
def rndOfCode (n : Nat) : Option Rnd :=
  match n with
  | 0 => some .rne | 1 => some .rz | 2 => some .ru | 3 => some .rd | 4 => some .sr | _ => none

/-- ORDER codes of R51. -/
def Order.code (o : Order) : Nat :=
  match o with
  | .none => 0 | .rlx => 1 | .acq => 2 | .rel => 3 | .ar => 4 | .sc => 5
/-- The order of a code (R51). -/
def orderOfCode (n : Nat) : Option Order :=
  match n with
  | 0 => some .none | 1 => some .rlx | 2 => some .acq | 3 => some .rel | 4 => some .ar | 5 => some .sc | _ => none

/-- SCOPE codes of R51. -/
def Scope.code (s : Scope) : Nat :=
  match s with
  | .none => 0 | .w => 1 | .b => 2 | .c => 3 | .d => 4 | .s => 5
/-- The scope of a code (R51). -/
def scopeOfCode (n : Nat) : Option Scope :=
  match n with
  | 0 => some .none | 1 => some .w | 2 => some .b | 3 => some .c | 4 => some .d | 5 => some .s | _ => none

/-- CMP codes of R88 and R105. -/
def Cmp.code (c : Cmp) : Nat :=
  match c with
  | .eq => 0 | .ne => 1 | .lt => 2 | .le => 3 | .gt => 4 | .ge => 5 | .num => 6 | .nan => 7
/-- The relation of a code. -/
def cmpOfCode (n : Nat) : Cmp :=
  match n with
  | 0 => .eq | 1 => .ne | 2 => .lt | 3 => .le | 4 => .gt | 5 => .ge | 6 => .num | _ => .nan

/-- BOP and LOP codes of R88. -/
def Bop.code (b : Bop) : Nat :=
  match b with
  | .and => 0 | .or => 1 | .xor => 2
/-- The operation of a code. -/
def bopOfCode (n : Nat) : Option Bop :=
  match n with
  | 0 => some .and | 1 => some .or | 2 => some .xor | _ => none

/-- The compare type T of R88. -/
def cmpTyOf (n : Nat) : Ty :=
  match n with
  | 0 => .i32 | 1 => .n32 | 2 => .i64 | _ => .n64
/-- The code of a compare type. -/
def cmpTyCode (t : Ty) : Nat :=
  match t with
  | .i32 => 0 | .n32 => 1 | .i64 => 2 | _ => 3

/-- Lease codes of R52. -/
def Lease.code (l : Lease) : Nat :=
  match l with
  | .predicted => 0 | .short => 1 | .long => 2 | .noAlloc => 3
/-- The lease of a code. -/
def leaseOfCode (n : Nat) : Lease :=
  match n with
  | 0 => .predicted | 1 => .short | 2 => .long | _ => .noAlloc

/-- Branch-hint codes of R52. -/
def BrHint.code (b : BrHint) : Nat :=
  match b with
  | .none => 0 | .likely => 1 | .unlikely => 2 | .uniform => 3
/-- The branch hint of a code. -/
def brHintOfCode (n : Nat) : BrHint :=
  match n with
  | 0 => .none | 1 => .likely | 2 => .unlikely | _ => .uniform

/-- One bit as a number. -/
def bit1 (b : Bool) : Nat := if b then 1 else 0

/-- HNT as bits 21:15 of the word (R52). -/
def Hints.code (h : Hints) : Nat :=
  bit1 h.rx * 64 + bit1 h.ru * 32 + h.lease.code * 8 + bit1 h.yf * 4 + h.br.code

/-- HNT read from its seven bits (R52). -/
def hintsOfCode (n : Nat) : Hints :=
  { rx := n / 64 % 2 == 1, ru := n / 32 % 2 == 1, lease := leaseOfCode (n / 8 % 4), yf := n / 4 % 2 == 1,
    br := brHintOfCode (n % 4) }

/-- GRD as bits 14:10 (R41). -/
def Guard.code (g : Guard) : Nat := bit1 g.neg * 16 + g.pred.toNat
/-- GRD read from its five bits. -/
def guardOfCode (n : Nat) : Guard := { neg := n / 16 % 2 == 1, pred := BitVec.ofNat 4 (n % 16) }

/-- The 16 payload bits of a special operand: the subkind and what it names (R47). -/
def Special.payload (k : Special) : Nat :=
  match k with
  | .pred n neg => bit1 neg * 16 + n.toNat
  | .upred n neg => 0x1000 + bit1 neg * 16 + n.toNat
  | .ctr n => 0x2000 + n.toNat
  | .mask n => 0x3000 + n.toNat
  | .bar n => 0x4000 + n.toNat
  | .atab n => 0x5000 + n.toNat
  | .cbook n => 0x6000 + n.toNat
  | .sreg n => 0x7000 + n.toNat
  | .accb n => 0x8000 + n.toNat
  | .vec n => 0x9000 + n.toNat

/-- A special operand from its 16 payload bits; unused bits must be zero (R47). -/
def specialOfPayload (p : Nat) : Option Special :=
  let v := p % 4096
  match p / 4096 % 16 with
  | 0 => if v < 32 then some (.pred (BitVec.ofNat 4 (v % 16)) (v / 16 == 1)) else none
  | 1 => if v < 32 then some (.upred (BitVec.ofNat 4 (v % 16)) (v / 16 == 1)) else none
  | 2 => if v < 16 then some (.ctr (BitVec.ofNat 4 v)) else none
  | 3 => if v < 8 then some (.mask (BitVec.ofNat 3 v)) else none
  | 4 => if v < 64 then some (.bar (BitVec.ofNat 6 v)) else none
  | 5 => if v < 4 then some (.atab (BitVec.ofNat 2 v)) else none
  | 6 => if v < 16 then some (.cbook (BitVec.ofNat 4 v)) else none
  | 7 => if v < 1024 then some (.sreg (BitVec.ofNat 10 v)) else none
  | 8 => if v < 2 then some (.accb (BitVec.ofNat 1 v)) else none
  | 9 => if v < 64 then some (.vec (BitVec.ofNat 6 v)) else none
  | _ => none

/-- The 18 bits of an operand field (R44). -/
def Operand.code (o : Operand) : Nat :=
  match o with
  | .none => 0
  | .v n ix neg abs => bit1 abs * 2048 + bit1 neg * 1024 + bit1 ix * 512 + n.toNat
  | .u n ix neg abs => 0x10000 + bit1 abs * 2048 + bit1 neg * 1024 + bit1 ix * 512 + n.toNat
  | .imm x => 0x20000 + x.toNat
  | .sp k => 0x30000 + k.payload

/-- An operand from its 18 bits (R44); none where a must-be-zero bit is set or a subkind is reserved. -/
def operandOfCode (x : Nat) : Option Operand :=
  match x / 0x10000 % 4 with
  | 0 => if x / 4096 % 16 = 0
         then some (.v (BitVec.ofNat 9 (x % 512)) (x / 512 % 2 == 1) (x / 1024 % 2 == 1) (x / 2048 % 2 == 1)) else none
  | 1 => if x / 4096 % 16 = 0 ∧ x / 64 % 8 = 0
         then some (.u (BitVec.ofNat 6 (x % 64)) (x / 512 % 2 == 1) (x / 1024 % 2 == 1) (x / 2048 % 2 == 1)) else none
  | 2 => some (.imm (BitVec.ofNat 16 (x % 65536)))
  | _ => (specialOfPayload (x % 65536)).map .sp

/-- An operand field as the form reads it: zero is no operand where the form takes no vector register there (R48). -/
def parseField (fl : Fld) (x : Nat) : Option Operand :=
  if x = 0 ∧ fl.opt = true ∧ fl.v = false then some .none
  else
    match operandOfCode x with
    | some o => if fl.ok o then some o else none
    | none => none

/-- The 18 bits of X (R48, R49, R88, R105, R131, R179, R285, R373, R426, R443). -/
def Ext.code (x : Ext) : Nat :=
  match x with
  | .none => 0
  | .mod fn sc od sat r t => fn.toNat * 32768 + sc.code * 4096 + od.code * 512 + bit1 sat * 256 + r.code * 32 + t.code
  | .opC c m => c.code + m.toNat * 4096
  | .immHi hi => 0x20000 + hi.toNat
  | .carry co cin ci t => co.toNat * 16384 + bit1 cin * 8192 + ci.toNat * 512 + t.code
  | .lut v t => v.toNat * 1024 + t.code
  | .icmp c b pe pcn pc t => c.code * 32768 + b.code * 8192 + pe.toNat * 512 + bit1 pcn * 256 + pc.toNat * 16 + cmpTyCode t
  | .iset c one t => c.code * 32768 + bit1 one * 16384 + cmpTyCode t
  | .select pn p t => bit1 pn * 131072 + p.toNat * 8192 + t.code
  | .lea sh t => sh.toNat * 32768 + t.code
  | .plog l b pe pcn pc => l.code * 65536 + b.code * 16384 + pe.toNat * 1024 + bit1 pcn * 512 + pc.toNat * 32
  | .fcmp c b pe pcn pc u bf =>
    c.code * 32768 + b.code * 8192 + pe.toNat * 512 + bit1 pcn * 256 + pc.toNat * 16 + bit1 u * 8 + bit1 bf
  | .fset c one u => c.code * 32768 + bit1 one * 16384 + bit1 u * 8
  | .conv dt sat r st => dt.code * 8192 + bit1 sat * 256 + r.code * 32 + st.code
  | .mem dh sc od dl t => dh.toNat * 32768 + sc.code * 4096 + od.code * 512 + dl.toNat * 32 + t.code
  | .shfl mode seg t => mode.toNat * 65536 + seg.toNat * 8192 + t.code
  | .red op excl t => op.toNat * 32768 + bit1 excl * 16384 + t.code
  | .mma nc sl => nc.toNat * 65536 + sl.toNat * 1024
  | .svc fn => fn.toNat
  | .mred aop t => aop.toNat * 32 + t.code
  | .recall tm attr => bit1 tm * 65536 + attr.toNat * 16384

/-- Operand C from X: kinds 0b00 and 0b01 only, M in bits 15:12 (R48). -/
def parseC (x : Nat) : Option Ext :=
  match operandOfCode (x - x / 4096 % 16 * 4096) with
  | some (.v n ix neg abs) => some (.opC (.v n ix neg abs) (BitVec.ofNat 4 (x / 4096 % 16)))
  | some (.u n ix neg abs) => some (.opC (.u n ix neg abs) (BitVec.ofNat 4 (x / 4096 % 16)))
  | _ => none

/-- X read by a layout; none where a code is reserved or a must-be-zero bit is set. -/
def parseExt (l : Layout) (x : Nat) : Option Ext :=
  match l with
  | .zero => if x = 0 then some .none else none
  | .modw =>
    match scopeOfCode (x / 4096 % 8), orderOfCode (x / 512 % 8), rndOfCode (x / 32 % 8), tyOfCode (x % 32) with
    | some sc, some od, some r, some t => some (.mod (BitVec.ofNat 3 (x / 32768)) sc od (x / 256 % 2 == 1) r t)
    | _, _, _, _ => none
  | .opC => parseC x
  | .opC0 => if x = 0 then some .none else parseC x
  | .immHi => if x / 65536 = 2 then some (.immHi (BitVec.ofNat 16 (x % 65536))) else none
  | .carry =>
    match tyOfCode (x % 32) with
    | some t => if x / 32 % 16 = 0
      then some (.carry (BitVec.ofNat 4 (x / 16384)) (x / 8192 % 2 == 1) (BitVec.ofNat 4 (x / 512 % 16)) t) else none
    | none => none
  | .lut =>
    match tyOfCode (x % 32) with
    | some t => if x / 32 % 32 = 0 then some (.lut (BitVec.ofNat 8 (x / 1024)) t) else none
    | none => none
  | .icmp =>
    match bopOfCode (x / 8192 % 4) with
    | some b => if x / 4 % 4 = 0
      then some (.icmp (cmpOfCode (x / 32768)) b (BitVec.ofNat 4 (x / 512 % 16)) (x / 256 % 2 == 1)
        (BitVec.ofNat 4 (x / 16 % 16)) (cmpTyOf (x % 4))) else none
    | none => none
  | .iset =>
    if x / 4 % 4096 = 0
    then some (.iset (cmpOfCode (x / 32768)) (x / 16384 % 2 == 1) (cmpTyOf (x % 4))) else none
  | .select =>
    match tyOfCode (x % 32) with
    | some t => if x / 32 % 256 = 0
      then some (.select (x / 131072 == 1) (BitVec.ofNat 4 (x / 8192 % 16)) t) else none
    | none => none
  | .lea =>
    match tyOfCode (x % 32) with
    | some t => if x / 32 % 1024 = 0 then some (.lea (BitVec.ofNat 3 (x / 32768)) t) else none
    | none => none
  | .plog =>
    match bopOfCode (x / 65536), bopOfCode (x / 16384 % 4) with
    | some lo, some b => if x % 32 = 0
      then some (.plog lo b (BitVec.ofNat 4 (x / 1024 % 16)) (x / 512 % 2 == 1) (BitVec.ofNat 4 (x / 32 % 16))) else none
    | _, _ => none
  | .fcmp =>
    match bopOfCode (x / 8192 % 4) with
    | some b => if x / 2 % 4 = 0
      then some (.fcmp (cmpOfCode (x / 32768)) b (BitVec.ofNat 4 (x / 512 % 16)) (x / 256 % 2 == 1)
        (BitVec.ofNat 4 (x / 16 % 16)) (x / 8 % 2 == 1) (x % 2 == 1)) else none
    | none => none
  | .fset =>
    if x / 16 % 1024 = 0 ∧ x % 8 = 0
    then some (.fset (cmpOfCode (x / 32768)) (x / 16384 % 2 == 1) (x / 8 % 2 == 1)) else none
  | .conv =>
    match tyOfCode (x / 8192), rndOfCode (x / 32 % 8), tyOfCode (x % 32) with
    | some dt, some r, some st => if x / 512 % 16 = 0 then some (.conv dt (x / 256 % 2 == 1) r st) else none
    | _, _, _ => none
  | .mem =>
    match scopeOfCode (x / 4096 % 8), orderOfCode (x / 512 % 8), tyOfCode (x % 32) with
    | some sc, some od, some t => some (.mem (BitVec.ofNat 3 (x / 32768)) sc od (BitVec.ofNat 4 (x / 32 % 16)) t)
    | _, _, _ => none
  | .shfl =>
    match tyOfCode (x % 32) with
    | some t => if x / 32 % 256 = 0
      then some (.shfl (BitVec.ofNat 2 (x / 65536)) (BitVec.ofNat 3 (x / 8192 % 8)) t) else none
    | none => none
  | .red =>
    match tyOfCode (x % 32) with
    | some t => if x / 32 % 512 = 0 then some (.red (BitVec.ofNat 3 (x / 32768)) (x / 16384 % 2 == 1) t) else none
    | none => none
  | .mma => if x % 1024 = 0 then some (.mma (BitVec.ofNat 2 (x / 65536)) (BitVec.ofNat 6 (x / 1024 % 64))) else none
  | .svc => if x < 65536 then some (.svc (BitVec.ofNat 16 x)) else none
  | .mred =>
    match tyOfCode (x % 32) with
    | some t => if x < 512 then some (.mred (BitVec.ofNat 4 (x / 32)) t) else none
    | none => none
  | .recall =>
    if x % 16384 = 0 ∧ x < 131072 then some (.recall (x / 65536 == 1) (BitVec.ofNat 2 (x / 16384 % 4))) else none

/-- Among the forms that share an opcode, the one X names (R178, R295, R352, R435). -/
def Op.pick (o : Op) (x : Nat) : Option Op :=
  let fn := x / 32768
  match o with
  | .fibqState => (match fn with | 0 => some .fibqState | 1 => some .fibqRec | _ => none)
  | .ractlOff => (match fn with | 0 => some .ractlOff | 1 => some .ractlOn | 2 => some .ractlThr | _ => none)
  | .accz => (match fn with | 0 => some .accz | 1 => some .acczSt | _ => none)
  | .kickcfgOpen => (match fn with | 0 => some .kickcfgOpen | 1 => some .kickcfgFree | 2 => some .kickcfgClose | _ => none)
  | .uihdlVi => (match fn with | 0 => some .uihdlVi | 1 => some .uihdlBlk | 2 => some .uihdlMask | _ => none)
  | o => some o

/-- The forms that share the opcode of `o`. -/
def Op.siblings (o : Op) : List Op :=
  match o with
  | .fibqState => [.fibqState, .fibqRec]
  | .ractlOff => [.ractlOff, .ractlOn, .ractlThr]
  | .accz => [.accz, .acczSt]
  | .kickcfgOpen => [.kickcfgOpen, .kickcfgFree, .kickcfgClose]
  | .uihdlVi => [.uihdlVi, .uihdlBlk, .uihdlMask]
  | o => [o]

/-- Where FN names no form of the opcode: the first field that no form of the opcode accepts (R63; which forms' fields are asked is
DEDUCED, log 66), and X itself at the latest. -/
def Op.noForm (o : Op) (w : Nat) : Reject :=
  let bad (fl : Op → Fld) (x : Nat) : Bool := o.siblings.all (fun p => (parseField (fl p) x).isNone)
  if !o.hntOk (hintsOfCode (w / 2 ^ 15 % 128)) then .hints
  else if w / 2 ^ 22 % 4 ≠ 0 then .reserved
  else if bad Op.fd (w / 2 ^ 24 % 2 ^ 18) then .fieldD
  else if bad Op.fa (w / 2 ^ 42 % 2 ^ 18) then .fieldA
  else if bad Op.fb (w / 2 ^ 60 % 2 ^ 18) then .fieldB
  else .fieldX

/-- The fields of a word of form `o`, in the order of R63. -/
def Op.parse (o : Op) (w : Nat) : Except Reject Ins :=
  let h := hintsOfCode (w / 2 ^ 15 % 128)
  if !o.hntOk h then .error .hints
  else if w / 2 ^ 22 % 4 ≠ 0 then .error .reserved
  else
    match parseField o.fd (w / 2 ^ 24 % 2 ^ 18) with
    | none => .error .fieldD
    | some d =>
      match parseField o.fa (w / 2 ^ 42 % 2 ^ 18) with
      | none => .error .fieldA
      | some a =>
        match parseField o.fb (w / 2 ^ 60 % 2 ^ 18) with
        | none => if o.aOk { d := d, a := a } then .error .fieldB else .error .fieldA
        | some b =>
          match parseExt o.layout (w / 2 ^ 78 % 2 ^ 18) with
          | none => if o.aOk { d := d, a := a } then .error .fieldX else .error .fieldA
          | some x =>
            let f : Ins := { grd := guardOfCode (w / 2 ^ 10 % 32), hnt := h, d := d, a := a, b := b, x := x }
            if !o.aOk f then .error .fieldA
            else if !o.xOk f then .error .fieldX
            else .ok f

/-- The decoder of one word (R59 to R61 step 3). -/
def decodeWord (w : Nat) : Except Reject Instr :=
  match Op.ofCode (w % 2 ^ 10) with
  | none => .ok (.unassignedOpcode (BitVec.ofNat 96 w))
  | some o =>
    match o.pick (w / 2 ^ 78 % 2 ^ 18) with
    | none => .error (o.noForm w)
    | some o' =>
      match o'.parse w with
      | .ok f => .ok (o'.instr f)
      | .error r => .error r

/-- The number a list of bytes holds, the lowest byte first (R6). -/
def leNat (bs : List Byte) : Nat :=
  match bs with
  | [] => 0
  | b :: rest => b.toNat + 256 * leNat rest

/-- The `n` bytes of a number, the lowest first (R6). -/
def leBytes (n x : Nat) : List Byte :=
  match n with
  | 0 => []
  | k + 1 => BitVec.ofNat 8 (x % 256) :: leBytes k (x / 256)

/-- The decoder over bytes: one word is 12 bytes (R42). -/
def decode (bs : List Byte) : Except Reject Instr :=
  if bs.length < 12 then .error .short else decodeWord (leNat (bs.take 12))

/-- The word of a form with its fields (R41). -/
def Op.encode (o : Op) (f : Ins) : Nat :=
  o.code.toNat + f.grd.code * 2 ^ 10 + f.hnt.code * 2 ^ 15 + f.d.code * 2 ^ 24 + f.a.code * 2 ^ 42 +
    f.b.code * 2 ^ 60 + f.x.code * 2 ^ 78

/-- The word of an instruction; none for an event. -/
def Instr.encode (i : Instr) : Option Nat :=
  match i.form? with
  | some (o, f) => some (o.encode f)
  | none =>
    match i with
    | .unassignedOpcode w => some w.toNat
    | _ => none

/-- The decoder for the host's question about a row of the opcode table: `w` holds the word's bits, bit 0 the lowest. -/
def decodeTableWord (nbits w : Nat) : Option Instr :=
  match decodeWord (w % 2 ^ (min nbits 96)) with
  | .ok i => some i
  | .error _ => none

end Sys2Proof
end

