-- ==== Sys2Proof/Machine/State.lean ====
section
/-!
DEFINITION. The state of the K6 as plain data: lanes, fibres, warp slots, blocks, cores, caches, home slices,
memory and time, the scheduler, the host bridge, the fabric and bring-up (spec 01 to 20), and beside them the
model's own fields: what moves next (log 1), the count of core cycles (log 2) and the counter of free values (log 6).
-/

namespace Sys2Proof.Machine

/-- Memory: pairs of address and byte, addresses strictly rising, no byte zero (an unlisted address reads zero, log 4). -/
abbrev Memory := List Host.Cell

/-- One range register (R128): bases in bytes, length in granules of 64 KiB; `gran` 0 marks it unused. -/
structure Range where
  vabase : Nat := 0
  gran : Nat := 0
  iabase : Nat := 0
  r : Bool := false
  w : Bool := false
  x : Bool := false
  a : Bool := false
  ns : Bool := false
deriving DecidableEq, Repr, Inhabited

/-- What one lane of a fibre owns beside its registers (R14, R20, R147, R152, R164). -/
structure Lane where
  pc : VA := 0
  /-- p0 to p14. -/
  preds : BitVec 15 := 0
  /-- %srstate (R35). -/
  sr : Word := 1
  exited : Bool := false
  /-- The rejoin mask the lane is parked at. -/
  park : Option (BitVec 3) := none
  /-- The lane entered the trap handler (R164). -/
  handler : Bool := false
deriving DecidableEq, Repr, Inhabited

/-- A completion counter: value, completion time and error record (R252). -/
structure Ctr where
  val : Word := 0
  kt : Time := 0
  ec : Dword := 0
deriving DecidableEq, Repr, Inhabited

/-- A rejoin mask (R152). -/
structure Mask where
  enr : LaneSet := 0
  arr : LaneSet := 0
deriving DecidableEq, Repr, Inhabited

/-- A watchpoint (R201). -/
structure Watch where
  va : Dword := 0
  ctl : Word := 0
deriving DecidableEq, Repr, Inhabited

/-- The states of a fibre (R155). -/
inductive FState where
  | active | ready | waiting | barrierWait | frozen | ended
deriving DecidableEq, Repr, Inhabited

/-- The instruction a fibre is stalled at (R157). -/
structure Stall where
  pc : VA
  op : Op
  f : Ins
deriving DecidableEq, Repr

/-- A fault record (R171). -/
structure FaultRec where
  pc : VA := 0
  tval : Dword := 0
  rc : BitVec 4 := 0
  fc : BitVec 4 := 0
  warp : BitVec 4 := 0
  fib : BitVec 2 := 0
  trap : Bool := false
  resumable : Bool := false
  tag : BitVec 16 := 0
  core : Nat := 0
  socket : Nat := 0
  lanes : LaneSet := 0
deriving DecidableEq, Repr, Inhabited

/-- A runahead episode (R211 to R219): the trigger, the checkpoint of what has a shadow in hardware, the shadow
registers and the invalid bits. Vector registers are named by window index × 64 + lane. -/
structure Episode where
  trigger : Nat
  lanes0 : List Lane
  s0 : Map Word
  q0 : BitVec 15
  x0 : Word
  /-- Window indices that hold a shadow entry. -/
  entries : List Nat
  shadow : Map Word
  inval : List Nat
  /-- Invalid lanes of each predicate. -/
  pinval : Map LaneSet
  sinval : List Nat
  qinval : BitVec 15
  xinval : Bool
  dormant : LaneSet
  /-- Fibres of the slot that have been Ready since before the episode (R211, R219). -/
  ready : List Nat := []
deriving DecidableEq, Repr

/-- A wake of a registration (R358, R359): none, by a write, or by WAKEA. -/
inductive Wake where
  | none | write | wakea
deriving DecidableEq, Repr, Inhabited

/-- Where a WAITA stands (R359): it registers, it loads, or it waits for a wake. -/
inductive WStage where
  | reg | load | wait
deriving DecidableEq, Repr, Inhabited

/-- A WAITA under way: its line and bytes, the value expected, and where it stands. -/
structure WaitA where
  line : Nat
  off : Nat
  n : Nat
  e : Dword
  ns : Bool
  scope : Scope := .none
  /-- The TVAL of a refusal (R141). -/
  tval : Dword := 0
  stage : WStage := .reg
  /-- The request it waits for. -/
  req : Nat := 0
  registered : Bool := false
  /-- A WAKEA came: the load under way is the last. -/
  last : Bool := false
  wake : Wake := .none
deriving DecidableEq, Repr, Inhabited

/-- Where an instruction of several steps stands (R314, R359, R399). -/
inductive Phase where
  /-- BARS has arrived and, once the arrival is counted, holds a hidden token (R314). -/
  | bars (token : Option Word)
  | waita (w : WaitA)
  /-- WAITA has its value. -/
  | got (v : Dword)
  /-- A request whose answer is awaited, by number. -/
  | asked (id : Nat)
  /-- Its counter counts it already; its release is under way (R354, R427). -/
  | counted
  /-- A FRESUME whose release is under way, with the uniform predicate of its answer (R196, R197). -/
  | resuming (q : Nat)
deriving DecidableEq, Repr, Inhabited

/-- A barrier arrival that has issued and is not counted yet (R312). -/
structure Arrival where
  sc : Scope
  n : Nat
  cnt : Nat
  drop : Bool
  /-- The cycle of issue, which orders arrivals of a block (R311). -/
  at' : Nat
  /-- Its release has begun. -/
  begun : Bool := false
  /-- Asynchronous transfers it waits for. -/
  cmds : List Nat := []
  /-- BARA's token register with its scoreboard entry; the address of a BARS. -/
  tok : Option (Nat × Nat) := none
  bars : Option Nat := none
deriving DecidableEq, Repr, Inhabited

/-- A fibre (R146, R155, R159, R160, R171, R201, R207, R211, R281, R317). -/
structure Fibre where
  budget : Nat := 8
  lanes : List Lane := []
  /-- s0 to s63; an unlisted register is zero. -/
  s : Map Word := []
  /-- q0 to q14. -/
  q : BitVec 15 := 0
  x : Word := 0
  /-- j0 to j7. -/
  j : Map Mask := []
  /-- k0 to k15. -/
  k : Map Ctr := []
  g : Word := 0
  fpcs : Word := 0
  ptime : Time := 0
  tpc : VA := 0
  tcause : BitVec 6 := 0
  tval : Dword := 0
  tpend : BitVec 12 := 0
  tpval : Dword := 0
  trap : Bool := false
  /-- Tokens of fb0 to fb3: the phase named. -/
  tok : Map Word := []
  st : FState := .ready
  stall : Option Stall := none
  /-- Where instructions of several steps stand, by their address. -/
  phases : Map Phase := []
  /-- Barrier arrivals not counted yet, in order of issue (R312). -/
  arrivals : List Arrival := []
  /-- Instructions issued since it became Active (R159). -/
  quantum : Nat := 0
  wp : Map Watch := []
  raOn : Bool := false
  raThr : Nat := 256
  /-- Checkpoint reservation C (R212). -/
  raC : Nat := 0
  ra : Option Episode := none
  /-- Loads on which no further episode starts (R211). -/
  raDone : List Nat := []
  /-- The open section: the address of its NPB and the cycle it opened (R317). -/
  sec : Option (VA × Nat) := none
  frozenAt : Nat := 0
  /-- Freeze time counted before the last save (R177). -/
  frozenFor : Nat := 0
  frec : FaultRec := {}
  /-- The release under way: the instruction that waits for it (none for a FENCE.rel, which later loads may pass), its
  scope, and the largest w returned for it (R237, R238). -/
  rel : Option (Option VA × Scope) := none
  relw : Time := 0
  /-- The word a fetch returned to a path (R42). -/
  fetched : Option (VA × BitVec 96) := none
  /-- The leading path (R148), and the fibre's issue opportunities since it took the lead (R149). -/
  lead : LaneSet := 0
  opps : Nat := 0
  /-- The paths that had an issue opportunity, the latest last (R149). -/
  served : List LaneSet := []
  /-- Accesses issued before the last OPF and still outstanding, by warp-slot entry (R293). -/
  opf : List Nat := []
  /-- Of a fibre that may enter runahead: where its paths stand that are stalled under R157, as settling finds them (R211). -/
  stuck : List VA := []
deriving DecidableEq, Repr, Inhabited

/-- A fibre barrier (R160). -/
structure FBar where
  part : BitVec 4 := 0
  arr : BitVec 4 := 0
  phase : Word := 0
  /-- Engine commands of arrived fibres that the phase still waits for: number, fibre, counter. -/
  waits : List (Nat × Nat × Nat) := []
  pmax : Time := 0
  /-- The largest ptime of the arrivals of completed phases that tokens may still name. -/
  lasts : Map Time := []
deriving DecidableEq, Repr, Inhabited

/-- A change of a fibre's state that an instruction makes: registers by window index and lane (R225). -/
inductive Eff where
  | vreg (i lane : Nat) (v : Word)
  | vpoison (i lane : Nat)
  | pred (p lane : Nat) (b : Bool)
  | ureg (n : Nat) (v : Word)
  | upred (n : Nat) (b : Bool)
  | flags (m : BitVec 6)
deriving DecidableEq, Repr

/-- Attributes of pages (R245, R369). -/
inductive Attr where
  | leased | manual | priv
deriving DecidableEq, Repr, Inhabited

/-- Where a lane access goes (R125). -/
inductive Space where
  | global | scratch | acc | map
deriving DecidableEq, Repr, Inhabited

/-- One lane's access: the address as formed, and where it leads (an IA, or a core and store offset by `place`). -/
structure Acc where
  lane : Nat
  addr : Dword
  core : Nat := 0
  place : Nat
  /-- The operand of an atomic, the compare and new value, or the data of a store, low half first. -/
  v : Dword := 0
  w : Dword := 0
  /-- The world and the attribute of a global access. -/
  ns : Bool := true
  attr : Attr := .leased
deriving DecidableEq, Repr, Inhabited

/-- A version of a line as a reply brings it (R344). -/
structure Ver where
  data : BitVec 1024 := 0
  wt : Time := 0
  rt : Time := 0
  poison : BitVec 4 := 0
deriving DecidableEq, Repr, Inhabited

/-- An outstanding lane access: a load, an atomic, a CAS, or a store not performed yet (R235, R240, R244). -/
structure LoadOp where
  op : Op
  ty : Ty
  space : Space
  order : Order := .none
  scope : Scope := .none
  lease : Lease := .predicted
  /-- Window index of the destination and the registers it takes. -/
  d : Nat
  accs : List Acc
  /-- Requests made for it that are not answered yet. -/
  reqs : List Nat := []
  /-- Versions brought for it, by line. -/
  got : Map Ver := []
  /-- Old values of atomics, by lane, and the largest time of the atomics performed at homes. -/
  olds : Map Dword := []
  t : Time := 0
  /-- A poisoned value was read, from a register or by an atomic (R142, R322). -/
  poisoned : Bool := false
  failed : Bool := false
  /-- A home refused it after issue: the TVAL of the refusal (R141). -/
  refused : Option Dword := none
  /-- The instruction's address. -/
  pc : VA := 0
  /-- The AOP of an atomic performed at the core (R137, R245); 9 is CAS. -/
  aop : Nat := 0
deriving DecidableEq, Repr

/-- What an outstanding instruction waits to do. -/
inductive PendBody where
  | result (effs : List Eff)
  | load (l : LoadOp)
  /-- The answer of a keeper or of the fabric is awaited (R436, R460, R461); `hold` where later accesses wait for it. -/
  | answer (hold : Bool)
deriving DecidableEq, Repr

/-- An outstanding instruction of a warp slot and its scoreboard entries (R58, R307). -/
structure Pend where
  fib : Nat
  /-- Vector registers by window index, with lanes. -/
  dv : List (Nat × LaneSet) := []
  /-- Lane predicates, with lanes. -/
  dp : List (Nat × LaneSet) := []
  du : List Nat := []
  dq : List Nat := []
  entries : Nat := 1
  /-- The cycle of issue. -/
  since : Nat := 0
  body : PendBody
deriving DecidableEq, Repr

/-- A warp in its slot (R149, R154, R160, R206, R302). -/
structure Warp where
  slot : Nat := 0
  fibs : List Fibre := []
  active : Option Nat := none
  lastActive : Nat := 0
  fbs : Map FBar := []
  /-- The side-path buffer, newest first, at most 48 words (R149). -/
  side : List (VA × BitVec 96) := []
  pend : Map Pend := []
  nextPend : Nat := 0
  /-- YIELD holds the slot out of selection until this cycle (R206). -/
  yieldUntil : Nat := 0
  retired : Bool := false
deriving DecidableEq, Repr, Inhabited

/-- A named barrier record (R309). -/
structure Bar where
  ph : Word := 0
  scp : Scope := .none
  exp : Nat := 0
  cnt : Nat := 0
  /-- Fibres arrived, 4 × warp + fibre; at wider scopes, with the block (block × 64 + that). -/
  arr : List Nat := []
  drop : List Nat := []
  pmax : Time := 0
  last : Time := 0
  lscp : Scope := .none
deriving DecidableEq, Repr, Inhabited

/-- Why a slot of a save pool holds a block (R404). -/
inductive SaveReason where
  | none | preempt | tamper | migrate | group
deriving DecidableEq, Repr, Inhabited

/-- Where a block stands in its life (R319 to R321, R404). -/
inductive BState where
  /-- Taken by no core yet, or its slot is free again. -/
  | gone
  | resident
  | saved
  | displaced
  /-- Waits in a landing slot (R357). -/
  | landing
deriving DecidableEq, Repr, Inhabited

/-- The state of an interrupt vector (R431, R441). -/
structure Vec where
  pend : Bool := false
  payload : Word := 0
  count : BitVec 16 := 0
  t : Time := 0
  mask : Bool := false
  wake : Bool := false
  resume : Bool := false
  mode : BitVec 2 := 0
  /-- The wake task record, 64 bytes. -/
  wakeRec : List Byte := []
deriving DecidableEq, Repr, Inhabited

/-- A block (R198, R225 to R228, R309, R318, R319, R404, R441). -/
structure Block where
  st : BState := .gone
  /-- A block of Carafe, with service privilege (R54). -/
  service : Bool := false
  task : Nat := 0
  ix : Nat := 0
  iy : Nat := 0
  iz : Nat := 0
  gx : Nat := 1
  gy : Nat := 1
  gz : Nat := 1
  rank : Nat := 0
  csize : Nat := 1
  coop : Bool := false
  vi : Nat := 0
  tag : BitVec 16 := 0
  ns : Bool := false
  /-- 33 × socket + core number. -/
  core : Nat := 0
  width : Nat := 32
  /-- Budgets of the fibres, their entries and reservations (R388). -/
  budgets : List Nat := []
  entries : List VA := []
  ras : List Nat := []
  shared : Nat := 0
  trapEntry : Option VA := none
  rbase : Nat := 0
  sbase : Nat := 0
  sspan : Nat := 0
  /-- The intervals of the store that hold its runahead shadows (R212, R226). -/
  shadows : List (Nat × Nat) := []
  /-- Accumulator banks declared, and the physical banks owned. -/
  accN : Nat := 0
  banks : List Nat := []
  warps : List Warp := []
  ranges : List Range := []
  bars : Map Bar := []
  /-- The vector-0 handler: 4 × warp + fibre (R441). -/
  vec0H : Option Nat := none
  declH : Option Nat := none
  vec0 : Vec := {}
  restores : BitVec 16 := 0
  saveSlot : Option Nat := none
  reason : SaveReason := .none
  start : Time := 0
  epoch : Dword := 0
  /-- A forced save or Tamper drain has reached the block (R318). -/
  stopping : Bool := false
  /-- The block ends under R174, R258 or R321. -/
  ending : Bool := false
  failed : Bool := false
  /-- Displaced by Tamper or MIGRATE, in this order (R392). -/
  order : Nat := 0
  /-- The landing die (R357). -/
  landing : Option Nat := none
deriving DecidableEq, Repr, Inhabited

/-- A sector of a level-one line (R231): masks by byte, `wb` the dirty bytes of a write-back under way (R250) with the
slots and the stamp it took along. -/
structure Sector where
  valid : Bool := false
  dirty : BitVec 32 := 0
  slots : BitVec 16 := 0
  stamp : Time := 0
  wb : BitVec 32 := 0
  wbSlots : BitVec 16 := 0
  wbStamp : Time := 0
  /-- The version's sector is poisoned; the dirty bytes are. -/
  poison : Bool := false
  dpoison : Bool := false
deriving DecidableEq, Repr, Inhabited

/-- A level-one line (R231). The model stores whole times, which the span of R380 allows (log 9). -/
structure L1Line where
  data : BitVec 1024 := 0
  attr : Attr := .leased
  wt : Time := 0
  rt : Time := 0
  secs : Map Sector := []
deriving DecidableEq, Repr, Inhabited

/-- Engines of a core (R251). -/
inductive Engine where
  | copy | chain | matrix
deriving DecidableEq, Repr, Inhabited

/-- An interval of 32-byte blocks that a command reads or writes, or a whole table slot (R254). -/
inductive Region where
  | scratch (lo hi : Nat)
  | acc (lo hi : Nat)
  | atab (n : Nat)
  | book (n : Nat)
deriving DecidableEq, Repr, Inhabited

/-- Rows one member brings to a matrix command (R282, R287). -/
structure Member where
  warp : Nat
  rank : Nat
  k : Nat
  active : LaneSet
  /-- Row index and metadata by lane. -/
  rows : Map (Word × Word)
deriving DecidableEq, Repr, Inhabited

/-- Bytes a command writes at its completion: global memory (`kind` 0, `addr` an IA), the unified store (1) or the
accumulator store (2) of a core; poisoned or not. -/
structure WriteRun where
  kind : Nat
  core : Nat := 0
  addr : Nat
  /-- The VA of its first byte, of global memory. -/
  va : Nat := 0
  ns : Bool := true
  attr : Attr := .leased
  bytes : List Byte
  poison : Bool := false
deriving DecidableEq, Repr, Inhabited

/-- An engine command, or a notice, in flight (R251 to R258, R276, R331, R354, R444, R459). -/
structure Cmd where
  ref : FRef
  engine : Engine := .copy
  op : Op
  f : Ins
  /-- The counter named. -/
  k : Nat
  /-- The address of A and the values of B and C as read at issue. -/
  a : Dword := 0
  b : Dword := 0
  c : Dword := 0
  /-- Parameter block or notice registers. -/
  regs : List Word := []
  members : List Member := []
  /-- Lane values read at issue: row indices, factors. -/
  lanes : Map Word := []
  ti : Time := 0
  vi : Nat := 0
  tag : BitVec 16 := 0
  ns : Bool := false
  service : Bool := false
  /-- The descriptor, image or operand maps as read. -/
  desc : List Byte := []
  desc2 : List Byte := []
  descPoison : Bool := false
  reads : List Region := []
  writes : List Region := []
  /-- Activation tables captured at issue, by op slot (R271). -/
  tables : Map (BitVec 16640) := []
  started : Bool := false
  /-- Unfenced lane stores touched what it reads, or its accumulator region: its accumulator rows are unpredictable (R294). -/
  garbled : Bool := false
  /-- Bytes of what it writes that unfenced lane accesses have stored to: store offset, accumulator or not; they end
  unpredictable (R135). -/
  spoiled : List (Nat × Bool) := []
  /-- The error record found (R257). -/
  err : Dword := 0
  runs : List WriteRun := []
  /-- The largest time read or written (R255). -/
  kt : Time := 0
  iovf : Bool := false
  /-- Table or codebook slot to write, with its image. -/
  image : Option (Nat × BitVec 16640) := none
  /-- Sectors of global memory, by IA / 32, whose data arrive with an uncorrectable error (R363, R385). -/
  badData : List Nat := []
  /-- Its requests toward home slices whose messages were lost: the slice (16 × socket + number), sends, and the cycle of the last (R350). -/
  tries : Map (Nat × Nat) := []
  /-- Fabric requests awaited (R444, R459). -/
  reqs : List Nat := []
  done : Nat := 0
  dropped : Nat := 0
  /-- Lines fill-pinned at their homes for it (R348). -/
  pinned : List Nat := []
  /-- Blocks a push writes into (R331, R333). -/
  targets : List Nat := []
deriving DecidableEq, Repr

/-- A presentation group of the rendezvous latch (R282). -/
structure Latch where
  blk : Nat
  fib : Nat
  mask : Word
  members : List (Member × Stall × List Word × LaneSet)
deriving DecidableEq, Repr

/-- A notice pending at a kick queue (R354, R355). -/
structure Notice where
  core : Nat
  cmd : Nat
  ia : Nat
  len : Nat
  uword : Word
  tn : Time
  vi : Nat
  tag : BitVec 16
  ns : Bool
deriving DecidableEq, Repr, Inhabited

/-- A notice on its way to a queue (R354): the handle's fields, and the cycle it was returned at, if a full queue did. -/
structure Posted where
  n : Notice
  core : Nat
  queue : Nat
  gen : BitVec 16
  hvi : Nat
  returned : Option Nat := none
deriving DecidableEq, Repr, Inhabited

/-- A landing under way (R355): its notice, the opening it belongs to, the buffer and its header by store offset, what it will
write, and the landing counter. -/
structure Landing where
  n : Notice
  gen : BitVec 16
  core : Nat
  buf : Nat
  bufsz : Nat
  head : Nat
  runs : List WriteRun := []
  t : Time := 0
  status : Nat := 0
  seq : Word := 0
  fib : FRef
  k : Nat
  lines : List Nat := []
deriving DecidableEq, Repr

/-- A kick-queue record (R353). -/
structure KickQ where
  owner : Option Nat := none
  fib : FRef := ⟨0, 0, 0⟩
  k : Nat := 0
  gen : BitVec 16 := 0
  rbase : Nat := 0
  bufsz : Nat := 0
  nbuf : Nat := 0
  free : Nat := 0
  next : Nat := 0
  seq : Word := 0
  pend : List Notice := []
  landing : Option Landing := none
deriving DecidableEq, Repr, Inhabited

/-- Tamper's view of a core (R410 to R412). -/
inductive TamperSt where
  | inService | draining | quarantined
deriving DecidableEq, Repr, Inhabited

/-- A core (R223, R228, R231, R251, R269, R275, R282, R353, R410, R472, R475). -/
structure Core where
  uni : Memory := []
  acc : Memory := []
  /-- Poisoned 32-bit words of the unified and the accumulator store (R322). -/
  uniPoison : List Nat := []
  accPoison : List Nat := []
  /-- IOVF of each physical bank. -/
  iovf : List Bool := [false, false]
  /-- Lines by 2 × (IA / 128) + NS. -/
  l1 : Map L1Line := []
  cmds : Map Cmd := []
  nextCmd : Nat := 0
  latches : List Latch := []
  /-- The context of the matrix command that started last (R276). -/
  lastCtx : Option Nat := none
  /-- Live and shadow activation tables, codebooks and their owners. -/
  tabs : Map (BitVec 16640 × BitVec 16640) := []
  tabOwner : Map Nat := []
  books : Map (BitVec 256) := []
  bookOwner : Map Nat := []
  kicks : Map KickQ := []
  latch : Bool := false
  temp : BitVec 16 := 0
  power : Word := 0
  cecnt : Dword := 0
  uecnt : Dword := 0
  tamper : TamperSt := .inService
  drainAt : Nat := 0
  /-- Deferrals in a row (R411). -/
  deferred : Nat := 0
  /-- Pairs of VI and tag served, the VIs, and the overflow flag (R412). -/
  tlog : List (Nat × BitVec 16) := []
  tvis : LaneSet := 0
  tall : Bool := false
  tpass : Dword := 0
deriving DecidableEq, Repr, Inhabited

/-- A requester-side copy of a line (R342, R346, R348): the version, its valid sectors, its pins, and the cycle of its last use. -/
structure Copy where
  ver : Ver := {}
  valid : BitVec 4 := 15
  pins : Nat := 0
  used : Nat := 0
deriving DecidableEq, Repr, Inhabited

/-- The home copy of a line (R342, R347, R369, R370). -/
structure Home where
  data : BitVec 1024 := 0
  /-- Sectors that the slice holds; the others are those of memory (R342, R385). -/
  valid : BitVec 4 := 15
  dirty : BitVec 4 := 0
  poison : BitVec 4 := 0
  wt : Time := 0
  rt : Time := 0
  c : BitVec 2 := 0
  pres : BitVec 6 := 0
  attr : Attr := .leased
  ns : Bool := true
  bias : Bool := false
  /-- The owner of a PRIVATE page. -/
  owner : Nat := 0
  /-- The physical line the fill came from. -/
  pa : Nat := 0
  pins : Nat := 0
  /-- The cycle of its last use (R348). -/
  used : Nat := 0
deriving DecidableEq, Repr, Inhabited

/-- What a request asks (R346, R349). -/
inductive ReqKind where
  /-- A read at time t; `ordered` reads renew at the point of coherence. -/
  | read (t : Time) (lease : Lease) (ordered : Bool)
  /-- Bytes by offset in the line, with the stamp; `wb` for a write-back of a level-one sector. -/
  | write (bytes : List (Nat × Byte)) (stamp : Time) (wb : Option Nat) (poison : Bool)
  /-- Lanes in ascending order on one address; AOP 9 is CAS. -/
  | atomic (off : Nat) (aop : Nat) (ty : Ty) (lanes : List (Nat × Dword × Dword)) (t : Time) (ret : Bool)
  | register
deriving DecidableEq, Repr

/-- What a reply brings (R344). -/
structure Reply where
  ver : Ver := {}
  attr : Attr := .leased
  t : Time := 0
  olds : List (Nat × Dword) := []
  poisoned : Bool := false
  ok : Bool := true
  /-- Its place among the replies sent (R363), and whether a requester-side slice gave it (R346). -/
  at' : Nat := 0
  side : Bool := false
deriving DecidableEq, Repr, Inhabited

/-- A request toward a home slice (R349, R350). -/
structure Req where
  core : Nat
  ref : FRef
  /-- The outstanding instruction it serves, by warp-slot entry. -/
  pend : Option Nat := none
  line : Nat
  ns : Bool
  vi : Nat
  tag : BitVec 16
  kind : ReqKind
  seq : BitVec 8 := 0
  /-- How often it was sent, 0 while it waits for a permit, and when last. -/
  sends : Nat := 1
  sentAt : Nat := 0
  /-- The message on its way, the request or its reply, is lost beyond link replay (R350). -/
  lost : Bool := false
  /-- The operands of an atomic arrive with an uncorrectable error (R363, R385). -/
  bad : Bool := false
  /-- Past the requester-side slice. -/
  fwd : Bool := false
  reply : Option Reply := none
  /-- A PREF or a runahead request: dropped where it is refused (R138, R218). -/
  marked : Bool := false
  /-- The runahead mark (R218). -/
  ra : Bool := false
  /-- The TVAL of a refusal: the lowest lane that named the line, and its address (R141). -/
  tval : Dword := 0
  /-- The reply raises ptime (R236, R240); later accesses of the fibre wait for it. -/
  raise : Bool := false
  hold : Bool := false
deriving DecidableEq, Repr

/-- A registration on a line (R358, R423). -/
inductive Waiter where
  | fibre (r : FRef) (core : Nat)
  | host (head : Nat) (vector : Nat)
deriving DecidableEq, Repr

/-- A service batch (R427). -/
structure Batch where
  ref : FRef
  core : Nat
  slot : Nat
  k : Nat
  fn : BitVec 16
  vi : Nat
  tag : BitVec 16
  task : Nat
  ns : Bool
  active : LaneSet
  args : Map (BitVec 128)
  ia : Nat
  ti : Time
  started : Bool := false
  /-- Accepted by the image of this version. -/
  image : Word := 0
  /-- The service block that serves it, and whether that block has faulted (R429). -/
  server : Option Nat := none
  dead : Bool := false
deriving DecidableEq, Repr, Inhabited

/-- A die (R323, R346, R357, R358, R410, R427). -/
structure Die where
  copies : Map Copy := []
  waits : Map (List Waiter) := []
  /-- Landing slots in use (R357). -/
  landed : Nat := 0
  batches : Map Batch := []
  nextBatch : Nat := 0
  /-- The last core Tamper took in rotation. -/
  rotation : Nat := 31
  /-- The cycle of Tamper's last turn. -/
  turnAt : Nat := 0
deriving DecidableEq, Repr, Inhabited

/-- A leaf entry in a translation cache (R370): the first page of 64 KiB, how many, and the frame. -/
structure Leaf where
  page : Nat
  pages : Nat
  frame : Nat
  attr : Attr
  ns : Bool
  bias : Bool
deriving DecidableEq, Repr, Inhabited

/-- A memory chiplet (R370, R378, R472). -/
structure Chiplet where
  mtime : Time := 0
  ttroot : Dword := 0
  tlb : List Leaf := []
  temp : BitVec 16 := 0
  power : Word := 0
  cecnt : Dword := 0
  uecnt : Dword := 0
  scrubs : Word := 0
  /-- The cycle at which its scrub period began. -/
  scrubAt : Nat := 0
  /-- The last BMAX received, and a report on its way (R379). -/
  seen : Time := 0
  reporting : Bool := false
deriving DecidableEq, Repr, Inhabited

/-- What a translation finds (R369, R371). -/
inductive Walk where
  | ok (l : Leaf)
  | absent
  | malformed
  | transit
deriving DecidableEq, Repr, Inhabited

/-- Where a line has its home (R343, R415, R419): a slice, the bridge, or nowhere. -/
inductive LineHome where
  | slice (attr : Attr) (ns : Bool)
  | bridge (attr : Attr) (ns : Bool)
  | refused (w : Walk)
deriving DecidableEq, Repr, Inhabited

/-- A task record (R387). -/
structure TaskRec where
  code : Dword := 0
  frame : Dword := 0
  joina : Dword := 0
  rset : Dword := 0
  gx : Nat := 1
  gy : Nat := 1
  gz : Nat := 1
  warps : Nat := 1
  csize : Nat := 1
  fli : Nat := 0
  prio : Nat := 0
  tag : BitVec 16 := 0
  vi : Nat := 0
  coop : Bool := false
  cont : Bool := false
  stime : Time := 0
  /-- Byte 43 bit 7, reserved bytes and bits are not all zero. -/
  bad : Bool := false
deriving DecidableEq, Repr, Inhabited

/-- A kernel as its descriptor and layout give it (R388). -/
structure Kernel where
  width : Nat := 32
  c : Nat := 1
  accN : Nat := 0
  shared : Nat := 0
  handler : Option Nat := none
  scratch : Nat := 0
  trap : Option VA := none
  entries : List VA := []
  budgets : List Nat := []
  ras : List Nat := []
deriving DecidableEq, Repr, Inhabited

/-- A task in flight (R392 to R395). -/
structure Task where
  tr : TaskRec
  ker : Kernel := {}
  ranges : List Range := []
  world : Bool := false
  service : Bool := false
  /-- Units handed out so far, in blocks. -/
  next : Nat := 0
  /-- Blocks not freed yet. -/
  live : Nat := 0
  /-- Held for want of residency (R395). -/
  held : Bool := false
  /-- Marked failed: no JOIN follows (R174, R394). -/
  failed : Bool := false
  /-- Ended: no block of it is dispatched any more (R258, R321). -/
  ended : Bool := false
  /-- The largest ptime of freed fibres (R394). -/
  gt : Time := 0
  /-- Pages on which it holds a residency lease. -/
  leases : List Nat := []
  headAt : Nat := 0
  /-- The cycle from which its next unit has been passed over (R392). -/
  passedAt : Option Nat := none
  /-- The IA of its record's queue slot. -/
  slotIa : Nat := 0
  /-- Its place in the order in which records were taken (R392). -/
  takenAt : Nat := 0
deriving DecidableEq, Repr, Inhabited

/-- A queue as read at RUN (R391). -/
structure Queue where
  base : Nat := 0
  cap : Nat := 0
  en : Bool := false
  head : Nat := 0
  tail : Nat := 0
  /-- The cycle its head record reached the head. -/
  headAt : Nat := 0
deriving DecidableEq, Repr, Inhabited

/-- A permission entry (R431). -/
structure Perm where
  kind : BitVec 2 := 0
  any : Bool := false
  vi : BitVec 6 := 0
  tag : BitVec 16 := 0
  dev : Word := 0
  vecs : Dword := 0
deriving DecidableEq, Repr, Inhabited

/-- The binding of a VI's handler (R431, R434): task, block, 4 × warp + fibre. -/
structure Binding where
  task : Nat
  ix : Nat
  iy : Nat
  iz : Nat
  wf : Nat
deriving DecidableEq, Repr, Inhabited

/-- A peer window (R456). -/
structure PeerWin where
  ia : Nat := 0
  gran : Nat := 0
  r : Bool := false
  w : Bool := false
  a : Bool := false
  idev : BitVec 13 := 0
  anyDev : Bool := false
  anyVi : Bool := false
  ivi : BitVec 6 := 0
deriving DecidableEq, Repr, Inhabited

/-- A fault-buffer record kept for merging (R396). -/
structure FbRec where
  ia : Nat
  cause : Nat
  count : Nat
  index : Nat
  since : Nat
deriving DecidableEq, Repr, Inhabited

/-- A virtual interface (R390, R391, R395, R396, R403, R431, R432, R456). -/
structure Vi where
  run : Bool := false
  /-- RUN has been written 1, and what is read as it rises waits for the host (R391, R419, R431). -/
  starting : Bool := false
  fh : Bool := false
  drained : Bool := true
  fbovf : Bool := false
  evovf : Bool := false
  qtbase : Dword := 0
  savebase : Dword := 0
  savecfg : Word := 0
  evbase : Dword := 0
  evcfg : BitVec 5 := 0
  evhead : Word := 0
  evtail : Word := 0
  fbbase : Dword := 0
  fbcfg : BitVec 5 := 0
  fbhead : Word := 0
  fbtail : Word := 0
  drainlim : BitVec 16 := 200
  freezelim : BitVec 16 := 100
  maxprio : BitVec 7 := 127
  age : BitVec 8 := 10
  queues : Map Queue := []
  /-- Save slots in use (R403). -/
  slots : List Nat := []
  /-- Tasks held for residency, by handle (R395). -/
  held : List Nat := []
  recent : List FbRec := []
  batchAt : Option Nat := none
  batchN : Nat := 0
  /-- The cycle a drain began, and the counters of CTXSV that await it (R401, R402). -/
  drainAt : Option Nat := none
  force : Bool := false
  ctxsv : List (FRef × Nat) := []
  served : Nat := 0
  uibase : Dword := 0
  wakeok : Bool := false
  uirefuse : Word := 0
  vecs : Map Vec := []
  perms : Map Perm := []
  bind : Option Binding := none
  /-- Changes not yet written to the interrupt area (R431): 0 the binding, 2v the live part of vector v, 2v + 1 its MASK. -/
  areaDirty : List Nat := []
  /-- Vectors whose WakeUp is due and waits for the host (R419, R437). -/
  wakes : List Nat := []
  fpkey : BitVec 16 := 0
  wins : Map PeerWin := []
  ns : Bool := true
deriving DecidableEq, Repr, Inhabited

/-- A purge under way (R407 to R409). -/
structure Purge where
  vi : Nat
  tag : BitVec 16
  code : Nat
  ia : Nat
  count : Nat
  since : Nat
  /-- Its records in queues have been found (R408). -/
  seen : Bool := false
deriving DecidableEq, Repr, Inhabited

/-- A user-interrupt send on its way to a keeper (R433, R436). -/
structure Send where
  /-- The fibre and uniform predicate that take the answer. -/
  ref : FRef
  q : Nat
  /-- The warp-slot entry that waits for the answer. -/
  pend : Nat
  vi : Nat
  vec : Nat
  payload : Word
  ts : Time
  fromVi : Nat
  tag : BitVec 16
deriving DecidableEq, Repr, Inhabited

/-- A remote reduction on its way (R336). -/
structure RemRed where
  ref : FRef
  blk : Nat
  off : Nat
  aop : Nat
  ty : Ty
  lanes : List (Nat × Dword)
deriving DecidableEq, Repr, Inhabited

/-- An eviction on its way to memory (R348, R378). -/
structure Evict where
  line : Nat
  pa : Nat
  data : BitVec 1024
  dirty : BitVec 4
  poison : BitVec 4
  rt : Time
deriving DecidableEq, Repr, Inhabited

/-- States of a host line in the bridge (R416). -/
inductive HostSt where
  | s | e | m
deriving DecidableEq, Repr, Inhabited

/-- A line the bridge holds (R416). -/
structure HostLine where
  st : HostSt := .s
  data : BitVec 1024 := 0
  wt : Time := 0
  rt : Time := 0
  c : BitVec 2 := 0
  poison : BitVec 4 := 0
  /-- Tags that wrote it since it became M (R425). -/
  tags : List (Nat × BitVec 16) := []
deriving DecidableEq, Repr, Inhabited

/-- The CXL bridge and its registers (R415 to R425, R430). -/
structure Bridge where
  adopten : Bool := false
  releaseReq : Bool := false
  active : Nat := 0
  links : List Bool := [false, false]
  downAt : Nat := 0
  adoptions : BitVec 8 := 0
  hobase : Dword := 0
  bt : Time := 0
  biasPage : Nat := 0
  biasDir : Bool := false
  biasBusy : Bool := false
  biasDone : Bool := false
  biasErr : Bool := false
  cfstage : Dword := 0
  switching : Bool := false
  refused : Bool := false
  image : Word := 0
  lines : Map HostLine := []
  /-- The host-view filter: lines by IA / 128, and those with a BISnpInv awaiting its answer. -/
  filter : List Nat := []
  invPend : List Nat := []
  /-- Lines asked of the host, true for ownership. -/
  asked : Map Bool := []
  /-- MSI-X messages sent to the host, newest first: head and vector. -/
  msix : List (Nat × Nat) := []
  /-- Bytes last read for a host access, with the poison indication. -/
  lastRead : List Byte := []
  lastPoison : Bool := false
  lastCacheable : Bool := false
  adoptForbidden : Bool := false
  /-- Lines that went to the host, newest first. -/
  toHost : List (Nat × BitVec 1024) := []
  handSeq : Dword := 0
deriving DecidableEq, Repr, Inhabited

/-- States of a port (R447). -/
inductive PortSt where
  | down | training | up | failed
deriving DecidableEq, Repr, Inhabited

/-- A port (R446, R447, R453, R457). -/
structure Port where
  st : PortSt := .down
  en : Bool := false
  peer : BitVec 13 := 0
  peerv : Bool := false
  keys : Map (BitVec 16) := []
  dropr : Dword := 0
  dropk : Dword := 0
  drope : Dword := 0
  replays : Dword := 0
  trainAt : Nat := 0
  /-- The replay buffer: flits sent and not acknowledged, and replays of the first in a row. -/
  replay : List Flit := []
  retries : Nat := 0
  /-- The next sequence number to send and to receive. -/
  txSeq : Nat := 0
  rxSeq : Nat := 0
  /-- Credits of each virtual channel, by its code. -/
  credits : Map Nat := []
  /-- Flits negatively acknowledged to the partner, newest first, that no flit has carried yet; and an acknowledgement that is due. -/
  nacks : List Nat := []
  ackDue : Bool := false
  /-- Credits of each virtual channel to be returned to the partner, by its code. -/
  owed : Map Nat := []
  /-- The flit that the partner asks for again. -/
  asked : Option Nat := none
  /-- The port has failed since it was last Up (R454). -/
  lost : Bool := false
deriving DecidableEq, Repr, Inhabited

/-- A routing entry (R457). -/
structure Route where
  cand : BitVec 96 := 0
  esc : BitVec 7 := 0
  v : Bool := false
deriving DecidableEq, Repr, Inhabited

/-- A packet waiting inside the module (R449, R450). -/
structure Transit where
  packet : Packet
  port : Nat
  since : Nat
  escape : Bool := false
  /-- The port it came by; none for a packet of this module. -/
  came : Option Nat := none
  /-- Flits of it that have left (R446). -/
  gone : Nat := 0
deriving DecidableEq, Repr

/-- A packet for this module, the port it came by, and whether its requests have gone to their slices and wait there with a permit each
(R349). -/
structure InMsg where
  port : Option Nat
  packet : Packet
  sent : Bool := false
deriving DecidableEq, Repr

/-- What an outstanding fabric request serves (R452). -/
inductive FabKind where
  | pcpy (core cmd : Nat)
  | mcast (core cmd : Nat) (addr : Nat)
  /-- A word of PATOM and its lanes; spoilt where the reply of another word was poisoned (R461). -/
  | patom (r : FRef) (pend : Nat) (lanes : List Nat) (off : Nat) (spoilt : Bool)
  | pnotify (r : FRef) (q pend : Nat)
deriving DecidableEq, Repr

/-- An outstanding fabric request (R452). -/
structure FabReq where
  packet : Packet
  kind : FabKind
  vi : Nat
  tag : BitVec 16
  /-- How often it was sent; 0 while the source holds it back (R451). -/
  sends : Nat := 1
  sentAt : Nat := 0
  /-- Sent before the path of its pair changed, and not acknowledged or reissued since (R451). -/
  old : Bool := false
deriving DecidableEq, Repr

/-- The fabric (R446 to R462). -/
structure Fabric where
  devid : BitVec 13 := 0
  assigned : Bool := false
  ports : Map Port := []
  mgrs : Map (BitVec 13 × Bool) := []
  routes : Map Route := []
  ft : Time := 0
  transit : Map Transit := []
  nextT : Nat := 0
  reqs : Map FabReq := []
  nextReq : Nat := 0
  seq : BitVec 16 := 0
  /-- New class-O packets of this module that a changed path holds back, or an earlier notice, in order (R451, R460). -/
  heldBack : List Packet := []
  /-- Completed requests of each source, with the VI and the body of their replies; the last 1,024 are kept. -/
  doneRecs : List (Nat × Nat × BitVec 16 × Nat × PktBody) := []
  /-- Packets that left by a port, newest first. -/
  sent : List (Nat × Packet) := []
  /-- Packets that flits brought in, with their port; and packets for this module, with the port they came by. -/
  arrivals : Map (Nat × Packet) := []
  inbox : Map InMsg := []
deriving DecidableEq, Repr, Inhabited

/-- A RECALL in the sequencer (R374), or a bias flip counted as one (R420). -/
structure Recall where
  ref : FRef
  k : Nat
  base : Nat
  count : Nat
  toMem : Bool
  /-- The attribute to write; none keeps it. -/
  attr : Option Attr
  owner : Nat
  bias : Option Bool := none
  /-- Granules of the range dealt with; of the page after them, the cores that have made their step once its entry and homes have
  (R375); and the largest w returned. -/
  done : Nat := 0
  begun : Option (List Nat) := none
  kt : Time := 0
deriving DecidableEq, Repr, Inhabited

/-- Boot and configuration (R463 to R468). -/
structure Boot where
  step : Nat := 0
  err : Bool := false
  nolive : Bool := false
  cfbad : Bool := false
  ready : Bool := false
  detail : BitVec 16 := 0
  dies : BitVec 6 := 0
  chiplets : BitVec 8 := 0
  slices : Map (BitVec 16) := []
  coreMask : Map (BitVec 33) := []
  tamperS : Nat := 60
  scrubH : Nat := 24
  viCount : Nat := 64
  cap : Nat := 3400
  offered : BitVec 256 := 1
  featacc : BitVec 256 := 1
  /-- The non-volatile store as step 1 found it (R463, R465). -/
  store : BootStore := {}
deriving DecidableEq, Repr, Inhabited

/-- An attestation report (R467). -/
structure Report where
  nonce : BitVec 128
  image : BitVec 384
  records : List (BitVec 384)
  ed : BitVec 512
  ml : BitVec 26472
deriving DecidableEq, Repr, Inhabited

/-- What moves next (log 1): a path issues, an event happens, or cycles pass. `late` defers an instruction's result
to an INSTRUCTION_COMPLETION. -/
inductive Move where
  | issue (ref : FRef) (pc : VA) (late : Bool)
  | event (i : Instr) (arg : EvArg)
  | pass (n : Nat)
deriving DecidableEq, Repr

/-- The path that issues (log 1). -/
structure Cur where
  ref : FRef := ⟨0, 0, 0⟩
  pc : VA := 0
  late : Bool := false
deriving DecidableEq, Repr, Inhabited

/-- The machine. -/
structure State where
  blocks : Map Block := []
  nextBlk : Nat := 0
  cores : Map Core := []
  dies : Map Die := []
  chiplets : Map Chiplet := []
  /-- Package memory by PA, and its poisoned sectors by PA / 32. -/
  mem : Memory := []
  memPoison : List Nat := []
  /-- Home copies by IA / 128. -/
  homes : Map Home := []
  /-- Owners of PRIVATE pages, as the homes' records of pages hold them (R369). -/
  owners : Map Nat := []
  evicts : Map Evict := []
  nextEv : Nat := 0
  reqs : Map Req := []
  nextReq : Nat := 0
  /-- Replies sent so far, which orders them (R363). -/
  nextReply : Nat := 0
  /-- Sequence numbers by requester × 128 + slice (R350); the record Done keeps of a request is its `reply`. -/
  seqs : Map (BitVec 8) := []
  /-- Writes of the device itself that wait for the host: address, bytes, stamp, poison, VI and tag. -/
  devq : List (Nat × List Byte × Time × Bool × Nat × BitVec 16) := []
  h : Time := Config.horizon
  epoch : Dword := 0
  bmax : Time := Config.horizon
  /-- A horizon step is requested; the dies and chiplets that have swept for it. -/
  stepReq : Bool := false
  swept : List Nat := []
  recalls : List Recall := []
  /-- Cluster barrier sets by cluster and device records by grid (R323, R315). -/
  cbars : Map Bar := []
  dbars : Map Bar := []
  remreds : Map RemRed := []
  nextRem : Nat := 0
  /-- Notices sent and not yet accepted (R354). -/
  notices : Map Posted := []
  nextNotice : Nat := 0
  sends : Map Send := []
  nextSend : Nat := 0
  vis : Map Vi := []
  tasks : Map Task := []
  nextTask : Nat := 1
  /-- Continuations held for want of room in their queue (R400): VI, tag, record, and whether a service block made it (R389). -/
  overflow : List (Nat × BitVec 16 × List Byte × Bool) := []
  /-- Records in queues, by slot IA, that a purge of their tag found there and counted; they are skipped (R408). -/
  doomed : List (Nat × BitVec 16) := []
  /-- Slices reported unreachable to Carafe, newest first (R350). -/
  unreachable : List (Nat × Nat) := []
  /-- Queue slots, by IA, whose record came from a service block (R389). -/
  serviceSlots : List Nat := []
  purges : List Purge := []
  servedN : Nat := 0
  /-- The task whose unit has been passed over for 1 ms (R392). -/
  bypass : Option Nat := none
  nextOrder : Nat := 0
  bridge : Bridge := {}
  fabric : Fabric := {}
  boot : Boot := {}
  /-- Attestation reports, by the number that is their handle (R467). -/
  reports : Map Report := []
  stopped : Bool := false
  /-- Steps of 50 MHz below 700 MHz (R472, R476). -/
  throttle : Nat := 0
  cur : Cur := {}
  arg : EvArg := {}
  agenda : List Move := []
  turn : Nat := 0
  now : Nat := 0
  /-- The counter of free values (log 6). -/
  free : Nat := 0
deriving DecidableEq, Repr

/-- Why the machine stops. -/
inductive Fault where
  /-- Raised by every step after THERMAL_STOP: at 115 °C the module stops (R476). Safe. -/
  | moduleStopped
deriving DecidableEq, Repr

/-- Why a step has no meaning in the model. -/
inductive Refusal where
  /-- An instruction whose meaning is not written yet. Safe. -/
  | notModelled (mnemonic : String)
deriving DecidableEq, Repr

/-- The machine right after reset (R383): the horizon, BT, FT, BMAX and every chiplet's mtime at H, no cache line
valid, nothing booted. -/
def State.reset : State :=
  { bridge := { bt := Config.horizon }
    fabric := { ft := Config.horizon }
    chiplets := [6, 7, 8, 9, 10, 11, 12, 13].map (fun c => (c, { mtime := Config.horizon, seen := Config.horizon })) }

end Sys2Proof.Machine
end

