-- ==== Sys2Proof/Machine/Store.lean ====
section
/-!
DEFINITION. Memory as pairs of address and byte in one canonical form, sets of numbers, lines of 128 bytes, and the
comparison of times (R6, R223, R380).
-/

namespace Sys2Proof.Machine

/-- The byte at an address; zero where nothing is listed (log 4). -/
def Memory.read (m : Memory) (a : Nat) : Byte :=
  match m with
  | [] => 0
  | (i, b) :: rest => if i = a then b else Memory.read rest a

/-- The memory with a byte that is not zero put at `a`, the addresses rising. -/
def Memory.insert (m : Memory) (a : Nat) (b : Byte) : Memory :=
  match m with
  | [] => [(a, b)]
  | (i, c) :: rest =>
    if a < i then (a, b) :: (i, c) :: rest
    else if a = i then (a, b) :: rest
    else (i, c) :: Memory.insert rest a b

/-- The memory with byte `b` at `a`, in canonical form: a zero byte is not listed. -/
def Memory.write (m : Memory) (a : Nat) (b : Byte) : Memory :=
  if b = 0 then m.filter (fun c => c.1 ≠ a) else m.insert a b

/-- Are the addresses above `lo` (strictly rising) and no byte zero? -/
def Memory.wfFrom (lo : Nat) (m : Memory) : Bool :=
  match m with
  | [] => true
  | (i, b) :: rest => decide (lo ≤ i) && b != 0 && Memory.wfFrom (i + 1) rest

/-- The canonical form: addresses strictly rising, no zero byte listed. -/
def Memory.wf (m : Memory) : Bool := Memory.wfFrom 0 m

/-- `n` bytes from `a` up. -/
def Memory.bytes (m : Memory) (a n : Nat) : List Byte := (List.range n).map (fun i => m.read (a + i))

/-- Writes bytes from `a` up. -/
def Memory.writes (m : Memory) (a : Nat) (bs : List Byte) : Memory :=
  match bs with
  | [] => m
  | b :: rest => Memory.writes (m.write a b) (a + 1) rest

/-- The 32-bit word at `a`, little-endian (R6). -/
def Memory.word (m : Memory) (a : Nat) : Word :=
  (m.read (a + 3)) ++ (m.read (a + 2)) ++ (m.read (a + 1)) ++ (m.read a)

/-- The four bytes of a word, little-endian. -/
def wordBytes (v : Word) : List Byte :=
  [v.extractLsb' 0 8, v.extractLsb' 8 8, v.extractLsb' 16 8, v.extractLsb' 24 8]

/-- Writes a 32-bit word at `a`. -/
def Memory.writeWord (m : Memory) (a : Nat) (v : Word) : Memory := m.writes a (wordBytes v)

/-- Clears a range of addresses. -/
def Memory.clear (m : Memory) (a n : Nat) : Memory := m.filter (fun c => !(decide (a ≤ c.1) && decide (c.1 < a + n)))

/-- A set of numbers with `k` in it. -/
def setAdd (l : List Nat) (k : Nat) : List Nat := if l.contains k then l else k :: l
/-- A set of numbers without `k`. -/
def setDel (l : List Nat) (k : Nat) : List Nat := l.filter (· ≠ k)

/-- The byte at an offset of a line. -/
def lineByte (d : BitVec 1024) (i : Nat) : Byte := d.extractLsb' (8 * i) 8
/-- A line with one byte changed. -/
def lineSet (d : BitVec 1024) (i : Nat) (b : Byte) : BitVec 1024 :=
  (d &&& ~~~((0xFF#1024) <<< (8 * i))) ||| ((b.setWidth 1024) <<< (8 * i))
/-- A line with bytes at offsets changed, in order. -/
def lineMerge (d : BitVec 1024) (bs : List (Nat × Byte)) : BitVec 1024 :=
  bs.foldl (fun d e => lineSet d e.1 e.2) d
/-- `n` bytes of a line from an offset, as a number (R6). -/
def lineNat (d : BitVec 1024) (i n : Nat) : Nat := d.toNat / 2 ^ (8 * i) % 2 ^ (8 * n)
/-- The bytes of a line. -/
def lineBytes (d : BitVec 1024) : List Byte := (List.range 128).map (lineByte d)
/-- A line from its bytes. -/
def lineOf (bs : List Byte) : BitVec 1024 := BitVec.ofNat 1024 (leNat bs)

/-- `a` precedes `b` (R380). -/
def precedes (a b : Time) : Bool := b - a != 0 && (b - a).toNat < 2 ^ 62
/-- The later of two times. -/
def tmax (a b : Time) : Time := if precedes a b then b else a
/-- `a` is not later than `b`. -/
def tle (a b : Time) : Bool := !precedes b a
/-- Does the interval of a version hold the time? -/
def within (wt t rt : Time) : Bool := tle wt t && tle t rt

/-- Lanes 0 to n − 1. -/
def lanesUpTo (n : Nat) : List Nat := List.range n
/-- The lanes of a set, ascending. -/
def lanesOf (s : LaneSet) : List Nat := (List.range 64).filter (fun i => s.getLsbD i)
/-- The set of some lanes. -/
def laneSet (l : List Nat) : LaneSet := l.foldl (fun s i => s ||| (1#64 <<< i)) 0
/-- The lane set of one lane. -/
def oneLane (i : Nat) : LaneSet := 1#64 <<< i

/-- Saturating addition on a counter of 64 bits (R457, R472). -/
def satInc (x : Dword) (n : Nat) : Dword := if x.toNat + n < 2 ^ 64 then x + BitVec.ofNat 64 n else BitVec.allOnes 64

end Sys2Proof.Machine
end

