-- ==== Sys2Proof/Machine/Access.lean ====
section
/-!
DEFINITION. Where the parts of the state are found and changed: cores, dies, chiplets, blocks, warps, fibres,
virtual interfaces, and the sets of live parts (R2, R4, R366, R464).
-/

namespace Sys2Proof.Machine

/-- A core. -/
def State.core (s : State) (c : Nat) : Core := s.cores.get c {}
/-- The state with a core replaced. -/
def State.setCore (s : State) (c : Nat) (x : Core) : State := { s with cores := s.cores.set c x }
/-- The state with a core changed. -/
def State.modCore (s : State) (c : Nat) (g : Core → Core) : State := s.setCore c (g (s.core c))
/-- A die by socket. -/
def State.die (s : State) (d : Nat) : Die := s.dies.get d {}
/-- The state with a die changed. -/
def State.modDie (s : State) (d : Nat) (g : Die → Die) : State := { s with dies := s.dies.set d (g (s.die d)) }
/-- A chiplet by socket. -/
def State.chiplet (s : State) (c : Nat) : Chiplet := s.chiplets.get c {}
/-- The state with a chiplet changed. -/
def State.modChiplet (s : State) (c : Nat) (g : Chiplet → Chiplet) : State :=
  { s with chiplets := s.chiplets.set c (g (s.chiplet c)) }
/-- A virtual interface. -/
def State.vi (s : State) (v : Nat) : Vi := s.vis.get v {}
/-- The state with a virtual interface changed. -/
def State.modVi (s : State) (v : Nat) (g : Vi → Vi) : State := { s with vis := s.vis.set v (g (s.vi v)) }
/-- A block. -/
def State.block (s : State) (b : Nat) : Block := s.blocks.get b {}
/-- The state with a block replaced. -/
def State.setBlock (s : State) (b : Nat) (x : Block) : State := { s with blocks := s.blocks.set b x }
/-- The state with a block changed; one that is gone stays so. -/
def State.modBlock (s : State) (b : Nat) (g : Block → Block) : State :=
  match s.blocks.find b with
  | some x => s.setBlock b (g x)
  | none => s
/-- A warp of a block. -/
def State.warp (s : State) (b w : Nat) : Warp := (s.block b).warps.getD w {}
/-- The state with a warp changed. -/
def State.modWarp (s : State) (b w : Nat) (g : Warp → Warp) : State :=
  s.modBlock b (fun x => { x with warps := x.warps.modify w g })
/-- A fibre. -/
def State.fib (s : State) (r : FRef) : Fibre := (s.warp r.blk r.warp).fibs.getD r.fib {}
/-- Is the warp there? -/
def State.hasWarp (s : State) (b w : Nat) : Bool := (s.blocks.find b).isSome && decide (w < (s.block b).warps.length)
/-- Is the fibre there? -/
def State.hasFib (s : State) (r : FRef) : Bool :=
  s.hasWarp r.blk r.warp && decide (r.fib < (s.warp r.blk r.warp).fibs.length)
/-- The state with a fibre changed. -/
def State.modFib (s : State) (r : FRef) (g : Fibre → Fibre) : State :=
  s.modWarp r.blk r.warp (fun w => { w with fibs := w.fibs.modify r.fib g })

/-- The fibres of a block, by warp and fibre. -/
def Block.refs (b : Block) (n : Nat) : List FRef :=
  (List.range b.warps.length).flatMap (fun w => (List.range b.budgets.length).map (fun f => ⟨n, w, f⟩))

/-- Fibres of the layout. -/
def Block.nf (b : Block) : Nat := b.budgets.length
/-- T of R145. -/
def Block.trapRegs (b : Block) : Nat := if b.trapEntry.isSome then 16 * b.nf else 0
/-- P of R145: registers of each lane. -/
def Block.p (b : Block) : Nat := b.budgets.sum + b.shared + b.trapRegs
/-- Bytes of a warp's registers (R225). -/
def Block.warpBytes (b : Block) : Nat := 4 * b.width * b.p
/-- The register span of the block (R225). -/
def Block.rspan (b : Block) : Nat := b.warps.length * b.warpBytes
/-- A change of every fibre of a block. -/
def Block.mapFibs (b : Block) (g : Fibre → Fibre) : Block :=
  { b with warps := b.warps.map (fun w => { w with fibs := w.fibs.map g }) }

/-- The store offset of register `i` (a window index) of a lane of a warp (R225). -/
def Block.regOff (b : Block) (w i l : Nat) : Nat := b.rbase + w * b.warpBytes + i * (4 * b.width) + 4 * l
/-- The window index of fibre `f`'s private register 0 (R225). -/
def Block.privBase (b : Block) (f : Nat) : Nat := (b.budgets.take f).sum
/-- The window index of h0. -/
def Block.sharedBase (b : Block) : Nat := b.budgets.sum
/-- The window index of fibre `f`'s trap-window register 0. -/
def Block.trapBase (b : Block) (f : Nat) : Nat := b.budgets.sum + b.shared + 16 * f
/-- Every lane of the warp. -/
def Block.allLanes (b : Block) : LaneSet := laneSet (List.range b.width)
/-- The socket of a block's core. -/
def Block.socket (b : Block) : Nat := b.core / 33
/-- Accumulator bytes of the block (R125). -/
def Block.accBytes (b : Block) : Nat := Config.accBank * b.banks.length

/-- A lane of a fibre. -/
def Fibre.lane (f : Fibre) (l : Nat) : Lane := f.lanes.getD l {}
/-- A fibre with a lane changed. -/
def Fibre.modLane (f : Fibre) (l : Nat) (g : Lane → Lane) : Fibre := { f with lanes := f.lanes.modify l g }
/-- A fibre with every lane of a set changed. -/
def Fibre.modLanes (f : Fibre) (ls : LaneSet) (g : Nat → Lane → Lane) : Fibre :=
  { f with lanes := f.lanes.mapIdx (fun i x => if ls.getLsbD i then g i x else x) }
/-- The lanes with a property. -/
def Fibre.lanesWith (f : Fibre) (g : Lane → Bool) : LaneSet :=
  laneSet ((List.range f.lanes.length).filter (fun i => g (f.lane i)))
/-- May the lane belong to a path now: not exited, not parked, and in trap mode among the handler's (R147, R164). -/
def Fibre.runs (f : Fibre) (l : Lane) : Bool := !l.exited && l.park.isNone && (!f.trap || l.handler)
/-- The path at a PC (R147). -/
def Fibre.path (f : Fibre) (pc : VA) : LaneSet := f.lanesWith (fun l => f.runs l && l.pc == pc)
/-- The PCs of the fibre's paths, by lowest lane. -/
def Fibre.pcs (f : Fibre) : List VA := ((f.lanes.filter f.runs).map Lane.pc).eraseDups
/-- Has every lane exited? (R153) -/
def Fibre.allExited (f : Fibre) : Bool := f.lanes.all Lane.exited
/-- A completion counter. -/
def Fibre.ctr (f : Fibre) (k : Nat) : Ctr := f.k.get k {}
/-- A fibre with a counter changed. -/
def Fibre.modCtr (f : Fibre) (k : Nat) (g : Ctr → Ctr) : Fibre := { f with k := f.k.set k (g (f.ctr k)) }
/-- A rejoin mask. -/
def Fibre.mask (f : Fibre) (j : Nat) : Mask := f.j.get j {}
/-- A uniform register (R146). -/
def Fibre.ureg (f : Fibre) (n : Nat) : Word := f.s.get n 0
/-- A uniform predicate; 15 is qt. -/
def Fibre.upred (f : Fibre) (n : Nat) : Bool := n = 15 || f.q.getLsbD n
/-- A lane predicate; 15 is pt (R14). -/
def Lane.pred (l : Lane) (n : Nat) : Bool := n = 15 || l.preds.getLsbD n
/-- A bit of a vector changed. -/
def setBit {w : Nat} (x : BitVec w) (i : Nat) (b : Bool) : BitVec w :=
  if b then x ||| (BitVec.ofNat w 1 <<< i) else x &&& ~~~(BitVec.ofNat w 1 <<< i)

/-- Live compute dies, ascending (R464). -/
def State.liveDies (s : State) : List Nat := (List.range 6).filter (fun d => s.boot.dies.getLsbD d)
/-- Live chiplets by socket, ascending (R365). -/
def State.liveChiplets (s : State) : List Nat := ((List.range 8).filter (fun c => s.boot.chiplets.getLsbD c)).map (· + 6)
/-- Live slices as (socket, slice), the socket varying fastest (R366). -/
def State.liveSlices (s : State) : List (Nat × Nat) :=
  (List.range 16).flatMap (fun i => (s.liveDies.filter (fun d => (s.boot.slices.get d 0).getLsbD i)).map (fun d => (d, i)))
/-- Is the core live? `c` is 33 × socket + number. -/
def State.coreLive (s : State) (c : Nat) : Bool :=
  s.boot.dies.getLsbD (c / 33) && decide (c / 33 < 6) && (s.boot.coreMask.get (c / 33) 0).getLsbD (c % 33)
/-- May Grinder use the core? (R410 to R412) -/
def State.coreOpen (s : State) (c : Nat) : Bool := s.coreLive c && decide ((s.core c).tamper = .inService)
/-- Live user cores. -/
def State.userCores (s : State) : List Nat :=
  s.liveDies.flatMap (fun d => ((List.range 32).map (fun i => 33 * d + i)).filter s.coreLive)

/-- Package time in ns since reset, at 700 core cycles a microsecond (R7, R413, log 2). -/
def State.ns (s : State) : Dword := BitVec.ofNat 64 (s.now * 1000 / Config.cyclesPerUs)
/-- Core cycles in `n` microseconds. -/
def us (n : Nat) : Nat := n * Config.cyclesPerUs

/-- The next free value's number, and the state that has moved past it (log 6). -/
def State.fresh (s : State) : Nat × State := (s.free, { s with free := s.free + 1 })

/-- Is a feature offered to the block? Service blocks run under FEATOFF, others under FEATACC (R468). -/
def State.feature (s : State) (service : Bool) (bit : Nat) : Bool :=
  if service then s.boot.offered.getLsbD bit else s.boot.featacc.getLsbD bit

end Sys2Proof.Machine
end

