-- ==== Sys2Proof/Machine/Coherence.lean ====
section
/-!
DEFINITION. Global memory and its homes: buckets and folds, the page walk, fills, versions and times, the
operations of a home slice and of the bridge as a home, and wakes (R230, R240, R342 to R347, R358, R364 to R371,
R378, R380, R386, R415 to R419).
-/

namespace Sys2Proof.Machine

/-- Bucket of R343. -/
def bucket (ia : Nat) : Nat :=
  (bitsOf ia 7 10) ^^^ (bitsOf ia 17 10) ^^^ (bitsOf ia 27 10) ^^^ (bitsOf ia 37 10) ^^^ (bitsOf ia 47 5)

/-- The identity window (R364). -/
def isIdentity (ia : Nat) : Bool := bitsOf ia 44 8 = 0xFE
/-- The on-chip map (R129). -/
def isMapIa (ia : Nat) : Bool := bitsOf ia 44 8 = 0xFF
/-- The host window (R415). -/
def isHostWindow (ia : Nat) : Bool := bitsOf ia 49 3 = 6
/-- The IA of a PA in the identity window. -/
def identityIa (pa : Nat) : Nat := 0xFE * 2 ^ 44 + pa % 2 ^ 44

/-- Home of R343 and R366: socket and slice. -/
def State.home (s : State) (ia : Nat) : Nat × Nat :=
  let l := s.liveSlices
  l.getD (if l.length = 0 then 0 else bucket ia % l.length) (0, 0)

/-- The chiplet that holds an address, by its memory bucket (R365); the IA and the PA share bits 17:0. -/
def State.chipletOf (s : State) (addr : Nat) : Nat :=
  let l := s.liveChiplets
  l.getD (if l.length = 0 then 0 else bitsOf addr 8 10 % l.length) 6

/-- G of R365: the groups of 256 KiB that fit a stack of 64 × 10^9 bytes. -/
def State.groups (s : State) : Nat :=
  let n := s.liveChiplets.length
  if n = 0 then 0 else 64000000000 / ((1024 + n - 1) / n * 256)

/-- A home copy with the sectors it does not hold fetched from memory (R342, R385). -/
def State.whole (s : State) (h : Home) : Home :=
  if h.valid = 15 then h
  else
    let gone := (List.range 4).filter (fun k => !h.valid.getLsbD k)
    { h with
      data := lineMerge h.data (gone.flatMap (fun k => (List.range 32).map (fun i => (32 * k + i, s.mem.read (h.pa + 32 * k + i)))))
      poison := gone.foldl (fun (p : BitVec 4) k => if s.memPoison.contains (h.pa / 32 + k) then p ||| BitVec.ofNat 4 (2 ^ k) else p &&& ~~~BitVec.ofNat 4 (2 ^ k)) h.poison
      valid := 15 }

/-- The eviction on its way to memory that holds a byte of a line (R348). -/
def State.leaving (s : State) (line off : Nat) : Option Evict :=
  (s.evicts.find? (fun e => e.2.line = line && e.2.dirty.getLsbD (off / 32))).map Prod.snd

/-- A byte of package memory by PA, as the home of its identity-window line holds it, or an eviction of that line on its way,
or memory (R364, R370). -/
def State.paByte (s : State) (pa : Nat) : Byte :=
  match s.homes.find (identityIa pa / 128) with
  | some h => lineByte (s.whole h).data (pa % 128)
  | none => match s.leaving (identityIa pa / 128) (pa % 128) with
    | some e => lineByte e.data (pa % 128)
    | none => s.mem.read pa

/-- Is the byte at a PA poisoned? -/
def State.paPoison (s : State) (pa : Nat) : Bool :=
  match s.homes.find (identityIa pa / 128) with
  | some h => (s.whole h).poison.getLsbD (pa % 128 / 32)
  | none => match s.leaving (identityIa pa / 128) (pa % 128) with
    | some e => e.poison.getLsbD (pa % 128 / 32)
    | none => s.memPoison.contains (pa / 32)

/-- A 64-bit entry of the page table (R369). -/
def State.pte (s : State) (pa : Nat) : Nat := leNat ((List.range 8).map (fun i => s.paByte (pa + i)))

/-- A code of ATTR (R369). -/
def attrOfCode (n : Nat) : Option Attr :=
  match n with
  | 0 => some .leased | 1 => some .manual | 2 => some .priv | _ => none
/-- The code of an attribute. -/
def Attr.code (a : Attr) : Nat :=
  match a with
  | .leased => 0 | .manual => 1 | .priv => 2

/-- A leaf entry checked and read (R369); `lvl` 1 to 3. -/
def State.leafOf (s : State) (e lvl ia : Nat) : Walk :=
  let frame := bitsOf e 32 28
  let pages := if lvl = 1 then 16384 else if lvl = 2 then 32 else 1
  let align := if lvl = 3 then frame % 4 = bitsOf ia 16 2 else frame % pages = 0
  match attrOfCode (bitsOf e 2 2) with
  | none => .malformed
  | some attr =>
    if bitsOf e 60 4 ≠ 0 || bitsOf e 9 7 ≠ 0 || bitsOf e 4 1 ≠ 0 || !align ||
        decide (2 ^ 18 * s.groups ≤ frame * 2 ^ 16) then .malformed
    else if bitsOf e 8 1 = 1 then .transit
    else .ok { page := ia / 2 ^ 16 / pages * pages, pages := pages, frame := frame, attr := attr,
               ns := bitsOf e 5 1 = 1, bias := bitsOf e 7 1 = 1 }

/-- The levels of a walk, from the table at `base` (R368, R369). -/
def State.walkGo (s : State) (ia : Nat) (fuel lvl base : Nat) : Walk :=
  match fuel with
  | 0 => .malformed
  | n + 1 =>
    let idx := if lvl = 0 then bitsOf ia 39 13 else if lvl = 1 then bitsOf ia 30 9
      else if lvl = 2 then bitsOf ia 21 9 else bitsOf ia 16 5
    let pa := base + 8 * idx
    let e := s.pte pa
    if (List.range 8).any (fun i => s.paPoison (pa + i)) then .malformed
    else if e % 2 = 0 then .absent
    else if e / 2 % 2 = 1 then (if lvl = 0 then .malformed else s.leafOf e lvl ia)
    else if lvl = 3 || bitsOf e 44 20 ≠ 0 || bitsOf e 2 6 ≠ 0 then .malformed
    else
      let next := bitsOf e 8 36 * 256
      if lvl < 2 && next % 4096 ≠ 0 then .malformed else s.walkGo ia n (lvl + 1) next

/-- The page walk (R368 to R371, R471). -/
def State.walk (s : State) (ia : Nat) : Walk :=
  let root := (s.chiplet (s.chipletOf ia)).ttroot.toNat
  if root % 2 = 0 then .absent else s.walkGo ia 4 0 (bitsOf root 16 28 * 2 ^ 16)

/-- The PAs of the entries that a walk reads (R369, R370). -/
def State.walkPath (s : State) (ia fuel lvl base : Nat) : List Nat :=
  match fuel with
  | 0 => []
  | n + 1 =>
    let idx := if lvl = 0 then bitsOf ia 39 13 else if lvl = 1 then bitsOf ia 30 9
      else if lvl = 2 then bitsOf ia 21 9 else bitsOf ia 16 5
    let pa := base + 8 * idx
    let e := s.pte pa
    let next := bitsOf e 8 36 * 256
    if (List.range 8).any (fun i => s.paPoison (pa + i)) || e % 2 = 0 || e / 2 % 2 = 1 || lvl = 3 || bitsOf e 44 20 ≠ 0 ||
        bitsOf e 2 6 ≠ 0 || (decide (lvl < 2) && next % 4096 ≠ 0) then [pa]
    else pa :: s.walkPath ia n (lvl + 1) next

/-- A valid leaf entry, in transit or not: its PA, the first page of 64 KiB it maps, how many, and the frame (R368, R369, R374). -/
structure LeafSpan where
  pa : Nat
  page : Nat
  pages : Nat
  frame : Nat
deriving DecidableEq, Repr

/-- The leaf of an address, whether in transit or not. -/
def State.leafGo (s : State) (ia fuel lvl base : Nat) : Option LeafSpan :=
  match fuel with
  | 0 => none
  | n + 1 =>
    let idx := if lvl = 0 then bitsOf ia 39 13 else if lvl = 1 then bitsOf ia 30 9 else if lvl = 2 then bitsOf ia 21 9 else bitsOf ia 16 5
    let pa := base + 8 * idx
    let e := s.pte pa
    if e % 2 = 0 then none
    else if e / 2 % 2 = 1 then
      (if lvl = 0 || s.leafOf e lvl ia == .malformed then none
       else
        let n := if lvl = 1 then 16384 else if lvl = 2 then 32 else 1
        some { pa := pa, page := ia / 65536 / n * n, pages := n, frame := bitsOf e 32 28 })
    else s.leafGo ia n (lvl + 1) (bitsOf e 8 36 * 256)
/-- The same from the root. -/
def State.leafSpan (s : State) (ia : Nat) : Option LeafSpan :=
  let root := (s.chiplet (s.chipletOf ia)).ttroot.toNat
  if root % 2 = 0 then none else s.leafGo ia 4 0 (bitsOf root 16 28 * 2 ^ 16)

/-- Does a leaf map the line? -/
def LeafSpan.has (l : LeafSpan) (line : Nat) : Bool := decide (l.page ≤ line / 512) && decide (line / 512 < l.page + l.pages)

/-- Does a cached entry cover the address? -/
def Leaf.covers (l : Leaf) (ia : Nat) : Bool := decide (l.page ≤ ia / 2 ^ 16) && decide (ia / 2 ^ 16 < l.page + l.pages)

/-- Translation through the chiplet's cache, else by a walk (R370). -/
def State.translate (s : State) (ia : Nat) : Walk :=
  match (s.chiplet (s.chipletOf ia)).tlb.find? (fun l => l.covers ia) with
  | some l => .ok l
  | none => s.walk ia

/-- The PA of an IA under a leaf entry (R370). -/
def Leaf.pa (l : Leaf) (ia : Nat) : Nat := l.frame * 2 ^ 16 + (ia - l.page * 2 ^ 16)

/-- Where a line has its home (R343, R364, R415, R419); `line` is IA / 128. -/
def State.lineHome (s : State) (line : Nat) : LineHome :=
  let ia := line * 128
  if isIdentity ia then (if ia % 2 ^ 44 / 2 ^ 18 < s.groups then .slice .manual false else .refused .absent)
  else if isHostWindow ia then .bridge .leased true
  else match s.homes.find line with
    | some h => .slice h.attr h.ns
    | none => match s.translate ia with
      | .ok l => if l.bias then .bridge l.attr l.ns else .slice l.attr l.ns
      | w => .refused w

/-- Writes the dirty sectors of an evicted line to memory and raises the chiplet's mtime (R348, R378, R386). -/
def State.landEvict (s : State) (e : Evict) : State :=
  let secs := (List.range 4).filter (fun k => e.dirty.getLsbD k)
  let mem := secs.foldl (fun m k => m.writes (e.pa + 32 * k) ((List.range 32).map (fun i => lineByte e.data (32 * k + i)))) s.mem
  let pois := secs.foldl (fun p k => if e.poison.getLsbD k then setAdd p ((e.pa + 32 * k) / 32) else setDel p ((e.pa + 32 * k) / 32)) s.memPoison
  let s := { s with mem := mem, memPoison := pois }
  s.modChiplet (s.chipletOf e.pa) (fun c => { c with mtime := tmax c.mtime e.rt })

/-- A broadcast of BMAX (R379). -/
def State.broadcast (s : State) : State :=
  { s with chiplets := s.chiplets.mapVal (fun _ c => { c with seen := s.bmax, mtime := tmax c.mtime (s.bmax - 0x80000) }) }
/-- Would the chiplet's mtime rise past the last BMAX it received plus 2^19 (R379)? -/
def State.mustReport (s : State) (e : Evict) : Bool :=
  !tle e.rt ((s.chiplet (s.chipletOf e.pa)).seen + 0x80000)

/-- Lands every eviction of a line that is still on its way, after the chiplet's report where one is due. -/
def State.landLine (s : State) (line : Nat) : State :=
  let mine := s.evicts.filter (fun e => e.2.line = line)
  let s := mine.foldl (fun s e =>
    let s := if s.mustReport e.2 then { s with bmax := tmax s.bmax e.2.rt }.broadcast else s
    s.landEvict e.2) s
  { s with evicts := s.evicts.filter (fun e => e.2.line ≠ line) }

/-! Sets and victims of a slice -/

/-- The slice of a die that a line of another die's homes passes through (R346). -/
def sideSlice (d line : Nat) : Nat × Nat := (d, bucket (line * 128) % 16)
/-- Lines that a slice holds in the set of a line, beside it: home copies and requester-side copies (R342). -/
def State.setMates (s : State) (x : Nat × Nat) (line : Nat) : List (Nat × Home) × List (Nat × Copy) :=
  let same (l : Nat) : Bool := l != line && Config.l2Set l % Config.l2Sets == Config.l2Set line % Config.l2Sets
  (s.homes.filter (fun e => s.home (e.1 * 128) == x && same e.1), (s.die x.1).copies.filter (fun e => sideSlice x.1 e.1 == x && same e.1))
/-- Are all ways of a line's set taken by other lines (R342)? -/
def State.setFull (s : State) (x : Nat × Nat) (line : Nat) : Bool :=
  decide (Config.l2Ways ≤ s.homes.length + (s.die x.1).copies.length) &&
  (let m := s.setMates x line; decide (Config.l2Ways ≤ m.1.length + m.2.length))
/-- Of lines with the cycle of their last use, the one used least recently. -/
def stalest (l : List (Nat × Nat)) : Option Nat :=
  (l.foldl (fun acc e => match acc with
    | none => some e
    | some b => if e.2 < b.2 then some e else some b) (none : Option (Nat × Nat))).map Prod.fst
/-- The victim in a line's set: true for a requester-side copy, which goes before a home copy; the least recently used among
those that are not pinned (R348). -/
def State.victim (s : State) (x : Nat × Nat) (line : Nat) : Option (Bool × Nat) :=
  let m := s.setMates x line
  match stalest ((m.2.filter (fun e => e.2.pins = 0)).map (fun e => (e.1, e.2.used))) with
  | some l => some (true, l)
  | none => (stalest ((m.1.filter (fun e => e.2.pins = 0)).map (fun e => (e.1, e.2.used)))).map (fun l => (false, l))
/-- Can the slice take the line: a way is free, or some way is not pinned (R348)? -/
def State.hasRoom (s : State) (x : Nat × Nat) (line : Nat) : Bool := !s.setFull x line || (s.victim x line).isSome
/-- A home copy leaves its slice: its dirty sectors and its rtime are on their way to memory (R348). -/
def State.evictHome (s : State) (line : Nat) : State :=
  match s.homes.find line with
  | some h => { s with
      homes := s.homes.erase line
      evicts := s.evicts.set s.nextEv { line := line, pa := h.pa, data := h.data, dirty := h.dirty, poison := h.poison, rt := h.rt }
      nextEv := s.nextEv + 1 }
  | none => s
/-- A way is made free for a line (R348). -/
def State.makeRoom (s : State) (x : Nat × Nat) (line : Nat) : State :=
  if !s.setFull x line then s
  else match s.victim x line with
    | some (true, l) => s.modDie x.1 (fun d => { d with copies := d.copies.erase l })
    | some (false, l) => s.evictHome l
    | none => s
/-- Has software broken its obligations for a cached entry (R370): the table's entry has another ATTR, which only RECALL may change;
or it is not valid, or has another frame, world or size, while the page is pinned or leased? -/
def State.brokenLeaf (s : State) (ia : Nat) (l : Leaf) : Bool :=
  match s.leafSpan ia with
  | some x =>
    let e := s.pte x.pa
    let kept := x.frame == l.frame && x.page == l.page && x.pages == l.pages && (bitsOf e 5 1 == 1) == l.ns
    attrOfCode (bitsOf e 2 2) != some l.attr || (!kept && (bitsOf e 6 1 == 1 || bitsOf e 16 16 != 0))
  | none =>
    let root := (s.chiplet (s.chipletOf ia)).ttroot.toNat
    let lvl := if l.pages = 16384 then 1 else if l.pages = 32 then 2 else 3
    (match (if root % 2 = 0 then [] else s.walkPath ia 4 0 (bitsOf root 16 28 * 2 ^ 16))[lvl]? with
     | some pa => let e := s.pte pa; e % 2 = 0 && (bitsOf e 6 1 == 1 || bitsOf e 16 16 != 0)
     | none => false)
/-- Is a cached entry of an address broken so? -/
def State.brokenPage (s : State) (ia : Nat) : Bool :=
  match (s.chiplet (s.chipletOf ia)).tlb.find? (fun l => l.covers ia) with
  | some l => s.brokenLeaf ia l
  | none => false
/-- The bytes of a page whose obligations are broken, as free values (R9, R370, log 81). -/
def Home.freed (h : Home) (n : Nat) : Home := { h with data := lineOf ((List.range 128).map (fun i => Config.freeByte (n + i))) }

/-- A requester-side copy of a line takes a version (R346); where every way is pinned it is dropped at once. -/
def State.setCopy (s : State) (d line : Nat) (v : Ver) : State :=
  match (s.die d).copies.find line with
  | some c => s.modDie d (fun x => { x with copies := x.copies.set line { c with ver := v, valid := 15, used := s.now } })
  | none => if s.hasRoom (sideSlice d line) line
      then (s.makeRoom (sideSlice d line) line).modDie d (fun x => { x with copies := x.copies.set line { ver := v, used := s.now } }) else s

/-- The home copy that memory gives of a line at a PA (R378, R385). -/
def State.fetched (s : State) (line pa : Nat) (attr : Attr) (ns : Bool) : Home :=
  let t := tmax (s.chiplet (s.chipletOf pa)).mtime (s.h - 0x40000000)
  let pois : BitVec 4 := (List.range 4).foldl (fun p k => setBit p k (s.memPoison.contains (pa / 32 + k))) 0
  { data := lineOf (s.mem.bytes pa 128), poison := pois, wt := t, rt := t, attr := attr, ns := ns, pa := pa
    owner := s.owners.get (line / 512) 0, used := s.now }

/-- Fills a line of the identity window whose home has no copy of it (R364, R370). -/
def State.fillEntry (s : State) (line : Nat) : State :=
  let x := s.home (line * 128)
  if (s.homes.find line).isSome || !s.hasRoom x line then s
  else
    let s := (s.makeRoom x line).landLine line
    { s with homes := s.homes.set line (s.fetched line (line * 128 % 2 ^ 44) .manual false) }

/-- What a walk for an address leaves at the homes of the entries that it reads: each is a MANUAL read of lease length 1 at its
version's own time (R370, log 12). -/
def State.walked (s : State) (ia : Nat) : State :=
  let root := (s.chiplet (s.chipletOf ia)).ttroot.toNat
  (if root % 2 = 0 then [] else s.walkPath ia 4 0 (bitsOf root 16 28 * 2 ^ 16)).foldl (fun s pa => s.fillEntry (identityIa pa / 128)) s

/-- The translation kept in the chiplet's cache of 2,048 entries; a miss walks (R370). -/
def State.warm (s : State) (ia : Nat) : State :=
  let c := s.chipletOf ia
  let known := (s.chiplet c).tlb.any (fun l => l.covers ia)
  let keep (t : State) : State := match s.translate ia with
    | .ok l => t.modChiplet c (fun x => { x with tlb := l :: (x.tlb.filter (fun k => !k.covers ia)).take 2047 })
    | _ => t
  keep (if known then s else s.walked ia)

/-- The bytes of a home copy whose page's entry is broken are free values (R9, R370, log 81). -/
def State.freePage (s : State) (line : Nat) (h : Home) : State :=
  if s.brokenPage (line * 128) then { s with homes := s.homes.set line (h.freed s.free), free := s.free + 128 } else s

/-- Fills the home copy of a line from memory if it is not there and a way is free or can be made free (R348, R370, R371, R378). -/
def State.fill (s : State) (line : Nat) : State :=
  match s.homes.find line with
  | some h => s.freePage line h
  | none =>
    if !s.hasRoom (s.home (line * 128)) line then s
    else if isIdentity (line * 128) then (match s.lineHome line with | .slice _ _ => s.fillEntry line | _ => s)
    else
      let ia := line * 128
      let s := (s.makeRoom (s.home ia) line).landLine line
      match s.lineHome line with
      | .slice _ _ => (match s.translate ia with
        | .ok l =>
          let s := s.warm ia
          let h := s.fetched line (l.pa ia) l.attr l.ns
          { s with homes := s.homes.set line h }.freePage line h
        | _ => s)
      | _ => s

/-- The time at which a line that its home does not hold would begin (R378, R416). -/
def State.fillTime (s : State) (line : Nat) : Time :=
  let at' (pa : Nat) : Time := (s.evicts.filter (fun e => e.2.line = line)).foldl (fun t e => tmax t e.2.rt)
    (tmax (s.chiplet (s.chipletOf pa)).mtime (s.h - 0x40000000))
  if isIdentity (line * 128) then at' (line * 128 % 2 ^ 44)
  else match s.lineHome line with
    | .slice _ _ => (match s.translate (line * 128) with | .ok l => at' (l.pa (line * 128)) | _ => 0)
    | _ => s.bridge.bt

/-- Version parts of a home copy. -/
def Home.ver (h : Home) : Ver := { data := h.data, wt := h.wt, rt := h.rt, poison := h.poison }
/-- Version parts of a host line. -/
def HostLine.ver (h : HostLine) : Ver := { data := h.data, wt := h.wt, rt := h.rt, poison := h.poison }

/-- Which bytes of a sector a list of writes covers. -/
def coversSector (bytes : List (Nat × Byte)) (k : Nat) : Bool :=
  (List.range 32).all (fun i => bytes.any (fun e => e.1 = 32 * k + i))
/-- Does a list of writes touch the sector? -/
def touchesSector (bytes : List (Nat × Byte)) (k : Nat) : Bool := bytes.any (fun e => e.1 / 32 = k)

/-- Poison after a write (R386): a poisoned write marks its sectors, a full clean write clears, a partial one keeps. -/
def poisonAfter (p : BitVec 4) (bytes : List (Nat × Byte)) (poison : Bool) : BitVec 4 :=
  (List.range 4).foldl (fun q k =>
    if touchesSector bytes k then (if poison then setBit q k true else if coversSector bytes k then setBit q k false else q)
    else q) p

/-- HomeWrite of R230: the new version and its time. -/
def verWrite (v : Ver) (bytes : List (Nat × Byte)) (stamp : Time) (poison : Bool) : Ver :=
  let w := tmax stamp (v.rt + 1)
  { data := lineMerge v.data bytes, wt := w, rt := w, poison := poisonAfter v.poison bytes poison }

/-- HomeGrant of R230: the version with its lease extended. -/
def verGrant (v : Ver) (t : Time) (l : Nat) : Ver :=
  { v with rt := tmax v.rt (tmax t v.wt + BitVec.ofNat 64 (l - 1)) }

/-- Lease length and the predictor after the grant (R345). -/
def leaseOf (hint : Lease) (attr : Attr) (c : BitVec 2) : Nat × BitVec 2 :=
  if attr = .manual then (1, c)
  else match hint with
    | .predicted => (16 * 4 ^ c.toNat, if c = 3 then 3 else c + 1)
    | .short => (16, c)
    | .long => (4095, c)
    | .noAlloc => (1, c)

/-- A signed reading of an integer type, on a pattern. -/
def intVal (ty : Ty) (x : Nat) : Int := if ty.signed then sext ty.bits x else (x % 2 ^ ty.bits : Nat)

/-- One atomic operation (R136); AOP 9 is CAS with the compare `v` and the new value `w` (R137, R461). -/
def aopApply (aop : Nat) (ty : Ty) (m v w : Nat) : Nat :=
  let n := 2 ^ ty.bits
  match aop with
  | 0 => if ty = .f32 then (roundTo .f32 (vadd false (decodeF .f32 m) (decodeF .f32 v)).1 .rne).1 else (m + v) % n
  | 1 => if ty = .f32 then fminPat .f32 m v else if intVal ty v < intVal ty m then v % n else m
  | 2 => if ty = .f32 then fmaxPat .f32 m v else if intVal ty m < intVal ty v then v % n else m
  | 3 => m &&& (v % n)
  | 4 => m ||| (v % n)
  | 5 => m ^^^ (v % n)
  | 6 => v % n
  | 7 => if v % n ≤ m then 0 else m + 1
  | 8 => if m = 0 ∨ v % n < m then v % n else m - 1
  | _ => if m = v % n then w % n else m

/-- The lanes of one combined request, ascending (R137): the final value and the old values. -/
def aopLanes (aop : Nat) (ty : Ty) (m : Nat) (lanes : List (Nat × Dword × Dword)) : Nat × List (Nat × Dword) :=
  lanes.foldl (fun acc e => (aopApply aop ty acc.1 e.2.1.toNat e.2.2.toNat, acc.2 ++ [(e.1, BitVec.ofNat 64 acc.1)])) (m, [])

/-- A time of at least H + 2^29 asks for a step of the horizon (R380). -/
def State.noteTime (s : State) (t : Time) : State :=
  if tle (s.h + 0x20000000) t then { s with stepReq := true } else s
/-- A request that would create such a time is held (R380). -/
def State.timeHeld (s : State) (t : Time) : Bool := tle (s.h + 0x80000000 - 0x10000000) t

/-- Wakes what is registered on a line (R358, R359, R423); a host write that the bridge observes wakes a WAITA at .s alone. -/
def State.wakeBy (s : State) (line : Nat) (w : Wake) (host : Bool) : State :=
  let d := (s.home (line * 128)).1
  let l := (s.die d).waits.get line []
  let s := l.foldl (fun s x => match x with
    | .fibre r _ => s.modFib r (fun f => { f with phases := f.phases.mapVal (fun _ p => match p with
        | .waita x => if x.line = line && (!host || x.scope == .s) then .waita { x with wake := if w = .wakea || x.wake = .none then w else x.wake } else p
        | p => p) })
    | .host h v => { s with bridge := { s.bridge with msix := (h, v) :: s.bridge.msix } }) s
  if l.any (fun x => match x with | .host _ _ => true | _ => false) then
    s.modDie d (fun x => { x with waits := x.waits.set line (l.filter (fun y => match y with | .host _ _ => false | _ => true)) })
  else s

/-- A wake by an operation at the home of the line. -/
def State.wakeLine (s : State) (line : Nat) (w : Wake) : State := s.wakeBy line w false
/-- A wake by a host write (R359). -/
def State.wakeHost (s : State) (line : Nat) : State := s.wakeBy line .write true

/-- The version a home holds of a line, with the predictor and the attribute; none if it has none. -/
def State.homeVer (s : State) (line : Nat) : Option (Ver × BitVec 2 × Attr) :=
  match s.lineHome line with
  | .slice _ _ => (s.homes.find line).map (fun h => ((s.whole h).ver, h.c, h.attr))
  | .bridge a _ => (s.bridge.lines.find line).map (fun h => (h.ver, h.c, a))
  | .refused _ => none

/-- Puts a version at the home of a line, with the predictor; `dirty` sectors are marked, a host line becomes M. -/
def State.putHome (s : State) (line : Nat) (v : Ver) (c : BitVec 2) (dirty : BitVec 4) (who : Nat × BitVec 16) : State :=
  let s := s.noteTime v.rt
  match s.lineHome line with
  | .slice _ _ =>
    let h := s.homes.get line {}
    let h : Home := { h with data := v.data, valid := 15, wt := v.wt, rt := v.rt, poison := v.poison, c := c, dirty := h.dirty ||| dirty,
                             used := s.now }
    { s with homes := s.homes.set line h }
  | _ =>
    let l := s.bridge.lines.get line {}
    let l : HostLine := { l with data := v.data, wt := v.wt, rt := v.rt, poison := v.poison, c := c,
                                 st := if dirty ≠ 0 then .m else l.st,
                                 tags := if dirty ≠ 0 then (who :: l.tags).eraseDups else l.tags }
    { s with bridge := { s.bridge with lines := s.bridge.lines.set line l } }

/-- Is a flip of the page of an address under way: it is at the head of the sequencer (R420)? -/
def State.flipping (s : State) (ia : Nat) : Bool :=
  match s.recalls with
  | q :: _ => q.bias.isSome && (match s.leafSpan q.base with
    | some l => l.has (ia / 128)
    | none => q.base / 65536 == ia / 65536)
  | [] => false

/-- Can the home of the line perform a read (`wr` false) or a write by what it holds? A slice fills by itself while a way of the
set is not pinned (R348); the bridge must hold the line, for a write in E or M (R416); a line in the host-view filter is first taken
back (R418). -/
def State.homeHolds (s : State) (line : Nat) (wr : Bool) : Bool :=
  match s.lineHome line with
  | .slice _ _ => (!wr || !s.bridge.filter.contains line) && ((s.homes.find line).isSome || s.hasRoom (s.home (line * 128)) line)
  | .bridge _ _ => match s.bridge.lines.find line with
    | some h => !wr || h.st ≠ .s
    | none => false
  | .refused _ => false
/-- Can it serve a device access now: no flip of the page is under way either (R420)? -/
def State.homeReady (s : State) (line : Nat) (wr : Bool) : Bool := !s.flipping (line * 128) && s.homeHolds line wr

/-- Asks the host for what `homeReady` misses: the line through CXL.cache, or a BISnpInv (R416, R418). -/
def State.homeAsk (s : State) (line : Nat) (wr : Bool) : State :=
  if s.homeHolds line wr then s else
  match s.lineHome line with
  | .slice _ _ => if wr && s.bridge.filter.contains line
      then { s with bridge := { s.bridge with invPend := setAdd s.bridge.invPend line } } else s
  | .bridge _ _ => { s with bridge := { s.bridge with asked := s.bridge.asked.set line (wr || s.bridge.asked.get line false) } }
  | .refused _ => s

/-- A write with a stamp that would create a time beyond the span is held at the home (R380). -/
def State.heldAt (s : State) (line : Nat) (t : Time) : Option State :=
  let u := match s.homeVer line with | some (v, _, _) => tmax t (v.rt + 1) | none => tmax t (s.fillTime line + 1)
  if s.timeHeld u then some { s with stepReq := true } else none
/-- A grant whose lease would end beyond the span is held at the home (R380). -/
def State.heldRead (s : State) (line : Nat) (t : Time) (hint : Lease) : Option State :=
  let u := match s.homeVer line with
    | some (v, c, a) => (verGrant v t (leaseOf hint a c).1).rt
    | none => tmax t (s.fillTime line) + BitVec.ofNat 64 ((leaseOf hint .leased 0).1 - 1)
  if s.timeHeld u then some { s with stepReq := true } else none

/-- HomeGrant at the home of a line (R230, R345, R346): the version granted. `copyDie` is the die whose requester-side
copy takes the grant. -/
def State.grant (s : State) (line : Nat) (t : Time) (hint : Lease) (copyDie : Option Nat) : State × Ver :=
  let s := s.fill line
  match s.homeVer line with
  | none => (s, {})
  | some (v, c, attr) =>
    let (l, c') := leaseOf hint attr c
    let v' := verGrant v t l
    let s := s.putHome line v' c' 0 (0, 0)
    match copyDie with
    | some d => ({ s with homes := match s.homes.find line with
        | some h => s.homes.set line { h with pres := setBit h.pres d true }
        | none => s.homes }, v')
    | none => (s, v')

/-- HomeWrite at the home of a line (R230): the version made. -/
def State.homeWrite (s : State) (line : Nat) (bytes : List (Nat × Byte)) (stamp : Time) (poison : Bool)
    (who : Nat × BitVec 16) : State × Ver :=
  let s := s.fill line
  match s.homeVer line with
  | none => (s, {})
  | some (v, _, _) =>
    let v' := verWrite v bytes stamp poison
    let dirty : BitVec 4 := (List.range 4).foldl (fun d k => setBit d k (touchesSector bytes k)) 0
    ((s.putHome line v' 0 dirty who).wakeLine line .write, v')

/-- An atomic at the home of a line (R240, R137, R142): the version, its time, the old values, and whether the
location was poisoned and nothing done. -/
def State.homeAtomic (s : State) (line off aop : Nat) (ty : Ty) (lanes : List (Nat × Dword × Dword)) (t : Time)
    (who : Nat × BitVec 16) : State × Ver × List (Nat × Dword) × Bool :=
  let s := s.fill line
  match s.homeVer line with
  | none => (s, {}, [], false)
  | some (v, _, _) =>
    let at' := tmax t (v.rt + 1)
    if v.poison.getLsbD (off / 32) then (s, v, lanes.map (fun e => (e.1, 0)), true)
    else
      let n := ty.bytes
      let (m, olds) := aopLanes aop ty (lineNat v.data off n) lanes
      let bytes := (leBytes n m).zipIdx.map (fun e => (off + e.2, e.1))
      let v' : Ver := { data := lineMerge v.data bytes, wt := at', rt := at', poison := v.poison }
      let dirty : BitVec 4 := setBit 0 (off / 32) true
      ((s.putHome line v' 0 dirty who).wakeLine line .write, v', olds, false)

/-- Sets poison on sectors of a line where its home holds it (R385). -/
def State.poisonHome (s : State) (line : Nat) (secs : List Nat) : State :=
  match s.homes.find line with
  | some h => { s with homes := s.homes.set line { h with poison := secs.foldl (fun p k => setBit p k true) h.poison } }
  | none => { s with bridge := { s.bridge with lines := s.bridge.lines.mapVal (fun l h =>
      if l = line then { h with poison := secs.foldl (fun p k => setBit p k true) h.poison } else h) } }

/-- A byte of global memory as its home holds it now: what a fetch, a walk or a device read sees. -/
def State.iaByte (s : State) (ia : Nat) : Byte :=
  match s.homeVer (ia / 128) with
  | some (v, _, _) => lineByte v.data (ia % 128)
  | none => match s.lineHome (ia / 128) with
    | .slice _ _ => if isIdentity ia then s.paByte (ia % 2 ^ 44)
      else match s.leaving (ia / 128) (ia % 128) with
        | some e => lineByte e.data (ia % 128)
        | none => match s.translate ia with
          | .ok l => s.mem.read (l.pa ia)
          | _ => 0
    | _ => 0

/-- Is the byte poisoned where its home holds it? -/
def State.iaPoison (s : State) (ia : Nat) : Bool :=
  match s.homeVer (ia / 128) with
  | some (v, _, _) => v.poison.getLsbD (ia % 128 / 32)
  | none => match s.lineHome (ia / 128) with
    | .slice _ _ => if isIdentity ia then s.paPoison (ia % 2 ^ 44)
      else match s.leaving (ia / 128) (ia % 128) with
        | some e => e.poison.getLsbD (ia % 128 / 32)
        | none => match s.translate ia with
          | .ok l => s.memPoison.contains (l.pa ia / 32)
          | _ => false
    | _ => false

/-- Bytes of global memory as their homes hold them now. -/
def State.iaBytes (s : State) (ia n : Nat) : List Byte := (List.range n).map (fun i => s.iaByte (ia + i))

/-- Splits a run of bytes at line boundaries: line, offset and bytes of each piece. -/
def piecesGo (fuel ia : Nat) (bs : List Byte) : List (Nat × List (Nat × Byte)) :=
  match fuel with
  | 0 => []
  | k + 1 =>
    if bs.isEmpty then []
    else
      let room := 128 - ia % 128
      let here := bs.take room
      (ia / 128, here.zipIdx.map (fun e => (ia % 128 + e.2, e.1))) :: piecesGo k (ia + room) (bs.drop room)

/-- The pieces of a run of bytes by line. -/
def pieces (ia : Nat) (bs : List Byte) : List (Nat × List (Nat × Byte)) := piecesGo (bs.length / 128 + 2) ia bs

/-- Can a write of the device with a stamp be made at its home now, with none of the line before it (R380, R418, R420)? -/
def State.devReady (s : State) (line : Nat) (stamp : Time) : Bool :=
  s.homeReady line true && (s.heldAt line stamp).isNone && !s.devq.any (fun w => w.1 / 128 == line)
/-- Asks for what such a write waits for: the host, or a step of the horizon. -/
def State.devAsk (s : State) (line : Nat) (stamp : Time) : State :=
  if s.homeReady line true then (s.heldAt line stamp).getD s else s.homeAsk line true

/-- A write by the device itself at the homes of its bytes, with a stamp: the largest w returned (R230). Bytes whose
home waits for the host, for a flip, or for the horizon are queued, in order for each line (R380, R418, R420). -/
def State.devWrite (s : State) (ia : Nat) (bs : List Byte) (stamp : Time) (poison : Bool) (who : Nat × BitVec 16) : State × Time :=
  (pieces ia bs).foldl (fun acc p =>
    if acc.1.devReady p.1 stamp then
      let (s, v) := acc.1.homeWrite p.1 p.2 stamp poison who
      (s, tmax acc.2 v.wt)
    else
      let s := acc.1.devAsk p.1 stamp
      let at' := p.1 * 128 + (p.2.map Prod.fst).headD 0
      ({ s with devq := s.devq ++ [(at', p.2.map Prod.snd, stamp, poison, who)] }, acc.2)) (s, stamp)

/-- Queued writes of the device are tried again, in order. -/
def State.drainDevq (s : State) : State :=
  s.devq.foldl (fun s w => (s.devWrite w.1 w.2.1 w.2.2.1 w.2.2.2.1 (w.2.2.2.2.1, w.2.2.2.2.2)).1) { s with devq := [] }

/-- Is a write of the device to a run still queued? -/
def State.devQueued (s : State) (ia n : Nat) : Bool :=
  s.devq.any (fun w => decide (w.1 < ia + n) && decide (ia < w.1 + w.2.1.length))
/-- A byte that the device reads back of its own tables: a queued write of it comes first. -/
def State.devByte (s : State) (ia : Nat) : Byte :=
  s.devq.foldl (fun x w => if decide (w.1 ≤ ia) && decide (ia < w.1 + w.2.1.length) then w.2.1.getD (ia - w.1) x else x) (s.iaByte ia)
/-- Bytes that the device reads back of its own tables. -/
def State.devBytes (s : State) (ia n : Nat) : List Byte := (List.range n).map (fun i => s.devByte (ia + i))
/-- Is such a byte poisoned? -/
def State.devPoison (s : State) (ia : Nat) : Bool :=
  s.devq.foldl (fun x w => if decide (w.1 ≤ ia) && decide (ia < w.1 + w.2.1.length) then w.2.2.2.1 else x) (s.iaPoison ia)

/-- Can the device read a line of its own tables now? Where the bridge is its home, that must hold the line; a flip of its page comes
first (R416, R419, R420). -/
def State.lineReadable (s : State) (line : Nat) : Bool :=
  !s.flipping (line * 128) && (match s.lineHome line with
    | .bridge _ _ => (s.bridge.lines.find line).isSome
    | _ => true)
/-- The lines of a run of bytes. -/
def runLines (ia n : Nat) : List Nat := (List.range ((ia % 128 + n + 127) / 128)).map (fun i => ia / 128 + i)
/-- Can the device read a run of its own tables now? -/
def State.readable (s : State) (ia n : Nat) : Bool := (runLines ia n).all s.lineReadable
/-- Asks the host for the lines of such a run that the bridge lacks. -/
def State.readAsk (s : State) (ia n : Nat) : State :=
  (runLines ia n).foldl (fun s l => if s.lineReadable l then s else s.homeAsk l false) s

/-- Can every line of a run be read or written at its home now? -/
def State.runReady (s : State) (ia n : Nat) (wr : Bool) : Bool :=
  (List.range ((ia % 128 + n + 127) / 128)).all (fun i => s.homeReady (ia / 128 + i) wr)
/-- Asks the host for the lines of a run that are not ready. -/
def State.runAsk (s : State) (ia n : Nat) (wr : Bool) : State :=
  (List.range ((ia % 128 + n + 127) / 128)).foldl (fun s i =>
    if s.homeReady (ia / 128 + i) wr then s else s.homeAsk (ia / 128 + i) wr) s

end Sys2Proof.Machine
end

