-- ==== Sys2Proof/Machine/Ops.lean ====
section
/-!
DEFINITION. The named operations over registers, effects, events, fault records and vectors, and the taking of a
fault: Raise, EnterTrap, Freeze, the end of a task and of a block, and the return from a trap (R162 to R177, R201,
R225, R258, R321, R322, R407, R413).
-/

namespace Sys2Proof.Machine

/-- Codes of the fault classes (R162). -/
def cILL : Nat := 1
/-- IDX. -/
def cIDX : Nat := 2
/-- ALN. -/
def cALN : Nat := 3
/-- PRV. -/
def cPRV : Nat := 4
/-- FPX. -/
def cFPX : Nat := 5
/-- BPT. -/
def cBPT : Nat := 6
/-- WCH. -/
def cWCH : Nat := 7
/-- NPX. -/
def cNPX : Nat := 8
/-- RNG. -/
def cRNG : Nat := 9
/-- POI. -/
def cPOI : Nat := 10
/-- DBL. -/
def cDBL : Nat := 11

/-- A vector register as it stands in the store, by window index and lane (R225). -/
def State.reg (s : State) (r : FRef) (i lane : Nat) : Word :=
  let b := s.block r.blk
  (s.core b.core).uni.word (b.regOff r.warp i lane)

/-- A vector register as the fibre reads it: in runahead a shadow entry comes first (R213). -/
def State.vreg (s : State) (r : FRef) (i lane : Nat) : Word :=
  match (s.fib r).ra with
  | some e => if e.entries.contains i then e.shadow.get (64 * i + lane) 0 else s.reg r i lane
  | none => s.reg r i lane

/-- Is a word of a register poisoned (R322)? -/
def State.regPoison (s : State) (r : FRef) (i lane : Nat) : Bool :=
  let b := s.block r.blk
  (s.core b.core).uniPoison.contains (b.regOff r.warp i lane / 4)

/-- Writes a word of a register; a whole write clears a poison mark (R322). -/
def State.setReg (s : State) (r : FRef) (i lane : Nat) (v : Word) : State :=
  let b := s.block r.blk
  let o := b.regOff r.warp i lane
  s.modCore b.core (fun c => { c with uni := c.uni.writeWord o v, uniPoison := setDel c.uniPoison (o / 4) })

/-- Does the fibre read a poisoned word there? In runahead a shadow entry holds none (R213, R216). -/
def State.vpoison (s : State) (r : FRef) (i lane : Nat) : Bool :=
  match (s.fib r).ra with
  | some e => !e.entries.contains i && s.regPoison r i lane
  | none => s.regPoison r i lane

/-- Marks a word of a register poisoned. -/
def State.poisonReg (s : State) (r : FRef) (i lane : Nat) : State :=
  let b := s.block r.blk
  s.modCore b.core (fun c => { c with uniPoison := setAdd c.uniPoison (b.regOff r.warp i lane / 4) })

/-- One change of a fibre's state. Writes to pt and qt are discarded (R15, R47). -/
def State.applyEff (s : State) (r : FRef) (e : Eff) : State :=
  match e with
  | .vreg i l v => s.setReg r i l v
  | .vpoison i l => s.poisonReg r i l
  | .pred p l b => if p = 15 then s else s.modFib r (fun f => f.modLane l (fun x => { x with preds := setBit x.preds p b }))
  | .ureg n v => s.modFib r (fun f => { f with s := f.s.set n v })
  | .upred n b => if n = 15 then s else s.modFib r (fun f => { f with q := setBit f.q n b })
  | .flags m => s.modFib r (fun f => { f with fpcs := f.fpcs ||| m.setWidth 32 })

/-- Changes in order. -/
def State.applyEffs (s : State) (r : FRef) (es : List Eff) : State := es.foldl (fun s e => s.applyEff r e) s

/-- A result that lands while an episode lasts: predicates and uniform registers change in the checkpoint (R213, R214, R222). -/
def Episode.land (e : Episode) (x : Eff) : Episode :=
  match x with
  | .pred p l b => if p = 15 then e else { e with lanes0 := e.lanes0.modify l (fun y => { y with preds := setBit y.preds p b }) }
  | .ureg n v => { e with s0 := e.s0.set n v }
  | .upred n b => if n = 15 then e else { e with q0 := setBit e.q0 n b }
  | _ => e

/-- Is the change one of state that has a hardware shadow (R212)? -/
def Eff.shadowed (x : Eff) : Bool := match x with | .pred .. => true | .ureg .. => true | .upred .. => true | _ => false

/-- A result of an earlier instruction reaches the architectural state, in an episode the checkpoint (R213, R222). -/
def State.landEff (s : State) (r : FRef) (x : Eff) : State :=
  match (s.fib r).ra with
  | some e => if x.shadowed then s.modFib r (fun f => { f with ra := some (e.land x) }) else s.applyEff r x
  | none => s.applyEff r x

/-- Results that land, in order. -/
def State.landEffs (s : State) (r : FRef) (es : List Eff) : State := es.foldl (fun s e => s.landEff r e) s

/-- Writes of a value of `w` registers from window index `i` in one lane. -/
def vregEffs (i w lane v : Nat) : List Eff :=
  (List.range w).map (fun k => .vreg (i + k) lane (BitVec.ofNat 32 (v / 2 ^ (32 * k))))

/-- Writes of a value of `w` uniform registers from number `e`. -/
def uregEffs (e w v : Nat) : List Eff :=
  (List.range w).map (fun k => .ureg (e + k) (BitVec.ofNat 32 (v / 2 ^ (32 * k))))

/-- A uniform value of `w` registers. -/
def Fibre.uval (f : Fibre) (e w : Nat) : Nat :=
  (List.range w).foldl (fun a k => a + (f.ureg (e + k)).toNat * 2 ^ (32 * k)) 0

/-! Events, save slots and records -/

/-- Does an event or fault ring run, and with how many entries (R390)? -/
def ringSize (cfg : BitVec 5) : Option Nat := if 4 ≤ cfg.toNat ∧ cfg.toNat ≤ 16 then some (2 ^ cfg.toNat) else none

/-- Writes an event of R413 into the VI's ring, or sets EVOVF. -/
def State.event (s : State) (vi kind code : Nat) (tag : BitVec 16) (task : Nat) (a b : Dword) : State :=
  let v := s.vi vi
  match ringSize v.evcfg with
  | none => s.modVi vi (fun v => { v with evovf := true })
  | some n =>
    let tail := v.evtail.toNat % n
    if (tail + 1) % n = v.evhead.toNat % n then s.modVi vi (fun v => { v with evovf := true })
    else
      let bytes := leBytes 1 kind ++ leBytes 1 code ++ leBytes 2 tag.toNat ++ leBytes 4 task ++ leBytes 8 a.toNat ++
        leBytes 8 b.toNat ++ leBytes 8 s.ns.toNat
      let s := (s.devWrite (v.evbase.toNat + 32 * tail) bytes s.h false (vi, tag)).1
      s.modVi vi (fun v => { v with evtail := BitVec.ofNat 32 ((tail + 1) % n) })

/-- The address of a save slot (R403). -/
def Vi.slotAddr (v : Vi) (slot : Nat) : Nat := v.savebase.toNat + slot * (bitsOf v.savecfg.toNat 16 16 * 4096)

/-- Writes bytes into the block's save slot, if it has one. -/
def State.slotWrite (s : State) (b off : Nat) (bs : List Byte) : State :=
  let x := s.block b
  match x.saveSlot with
  | some k => (s.devWrite ((s.vi x.vi).slotAddr k + off) bs s.h false (x.vi, x.tag)).1
  | none => s

/-- Bytes 16 to 23 of a fault record (R171). -/
def FaultRec.mid (f : FaultRec) : Nat :=
  f.rc.toNat + f.fc.toNat * 2 ^ 8 + (f.warp.toNat * 4 + f.fib.toNat) * 2 ^ 16 +
    (bit1 f.trap + 2 * bit1 f.resumable) * 2 ^ 24 + f.tag.toNat * 2 ^ 32 + f.core * 2 ^ 48 + f.socket * 2 ^ 56

/-- The 32 bytes of a fault record (R171). -/
def FaultRec.bytes (f : FaultRec) : List Byte :=
  leBytes 8 f.pc.toNat ++ leBytes 8 f.tval.toNat ++ leBytes 8 f.mid ++ leBytes 8 f.lanes.toNat

/-- The fault record of a fibre (R163, R171). -/
def State.faultRec (s : State) (r : FRef) (rc fc : Nat) (val : Dword) (resume : VA) (lanes : LaneSet) : FaultRec :=
  let b := s.block r.blk
  { pc := resume, tval := val, rc := BitVec.ofNat 4 rc, fc := BitVec.ofNat 4 fc, warp := BitVec.ofNat 4 r.warp,
    fib := BitVec.ofNat 2 r.fib, trap := (s.fib r).trap, resumable := decide (rc ≠ cDBL), tag := b.tag, core := b.core % 33,
    socket := b.core / 33, lanes := lanes }

/-! Commands and notices of fibres -/

/-- A fibre's counter after one of its commands is done: value, KT, EC (R252, R255). -/
def State.counterDone (s : State) (r : FRef) (k : Nat) (t : Time) (ec : Dword) : State :=
  s.modFib r (fun f => f.modCtr k (fun c =>
    { val := c.val - 1, kt := tmax c.kt t, ec := if ec ≠ 0 && c.ec = 0 then ec else c.ec }))

/-- A record of R257: CODE, FORM, and bits 56 to 5 of an address. -/
def ecRecord (form code addr : Nat) : Dword := BitVec.ofNat 64 (code * 2 ^ 60 + form * 2 ^ 56 + addr / 32 % 2 ^ 52)

/-- Is the fibre inside an instruction: a release is under way for one (R316)? -/
def Fibre.midway (f : Fibre) : Bool := match f.rel with | some (some _, _) => true | _ => false

/-- Is the placement record of a block still to be written (R227)? -/
def State.placing (s : State) (b : Block) : Bool :=
  match b.saveSlot with
  | some k => s.devQueued ((s.vi b.vi).slotAddr k + 0x40) 32
  | none => false

/-- A number for the cluster of a block, one for each cluster of each task (R324). -/
def Block.clusterKey (b : Block) : Nat := ((b.task * 2 ^ 32 + b.ix / max 1 b.csize) * 2 ^ 32 + b.iy) * 2 ^ 32 + b.iz
/-- Two blocks of one cluster. -/
def Block.sameCluster (a b : Block) : Bool :=
  a.task == b.task && a.service == b.service && a.ix / max 1 a.csize == b.ix / max 1 b.csize && a.iy == b.iy && a.iz == b.iz

/-- Are two blocks admitted, saved and restored together: of one cooperative grid, or of one cluster of several (R325, R326, R393)? -/
def Block.together (a b : Block) : Bool :=
  a.task == b.task && a.service == b.service && ((a.coop && b.coop) || (decide (1 < b.csize) && a.sameCluster b))

/-- Is the placement record still to be written of a block, or of one that is placed together with it (R227, R325, R326)? -/
def State.groupPlacing (s : State) (blk : Nat) : Bool :=
  let b := s.block blk
  s.blocks.any (fun e => e.2.st == .resident && (e.1 == blk || e.2.together b) && s.placing e.2)

/-- Does the fibre's block hold it back: not resident, a placement record of its group not written, ending, or stopping, with no section
open and no instruction under way (R227, R316, R318, R321, R325, R326)? -/
def State.held (s : State) (r : FRef) : Bool :=
  let b := s.block r.blk
  b.st != .resident || s.groupPlacing r.blk || b.ending || (b.stopping && (s.fib r).sec.isNone && !(s.fib r).midway)

/-! Runahead ends -/

/-- Ends an episode: the checkpoint comes back (R219, R222). -/
def Fibre.endRunahead (f : Fibre) : Fibre :=
  match f.ra with
  | none => f
  | some e => { f with ra := none, lanes := e.lanes0, s := e.s0, q := e.q0, x := e.x0, raDone := setAdd f.raDone e.trigger }

/-! Vectors toward handler fibres -/

/-- What a vector that becomes pending does to the handler fibre (R176, R219, R475): a runahead episode ends, the event latch of the
core is set, and a waiting UIWAIT may go on, which settling finds. -/
def State.poke (s : State) (b wf : Nat) : State :=
  (s.modFib ⟨b, wf / 4, wf % 4⟩ Fibre.endRunahead).modCore (s.block b).core (fun c => { c with latch := true })

/-- Raises vector 0 of a block (R172, R441): OR of the payload, the count saturates, and PEND becomes 1. -/
def State.raiseVec0 (s : State) (b : Nat) (payload : Word) (t : Time) : State :=
  let was := (s.block b).vec0.pend
  let s := s.modBlock b (fun x => { x with vec0 :=
    { x.vec0 with pend := true, payload := x.vec0.payload ||| payload, t := tmax x.vec0.t t,
                  count := if x.vec0.count = 0xFFFF then 0xFFFF else x.vec0.count + 1 } })
  match was, (s.block b).vec0H with
  | false, some wf => s.poke b wf
  | _, _ => s

/-! Ends of blocks and tasks -/

/-- The release under way that no instruction waits for: the one of a FENCE.rel, which has retired (R238). -/
def Fibre.fenceRel (f : Fibre) : Option (Option VA × Scope) := f.rel.filter (fun x => x.1.isNone)

/-- The uniform predicate a field names. -/
def upredDest (o : Operand) : Nat := match o with | .sp (.upred n _) => n.toNat | _ => 15

/-- The FRESUME of the fibre whose release is under way: its address, and the uniform predicate of its answer (R196). -/
def Fibre.resumes (f : Fibre) : Option (Nat × Nat) :=
  match f.rel with
  | some (some p, _) => match f.phases.find p.toNat with
    | some (.resuming q) => some (p.toNat, q)
    | _ => none
  | _ => none

/-- A fibre of a block that begins to end stops at an instruction boundary (R321): its section and its episode close, and a
FRESUME under way ends with false (R197). -/
def Fibre.stopFor (f : Fibre) : Fibre :=
  let g := f.endRunahead
  let stopped : Fibre := { g with sec := none, rel := g.fenceRel, stall := none }
  match g.resumes with
  | some (p, q) =>
    { (stopped.modLanes (g.path (BitVec.ofNat 57 p)) (fun _ l => { l with pc := BitVec.ofNat 57 p + 12 })) with
      q := if q = 15 then g.q else setBit g.q q false, phases := g.phases.erase p }
  | none => stopped

/-- Pending presentations of a block are withdrawn (R283). -/
def State.withdraw (s : State) (blk : Nat) : State :=
  s.modCore (s.block blk).core (fun c => { c with latches := c.latches.filter (fun g => g.blk ≠ blk) })

/-- A block begins to end: its fibres stop, open sections and episodes close, its presentations are discarded (R283, R321). -/
def State.endBlock (s : State) (b : Nat) : State :=
  (s.withdraw b).modBlock b (fun x =>
    { x with ending := true, failed := true
             warps := x.warps.map (fun w => { w with fibs := w.fibs.map Fibre.stopFor }) })

/-- Ends a task: its resident blocks end, its saved blocks go, no more of it is dispatched, and no JOIN follows (R258,
R321, R394). -/
def State.endTaskBlocks (s : State) (task : Nat) : State :=
  let mine := (s.blocks.filter (fun e => e.2.task = task && e.2.st ≠ .gone)).map Prod.fst
  let s := mine.foldl (fun s b => s.endBlock b) s
  match s.tasks.find task with
  | some t => { s with tasks := s.tasks.set task { t with failed := true, ended := true, next := t.tr.gx * t.tr.gy * t.tr.gz } }
  | none => s

/-- EndTask of R163: the event of kind 2 and the end of the task. -/
def State.endTask (s : State) (task vi : Nat) (tag : BitVec 16) (code : Nat) (val : Dword) (mid : Nat) : State :=
  match s.tasks.find task with
  | some t => if t.ended then s.endTaskBlocks task
      else (s.event vi 2 code tag task val (BitVec.ofNat 64 mid)).endTaskBlocks task
  | none => s.endTaskBlocks task

/-- Counts the items of a key, each once, and starts a purge (R407, R408, R413); a notice is counted by its command, records in queues
when they are found. A key already under purge joins it. -/
def State.startPurge (s : State) (vi : Nat) (tag : BitVec 16) (code ia : Nat) : State :=
  if tag = 0 then s
  else if s.purges.any (fun p => p.vi = vi && p.tag = tag) then s
  else
    let recs := (s.overflow.filter (fun t => t.1 = vi && t.2.1 = tag)).length
    let tasks := (s.tasks.filter (fun e => e.2.tr.vi = vi && e.2.tr.tag = tag)).map Prod.fst
    let blks := (s.blocks.filter (fun e => e.2.vi = vi && e.2.tag = tag && e.2.st ≠ .gone && !e.2.service)).map Prod.fst
    let cmds := (s.cores.map (fun c => (c.2.cmds.filter (fun m => m.2.vi = vi && m.2.tag = tag)).length)).sum
    let sends := (s.sends.filter (fun e => e.2.fromVi = vi && e.2.tag = tag)).length
    let fabs := (s.fabric.reqs.filter (fun e => e.2.vi = vi && e.2.tag = tag)).length
    let batches := (s.dies.map (fun d => (d.2.batches.filter (fun e => e.2.vi = vi && e.2.tag = tag)).length)).sum
    let s := { s with
      purges := { vi := vi, tag := tag, code := code, ia := ia, since := s.now,
                  count := recs + tasks.length + blks.length + cmds + sends + fabs + batches } :: s.purges
      overflow := s.overflow.filter (fun t => !(t.1 = vi && t.2.1 = tag)) }
    let s := s.modVi vi (fun v => { v with held := v.held.filter (fun h => !tasks.contains h) })
    let s := tasks.foldl (fun s t => s.endTaskBlocks t) s
    blks.foldl (fun s b => s.endBlock b) s

/-- Purge(RequestTag()) of a consumer (R163, R407): a service block that consumes poison ends alone. -/
def State.consumePoison (s : State) (r : FRef) (ia : Nat) : State :=
  let b := s.block r.blk
  if b.service then s.endBlock r.blk else s.startPurge b.vi b.tag 1 ia

/-! Freezing and trapping -/

/-- Does the block end because every fibre that has not ended is frozen (R174)? -/
def Block.allFrozen (b : Block) : Bool :=
  let fs := b.warps.flatMap (fun w => w.fibs.filter (fun f => f.st ≠ .ended))
  !fs.isEmpty && fs.all (fun f => f.st = .frozen)

/-- The block ends under R174: the event names a freeze, and the task is marked failed; its blocks not yet dispatched are
still dispatched. -/
def State.endFrozen (s : State) (b code : Nat) (rec' : FaultRec) : State :=
  let x := s.block b
  if x.ending then s
  else
    let s := s.event x.vi 2 code x.tag x.task rec'.tval (BitVec.ofNat 64 rec'.mid)
    let s := match s.tasks.find x.task with
      | some t => { s with tasks := s.tasks.set x.task { t with failed := true } }
      | none => s
    s.endBlock b

/-- Core cycles for which a fibre has been frozen while its block was resident (R174, R177). -/
def Fibre.frozenTime (f : Fibre) (now : Nat) : Nat := now - f.frozenAt + f.frozenFor

/-- The freeze of a block that came first: the longest freeze time, which a save keeps, then warp, then fibre (R174). -/
def Block.firstFrozen (b : Block) (now : Nat) : FaultRec :=
  let fs := b.warps.flatMap (fun w => w.fibs.filter (fun f => f.st = .frozen))
  (fs.foldl (fun acc f => match acc with
    | none => some f
    | some g => if g.frozenTime now < f.frozenTime now then some f else some g) none).elim {} Fibre.frec

/-- Freeze of R170. -/
def State.freeze (s : State) (r : FRef) (rc fc : Nat) (val : Dword) (resume : VA) (lanes : LaneSet) : State :=
  let fr := s.faultRec r rc fc val resume lanes
  let s := s.modFib r (fun f => { f with st := .frozen, frec := fr, frozenAt := s.now, frozenFor := 0, sec := none, stall := none, rel := f.fenceRel })
  let s := s.slotWrite r.blk (0x80 + 32 * (4 * r.warp + r.fib)) fr.bytes
  let s := s.raiseVec0 r.blk (BitVec.ofNat 32 (2 ^ r.warp ||| 2 ^ (16 + r.fib))) (s.fib r).ptime
  if (s.block r.blk).allFrozen then
    let fr := (s.block r.blk).firstFrozen s.now
    s.endFrozen r.blk fr.rc.toNat fr
  else s

/-- EnterTrap of R164; the lanes named move to the trap entry. -/
def State.enterTrap (s : State) (r : FRef) (cls : Nat) (val : Dword) (resume : VA) (lanes : LaneSet) (sw : Bool) : State :=
  let entry := (s.block r.blk).trapEntry.getD 0
  s.modFib r (fun f =>
    { (f.modLanes lanes (fun _ l => if l.exited then l else { l with pc := entry, handler := true })) with
      tpc := resume, tcause := BitVec.ofNat 6 (cls + (if sw then 16 else 0)), tval := val, trap := true, stall := none, rel := f.fenceRel })

/-- Latch of R167. -/
def Fibre.latch (f : Fibre) (cls : Nat) (val : Dword) : Fibre :=
  let bit : BitVec 12 := if cls = cFPX then 1 else if cls = cBPT then 2 else if cls = cWCH then 4 else 8
  let empty := f.tpend.extractLsb' 0 4 = 0
  { f with tpend := (if empty then (f.tpend &&& 0xFF) ||| (BitVec.ofNat 12 cls <<< 8) else f.tpend) ||| bit
           tpval := if empty then val else f.tpval }

/-- Is a fault of the class latched now (R163)? -/
def Fibre.latches (f : Fibre) (cls : Nat) : Bool :=
  f.trap && f.ra.isNone && (cls == cFPX || cls == cBPT || cls == cWCH || cls == cNPX)

/-- Raise of R163 for the path `lanes`, whose resume PC is given. -/
def State.raise (s : State) (r : FRef) (cls : Nat) (val : Dword) (resume : VA) (lanes : LaneSet) (sw : Bool) (ia : Nat) : State :=
  let f := s.fib r
  let b := s.block r.blk
  if f.ra.isSome then s.modFib r Fibre.endRunahead
  else if cls = cRNG then
    s.endTask b.task b.vi b.tag cRNG val (s.faultRec r cRNG cRNG val resume lanes).mid
  else if cls = cPOI then s.consumePoison r ia
  else if f.latches cls then s.modFib r (fun f => f.latch cls val)
  else if f.trap then s.freeze r cDBL cls val resume lanes
  else if b.trapEntry.isSome then s.enterTrap r cls val resume lanes sw
  else s.freeze r cls cls val resume lanes

/-- The lowest bit set of TPEND[3:0] as a class code (R168). -/
def lowestPend (x : BitVec 12) : Nat :=
  if x.getLsbD 0 then cFPX else if x.getLsbD 1 then cBPT else if x.getLsbD 2 then cWCH else cNPX

/-- The bit of TPEND that a class code names. -/
def pendBit (cls : Nat) : BitVec 12 := if cls = cFPX then 1 else if cls = cBPT then 2 else if cls = cWCH then 4 else 8

/-- Every lane parked on mask `j` is released if the mask is complete, and ARR becomes empty (R152). -/
def Fibre.testMask (f : Fibre) (j : Nat) : Fibre :=
  let m := f.mask j
  if m.arr ≠ 0 && m.enr &&& ~~~m.arr = 0 then
    { f with lanes := f.lanes.map (fun l => if l.park = some (BitVec.ofNat 3 j) then { l with park := none } else l)
             j := f.j.set j { m with arr := 0 } }
  else f

/-- Lanes leave ENR and ARR of a mask, as by RJX, and the mask is tested (R152). -/
def Fibre.strike (f : Fibre) (j : Nat) (ls : LaneSet) : Fibre :=
  let m := f.mask j
  ({ f with j := f.j.set j { enr := m.enr &&& ~~~ls, arr := m.arr &&& ~~~ls } }).testMask j

/-- The fibre leaves trap mode; the handler's lanes that have not exited go to TPC (R168, R205). A pending second error
re-enters at once. `entry` is the trap entry. Where no bit of TPEND remains, FIRST and %tpval become zero, which the rules say
only for bits that remain (DESIGN CHOICE, unsafe, log 69). -/
def Fibre.tret (f : Fibre) (entry : VA) : Fibre :=
  let mine := f.lanesWith (fun l => l.handler && !l.exited)
  let onMask (j : Nat) : LaneSet := f.lanesWith (fun l => l.handler && !l.exited && l.park == some (BitVec.ofNat 3 j))
  let parked := (List.range 8).filter (fun j => onMask j != 0)
  let f1 : Fibre := { f with lanes := f.lanes.map (fun (l : Lane) => if l.handler then { l with park := none } else l) }
  let f2 := parked.foldl (fun (g : Fibre) j => g.strike j (onMask j)) f1
  let f3 := f2.modLanes mine (fun _ l => { l with pc := f.tpc })
  let f4 : Fibre := { f3 with trap := false, lanes := f3.lanes.map (fun (l : Lane) => { l with handler := false }) }
  if f.tpend.extractLsb' 0 4 = 0 then f4
  else
    let first := (f.tpend >>> 8).toNat % 16
    let rest := f.tpend &&& 0xF &&& ~~~(pendBit first)
    let again := f4.lanesWith (fun l => !l.exited && l.park.isNone && l.pc == f.tpc)
    { f4.modLanes again (fun _ l => { l with pc := entry, handler := true }) with
      trap := true
      tcause := BitVec.ofNat 6 (first + 32)
      tval := f.tpval
      tpend := if rest = 0 then 0 else rest ||| (BitVec.ofNat 12 (lowestPend rest) <<< 8)
      tpval := 0 }

end Sys2Proof.Machine
end

