-- ==== Sys2Proof/Machine/Operands.lean ====
section
/-!
DEFINITION. Operands: how register operands resolve, in and out of trap mode (R16, R45, R165), and the value each
operand form gives a lane, with immediates (R46) and NEG and ABS (R26).
-/

namespace Sys2Proof.Machine

/-- Where an operand leads once resolved: a window index (R225), a uniform register, an immediate, a special. -/
inductive Loc where
  | no
  | v (i : Nat) (neg abs : Bool)
  | u (e : Nat) (neg abs : Bool)
  | imm (x : BitVec 16)
  | sp (k : Special)
deriving DecidableEq, Repr, Inhabited

/-- The effective number of a vector operand and its window index, or the value n of the IDX (R16, R165, R225). -/
def resolveV (b : Block) (fi : Nat) (trap : Bool) (x : Word) (n : Nat) (ix : Bool) (w : Nat) : Except Nat Nat :=
  let add : Int := if ix then x.toInt else 0
  let e : Int := (if n < 448 then (n : Int) else (n : Int) - 448) + add
  let bud := b.budgets.getD fi 0
  let lo : Int := if n < 448 && trap && 16 ≤ n then 16 else 0
  let hi : Int := if 448 ≤ n then b.shared else if trap && n < 16 then 16 else bud
  if lo ≤ e ∧ e + w ≤ hi ∧ e % w = 0 then
    .ok ((if 448 ≤ n then b.sharedBase else if trap && n < 16 then b.trapBase fi else b.privBase fi) + e.toNat)
  else .error n

/-- The effective number of a uniform operand (R45). -/
def resolveU (x : Word) (n : Nat) (ix : Bool) (w : Nat) : Except Nat Nat :=
  let e : Int := (n : Int) + (if ix then x.toInt else 0)
  if 0 ≤ e ∧ e + w ≤ 64 ∧ e % w = 0 then .ok e.toNat else .error n

/-- An operand of `w` registers resolved for a fibre. -/
def State.resolve (s : State) (r : FRef) (o : Operand) (w : Nat) : Except Nat Loc :=
  let f := s.fib r
  let w := if w = 0 then 1 else w
  match o with
  | .none => .ok .no
  | .v n ix neg abs => (resolveV (s.block r.blk) r.fib f.trap f.x n.toNat ix w).map (fun i => .v i neg abs)
  | .u n ix neg abs => (resolveU f.x n.toNat ix w).map (fun e => .u e neg abs)
  | .imm x => .ok (.imm x)
  | .sp k => .ok (.sp k)

/-- The bits an operand of a role takes from its registers: its format's width, or all of them. -/
def roleBits (r : Role) : Nat := if r.pk then 32 * r.w else if r.fmt.bits = 0 then 32 * r.w else min r.fmt.bits (32 * r.w)

/-- Absolute value, then negation, on a pattern of a role (R26). -/
def applyMods (r : Role) (neg abs : Bool) (x : Nat) : Nat :=
  let n := roleBits r
  let x := x % 2 ^ n
  if r.pk then
    let masks := (List.range (2 * r.w)).foldl (fun m k => m + 2 ^ (16 * k + 15)) 0
    let x := if abs then x &&& (2 ^ n - 1 - masks) else x
    if neg then x ^^^ masks else x
  else if r.fmt.isFloat then
    let x := if abs then x % 2 ^ (n - 1) else x
    if neg then x ^^^ 2 ^ (n - 1) else x
  else
    let x := if abs && decide (2 ^ (n - 1) ≤ x) then (2 ^ n - x) % 2 ^ n else x
    if neg then (2 ^ n - x) % 2 ^ n else x

/-- An FP16 payload converted exactly to a wider format; a signalling NaN stays one (R46). -/
def immFloat (t : Ty) (p : Nat) : Nat :=
  match decodeF .f16 p with
  | .nan sig =>
    let sgn := if signOf .f16 p then 2 ^ (t.bits - 1) else 0
    if sig then sgn + fEones t * 2 ^ fbits t + p % 2 ^ 10 * 2 ^ (fbits t - 10) else canonNaN t
  | v => (roundTo t v .rne).1

/-- The value of an immediate in a role (R46). -/
def immValue (r : Role) (x : BitVec 16) : Nat :=
  let p := x.toNat
  if r.pk then (List.range (2 * r.w)).foldl (fun m k => m + p * 2 ^ (16 * k)) 0
  else match r.fmt with
    | .f32 => immFloat .f32 p
    | .f64 => immFloat .f64 p
    | .f16 | .bf16 => p
    | .e4m3 | .e5m2 => p % 256
    | _ => wrapTo (roleBits r) (sext 16 p)

/-- `w` words of a vector register in one lane, as the fibre reads them. -/
def State.vval (s : State) (r : FRef) (i w lane : Nat) : Nat :=
  (List.range w).foldl (fun a k => a + (s.vreg r (i + k) lane).toNat * 2 ^ (32 * k)) 0

/-- The value of an operand for one lane. -/
def State.opVal (s : State) (r : FRef) (l : Loc) (ro : Role) (lane : Nat) : Nat :=
  match l with
  | .no => 0
  | .v i neg abs => applyMods ro neg abs (s.vval r i ro.w lane)
  | .u e neg abs => applyMods ro neg abs ((s.fib r).uval e ro.w)
  | .imm x => immValue ro x
  | .sp _ => 0

/-- Is a word that an operand reads in a lane poisoned (R213, R322)? -/
def State.opPoison (s : State) (r : FRef) (l : Loc) (ro : Role) (lane : Nat) : Bool :=
  match l with
  | .v i _ _ => (List.range ro.w).any (fun k => s.vpoison r (i + k) lane)
  | _ => false

/-- A predicate source of a lane, with its negate bit. -/
def lanePred (l : Lane) (n : BitVec 4) (neg : Bool) : Bool := l.pred n.toNat != neg
/-- A predicate source of a fibre, with its negate bit. -/
def unifPred (f : Fibre) (n : BitVec 4) (neg : Bool) : Bool := f.upred n.toNat != neg

/-- A write of a result of `w` registers to a destination, in one lane or to the uniform file. -/
def destEffs (d : Loc) (w lane v : Nat) : List Eff :=
  match d with
  | .v i _ _ => vregEffs i w lane v
  | .u e _ _ => uregEffs e w v
  | _ => []

/-- The lane and uniform predicates an instruction reads and writes. -/
structure PredUse where
  lr : List Nat := []
  lw : List Nat := []
  ur : List Nat := []
  uw : List Nat := []
deriving DecidableEq, Repr

/-- Is the class read with a uniform guard? (R54) -/
def clsUniform (c : Cls) : Bool := c == .u || c == .s

/-- The lane predicate, or the uniform predicate, an operand names. -/
def operandPred (o : Operand) (uniform : Bool) : List Nat :=
  match o with
  | .sp (.pred n _) => if uniform then [] else [n.toNat]
  | .sp (.upred n _) => if uniform then [n.toNat] else []
  | _ => []

/-- The predicate numbers X reads and writes. -/
def extPreds (x : Ext) : List Nat × List Nat :=
  match x with
  | .carry co _ ci _ => ([ci.toNat], [co.toNat])
  | .icmp _ _ pe _ pc _ => ([pc.toNat], [pe.toNat])
  | .select _ p _ => ([p.toNat], [])
  | .plog _ _ pe _ pc => ([pc.toNat], [pe.toNat])
  | .fcmp _ _ pe _ pc _ _ => ([pc.toNat], [pe.toNat])
  | _ => ([], [])

/-- Every predicate an instruction reads beside its guard, or writes (R58, R102). -/
def predUse (o : Op) (f : Ins) : PredUse :=
  let (xr, xw) := extPreds f.x
  let lr := operandPred f.a false ++ operandPred f.b false ++ (if o = .ptov then List.range 15 else [])
  let lw := operandPred f.d false ++ (if o = .vtop then (match f.b with
      | .imm m => (List.range 15).filter (fun i => m.getLsbD i)
      | _ => List.range 15) else [])
  let ur := operandPred f.a true ++ operandPred f.b true
  let uw := operandPred f.d true
  if clsUniform o.cls then { lr := lr, lw := lw, ur := ur ++ xr, uw := uw ++ xw }
  else { lr := lr ++ xr, lw := lw ++ xw, ur := ur, uw := uw }

end Sys2Proof.Machine
end

