-- ==== Sys2Proof/Machine/Flags.lean ====
section
/-!
DEFINITION. Flag computations: the enables and traps of FPCS (R36, R39), integer and float relations (R98, R108),
predicate combinations (R88), saturation (R22) and carries (R91).
-/

namespace Sys2Proof.Machine

/-- FTZ of FPCS (R36). -/
def fpcsFtz (x : Word) : Bool := x.getLsbD 16
/-- The trap enables of FPCS, at the flags' positions (R36). -/
def fpcsEnables (x : Word) : FFlags := x.extractLsb' 8 6
/-- The flag bits of FPCS (R36). -/
def fpcsFlags (x : Word) : FFlags := x.extractLsb' 0 6
/-- What a write of FPCS stores: reserved bits read as zero (R8, R36). -/
def fpcsStore (x : Word) : Word := x &&& 0x13F3F

/-- The flags a list of changes sets, over all lanes (R37). -/
def effFlags (es : List Eff) : FFlags := es.foldl (fun m e => match e with | .flags x => m ||| x | _ => m) 0

/-- The enabled flags an instruction set: a nonzero set raises FPX (R39). -/
def fpxSet (fpcs : Word) (es : List Eff) : FFlags := effFlags es &&& fpcsEnables fpcs

/-- An integer relation of R88; .num and .nan do not occur. -/
def cmpInt (c : Cmp) (a b : Int) : Bool :=
  match c with
  | .eq => a = b | .ne => a ≠ b | .lt => a < b | .le => a ≤ b | .gt => a > b | .ge => a ≥ b
  | .num => true | .nan => false

/-- BOP and LOP (R88). -/
def bopEval (o : Bop) (x y : Bool) : Bool :=
  match o with
  | .and => x && y
  | .or => x || y
  | .xor => x != y

/-- A float relation where an operand is a NaN (R108). -/
def relUnordered (c : Cmp) (u : Bool) : Bool :=
  match c with
  | .num => false
  | .nan => true
  | .eq | .ne | .lt | .le | .gt | .ge => u

/-- A float relation of two values that are not NaN, by their order (R108). -/
def relOrdered (c : Cmp) (x : Ordering) : Bool :=
  match c with
  | .eq => x == .eq
  | .ne => x != .eq
  | .lt => x == .lt
  | .le => x != .gt
  | .gt => x == .gt
  | .ge => x != .lt
  | .num => true
  | .nan => false

/-- A float relation with the flags it sets (R37, R108). -/
def cmpFloat (c : Cmp) (u : Bool) (a b : Val) : Bool × FFlags :=
  let nan := a.isNaN || b.isNaN
  let sig := a.isSNaN || b.isSNaN
  let ordered := c == .lt || c == .le || c == .gt || c == .ge
  (if nan then relUnordered c u else relOrdered c (vcmp a b), if sig || (nan && ordered && !u) then fIV else 0)

/-- `y` clamped to the range of an integer type, as a pattern (R22). -/
def satTo (ty : Ty) (y : Int) : Nat :=
  let w := ty.bits
  let lo : Int := if ty.signed then -(2 ^ (w - 1) : Nat) else 0
  let hi : Int := if ty.signed then (2 ^ (w - 1) : Nat) - 1 else (2 ^ w : Nat) - 1
  wrapTo w (if y < lo then lo else if hi < y then hi else y)

/-- `y` delivered to an integer type, with or without SAT (R90). -/
def deliverInt (sat : Bool) (ty : Ty) (y : Int) : Nat := if sat then satTo ty y else wrapTo ty.bits y

/-- IADDC and ISUBB (R91): the result and the carry or borrow out. -/
def carryOp (sub : Bool) (w a b : Nat) (cin : Bool) : Nat × Bool :=
  let y : Int := if sub then (a : Int) - b - (bit1 cin : Nat) else (a : Int) + b + (bit1 cin : Nat)
  (wrapTo w y, if sub then decide (y < 0) else decide ((2 ^ w : Nat) ≤ y))

end Sys2Proof.Machine
end

