-- ==== Sys2Proof/Machine/Issue.lean ====
section
/-!
DEFINITION. The issue of one instruction by one path: the checks of R61 in order, the scoreboard (R58, R307), stalls
(R156 to R158), the retirement of an instruction with its results, and the same in runahead (R211 to R222).
-/

namespace Sys2Proof.Machine

/-- An instruction that has passed steps 3 to 6 of R61: the issuing path, the active set, the operands resolved. -/
structure Ctx where
  s : State
  o : Op
  f : Ins
  r : FRef
  pc : VA
  late : Bool
  path : LaneSet
  act : LaneSet
  d : Loc
  a : Loc
  b : Loc
  c : Loc

/-- What an instruction on registers brings about, beside the advance of its path. -/
structure Res where
  effs : List Eff := []
  /-- Targets of active lanes of a control transfer. -/
  goto : List (Nat × VA) := []
  /-- Generators stepped. -/
  sr : List (Nat × Word) := []
  x : Option Word := none
  /-- A fault of steps 7 and 8. -/
  fault : Option (Nat × Dword) := none
  /-- Free values used. -/
  free : Nat := 0
  /-- Lanes whose result runahead marks invalid (R216). -/
  inv : LaneSet := 0
deriving Repr, Inhabited

/-- The fibre that issues. -/
def Ctx.fib (c : Ctx) : Fibre := c.s.fib c.r
/-- Its block. -/
def Ctx.blk (c : Ctx) : Block := c.s.block c.r.blk
/-- The lanes of the active set, ascending. -/
def Ctx.lanes (c : Ctx) : List Nat := lanesOf c.act
/-- The value of operand A in a lane. -/
def Ctx.va (c : Ctx) (l : Nat) : Nat := c.s.opVal c.r c.a (c.o.roles c.f).2.1 l
/-- The value of operand B in a lane. -/
def Ctx.vb (c : Ctx) (l : Nat) : Nat := c.s.opVal c.r c.b (c.o.roles c.f).2.2.1 l
/-- The value of operand C in a lane. -/
def Ctx.vc (c : Ctx) (l : Nat) : Nat := c.s.opVal c.r c.c (c.o.roles c.f).2.2.2 l
/-- The value of field D in a lane. -/
def Ctx.vd (c : Ctx) (l : Nat) : Nat := c.s.opVal c.r c.d (c.o.roles c.f).1 l
/-- Registers of the destination. -/
def Ctx.dw (c : Ctx) : Nat := (c.o.roles c.f).1.w

/-- Window indices an operand of `w` registers takes. -/
def Loc.vs (l : Loc) (w : Nat) : List Nat :=
  match l with
  | .v i _ _ => (List.range (max w 1)).map (i + ·)
  | _ => []
/-- Uniform registers an operand of `w` registers takes. -/
def Loc.us (l : Loc) (w : Nat) : List Nat :=
  match l with
  | .u e _ _ => (List.range (max w 1)).map (e + ·)
  | _ => []

/-- Vector registers the instruction reads or writes. -/
def Ctx.regsV (c : Ctx) : List Nat :=
  let (d, a, b, x) := c.o.roles c.f
  c.d.vs d.w ++ c.a.vs a.w ++ c.b.vs b.w ++ c.c.vs x.w
/-- Uniform registers the instruction reads or writes. -/
def Ctx.regsU (c : Ctx) : List Nat :=
  let (d, a, b, x) := c.o.roles c.f
  c.d.us d.w ++ c.a.us a.w ++ c.b.us b.w ++ c.c.us x.w
/-- Vector registers the instruction reads. -/
def Ctx.srcV (c : Ctx) : List Nat :=
  let (d, a, b, x) := c.o.roles c.f
  (if c.o.dSrc then c.d.vs d.w else []) ++ c.a.vs a.w ++ c.b.vs b.w ++ c.c.vs x.w
/-- Uniform registers the instruction reads. -/
def Ctx.srcU (c : Ctx) : List Nat :=
  let (d, a, b, x) := c.o.roles c.f
  (if c.o.dSrc then c.d.us d.w else []) ++ c.a.us a.w ++ c.b.us b.w ++ c.c.us x.w

/-- Does an outstanding entry meet a register, or a predicate of the fibre (R58)? Entries of uniform state cover the
whole fibre. -/
def Pend.meets (p : Pend) (fi : Nat) (vs us : List Nat) (u : PredUse) (act : LaneSet) : Bool :=
  p.dv.any (fun e => vs.contains e.1 && e.2 &&& act != 0) ||
  (p.fib == fi &&
    (p.dp.any (fun e => (u.lr.contains e.1 || u.lw.contains e.1) && e.2 &&& act != 0) ||
     p.du.any us.contains || p.dq.any (fun q => u.ur.contains q || u.uw.contains q)))

/-- Does the scoreboard of the slot hold the instruction back? -/
def Warp.hazard (w : Warp) (fi : Nat) (vs us : List Nat) (u : PredUse) (act : LaneSet) : Bool :=
  w.pend.any (fun e => e.2.meets fi vs us u act)

/-- Entries an instruction needs: one for each destination field (R307). -/
def entriesNeeded (o : Op) (f : Ins) : Nat :=
  (if o.dOnlySrc then 0 else match f.d with | .none => 0 | _ => 1) +
  (match f.x with | .carry co _ _ _ => if co = 15 then 0 else 1 | _ => 0) + (if o = .vtop then 1 else 0)

/-- Free entries of a slot (R307). -/
def Warp.freeEntries (w : Warp) : Nat := Config.scoreboard - (w.pend.map (fun e => e.2.entries)).sum

/-- Does the form switch on a stall (R158)? -/
def yields (o : Op) (f : Ins) : Bool := f.hnt.yf || o == .uiwait || o == .waita || o == .barw

/-- Is another fibre of the slot Ready? -/
def State.otherReady (s : State) (r : FRef) : Bool :=
  (s.warp r.blk r.warp).fibs.zipIdx.any (fun e => e.2 ≠ r.fib && e.1.st == .ready)

/-- A stall of R157: the path stays at the instruction, and the fibre waits if the stall switches (R156). -/
def State.stallAt (s : State) (r : FRef) (pc : VA) (o : Op) (f : Ins) : State :=
  s.modFib r (fun x => { x with stall := some ⟨pc, o, f⟩, st := if yields o f && s.otherReady r then .waiting else x.st })

/-- A path moves to the next instruction, and the issue is counted (R20, R159). -/
def State.advance (s : State) (r : FRef) (path : LaneSet) (pc : VA) : State :=
  s.modFib r (fun x => { (x.modLanes path (fun _ l => { l with pc := pc + 12 })) with
    stall := none, quantum := if x.ra.isSome then x.quantum else x.quantum + 1 })

/-- A path moves on for an instruction that was issued before: in an episode its lanes in the checkpoint do (R213, R222). -/
def State.landAdvance (s : State) (r : FRef) (path : LaneSet) (pc : VA) : State :=
  match (s.fib r).ra with
  | some e => s.modFib r (fun f => { f with ra := some { e with
      lanes0 := e.lanes0.mapIdx (fun i l => if path.getLsbD i then { l with pc := pc + 12 } else l) } })
  | none => s.advance r path pc

/-- A stall of the instruction that issues. -/
def Ctx.stall (c : Ctx) (s : State) : State := s.stallAt c.r c.pc c.o c.f
/-- The instruction retires from a state. -/
def Ctx.retire (c : Ctx) (s : State) : State := s.advance c.r c.path c.pc
/-- A fault of the instruction at its own address. -/
def Ctx.raise (c : Ctx) (cls : Nat) (val : Dword) : State := c.s.raise c.r cls val c.pc c.path false 0
/-- ILL at step 7, with the TVAL of R205. -/
def Ctx.ill (c : Ctx) : State := c.raise cILL (c.o.code.setWidth 64)

/-- A poisoned word among the sources in an active lane (R322)? -/
def Ctx.poisoned (c : Ctx) : Bool :=
  let (d, a, b, x) := c.o.roles c.f
  c.lanes.any (fun l => (c.o.dSrc && c.s.opPoison c.r c.d d l) || c.s.opPoison c.r c.a a l || c.s.opPoison c.r c.b b l ||
    c.s.opPoison c.r c.c x l)

/-- Results replaced by free values, numbered from `n` (R9, R62). -/
def garble (n : Nat) (es : List Eff) : List Eff :=
  es.zipIdx.map (fun e => match e.1 with
    | .vreg i l _ => .vreg i l (Config.freeWord (n + e.2))
    | .pred p l _ => .pred p l (Config.freeBool (n + e.2))
    | .ureg k _ => .ureg k (Config.freeWord (n + e.2))
    | .upred k _ => .upred k (Config.freeBool (n + e.2))
    | e => e)

/-- The scoreboard entries of results that are not written yet. -/
def pendOf (fi entries since : Nat) (es : List Eff) (body : PendBody) : Pend :=
  let add (m : Map LaneSet) (i l : Nat) : Map LaneSet := m.set i (m.get i 0 ||| oneLane l)
  es.foldl (fun p e => match e with
    | .vreg i l _ => { p with dv := add p.dv i l }
    | .vpoison i l => { p with dv := add p.dv i l }
    | .pred q l _ => if q = 15 then p else { p with dp := add p.dp q l }
    | .ureg n _ => { p with du := setAdd p.du n }
    | .upred n _ => if n = 15 then p else { p with dq := setAdd p.dq n }
    | .flags _ => p)
    { fib := fi, entries := entries, since := since, body := body }

/-- Adds an outstanding instruction to the slot; its number is `nextPend` before. -/
def State.addPend (s : State) (r : FRef) (p : Pend) : State :=
  s.modWarp r.blk r.warp (fun w => { w with pend := w.pend.set w.nextPend p, nextPend := w.nextPend + 1 })

/-- Moves the lanes of a control transfer to their targets (R181). -/
def State.jump (s : State) (r : FRef) (targets : List (Nat × VA)) : State :=
  s.modFib r (fun x => targets.foldl (fun x e => x.modLane e.1 (fun l => { l with pc := e.2 })) x)

/-- Writes stepped generators (R33, R34). -/
def State.stepSr (s : State) (r : FRef) (sr : List (Nat × Word)) : State :=
  s.modFib r (fun x => sr.foldl (fun x e => x.modLane e.1 (fun l => { l with sr := e.2 })) x)

/-- The state with `n` more free values used. -/
def State.useFree (s : State) (n : Nat) : State := { s with free := s.free + n }

/-- The state with the path advanced, targets reached, generators stepped and X written, before the results. -/
def Ctx.moved (c : Ctx) (x : Res) (n : Nat) : State :=
  let s := (((c.retire c.s).useFree n).jump c.r x.goto).stepSr c.r x.sr
  match x.x with
  | some v => s.modFib c.r (fun f => { f with x := v })
  | none => s

/-- Does the change write a destination, not a flag? -/
def Eff.isDest (e : Eff) : Bool := match e with | .flags _ => false | _ => true

/-- The entry of an instruction whose results are outstanding: VTOP's covers every predicate its mask names (R58, R102). -/
def Ctx.entryOf (c : Ctx) (es : List Eff) : Pend :=
  let p := pendOf c.r.fib (entriesNeeded c.o c.f) c.s.now es (.result es)
  if c.o = .vtop then { p with dp := (predUse c.o c.f).lw.map (fun q => (q, c.act)) } else p

/-- The state after an instruction on registers, outside runahead: the path moved, the results written now or left
outstanding, FPX or POI raised at the end (R39, R61 steps 9 and 10). A poisoned source leaves free values in the destinations
alone: no flag, no generator, no target of it (R62). POI of a poisoned register (R322) is raised for every form, those too for which R86
and R185 name no POI (DESIGN CHOICE, unsafe, log 67). Results stay outstanding only where no flag is enabled, so that none of
them raises FPX under a later FPCS (R40). -/
def Ctx.finish (c : Ctx) (x : Res) : State :=
  match x.fault with
  | some (cls, val) => c.raise cls val
  | none =>
    if c.poisoned then
      let effs := garble (c.s.free + x.free) (x.effs.filter Eff.isDest)
      ((c.moved { x with goto := [], sr := [] } (x.free + effs.length)).applyEffs c.r effs).raise c.r cPOI 0 c.pc c.path false 0
    else
      let s := c.moved x x.free
      let fpx := fpxSet c.fib.fpcs x.effs
      if c.late && fpcsEnables c.fib.fpcs == 0 && (!x.effs.isEmpty || c.o == .vtop) then s.addPend c.r (c.entryOf x.effs)
      else
        let s := s.applyEffs c.r x.effs
        if fpx ≠ 0 then
          s.raise c.r cFPX (fpx.setWidth 64) (c.pc + 12) ((s.fib c.r).path (c.pc + 12)) false 0
        else s

/-! Runahead -/

/-- The state after an instruction that ends the episode. -/
def Ctx.raEnd (c : Ctx) : State := c.s.modFib c.r Fibre.endRunahead

/-- Is a source of the instruction invalid in the lane (R214)? -/
def Ctx.srcInvalid (c : Ctx) (e : Episode) (l : Nat) : Bool :=
  let u := predUse c.o c.f
  c.srcV.any (fun i => e.inval.contains (64 * i + l)) || c.srcU.any e.sinval.contains ||
  u.lr.any (fun p => (e.pinval.get p 0).getLsbD l) || u.ur.any (fun q => e.qinval.getLsbD q) ||
  (e.xinval && (c.o == .addx ||
    [c.f.d, c.f.a, c.f.b, c.f.x.c].any (fun o => match o with | .v _ ix _ _ => ix | .u _ ix _ _ => ix | _ => false)))

/-- The lanes of the active set whose sources are all valid. -/
def Ctx.valid (c : Ctx) (e : Episode) : Ctx := { c with act := laneSet (c.lanes.filter (fun l => !c.srcInvalid e l)) }

/-- Does the runahead path keep a lane that is neither dormant nor exited (R214)? -/
def Fibre.raLive (f : Fibre) : Bool :=
  match f.ra with
  | some e => f.lanesWith (fun l => !l.exited) &&& ~~~e.dormant != 0
  | none => true

/-- The episode ends where no live lane is left (R214). -/
def State.raSettle (s : State) (r : FRef) : State := if (s.fib r).raLive then s else s.modFib r Fibre.endRunahead

/-- One change of state in the shadow, with its invalid bit (R213, R214). -/
def Episode.note (e : Episode) (f : Eff) (bad : Nat → Bool) (any : Bool) : Episode :=
  match f with
  | .vreg i l v => { e with entries := setAdd e.entries i, shadow := e.shadow.set (64 * i + l) v
                            inval := if bad l then setAdd e.inval (64 * i + l) else setDel e.inval (64 * i + l) }
  | .pred p l _ => if p = 15 then e else { e with pinval := e.pinval.set p (setBit (e.pinval.get p 0) l (bad l)) }
  | .ureg n _ => { e with sinval := if any then setAdd e.sinval n else setDel e.sinval n }
  | .upred n _ => { e with qinval := setBit e.qinval n any }
  | _ => e

/-- Shadow entries that new vector registers take: each begins with the architectural values of all its lanes. -/
def State.shadowFill (s : State) (r : FRef) (e : Episode) (is : List Nat) : Episode :=
  is.foldl (fun e i => if e.entries.contains i then e
    else { e with entries := setAdd e.entries i
                  shadow := (List.range (s.block r.blk).width).foldl (fun m l => m.set (64 * i + l) (s.reg r i l)) e.shadow }) e

/-- The vector registers a list of changes writes. -/
def effRegs (es : List Eff) : List Nat :=
  (es.filterMap (fun e => match e with | .vreg i _ _ => some i | .vpoison i _ => some i | _ => none)).eraseDups

/-- Sets the episode of a fibre. -/
def State.setEpisode (s : State) (r : FRef) (e : Episode) : State := s.modFib r (fun f => { f with ra := some e })

/-- An instruction on registers in runahead: executed into the shadow, or the end of the episode (R213 to R215). No flag is set in
runahead (R37), so one that would raise FPX (R39, R61 step 10) does not end the episode (DESIGN CHOICE, unsafe, log 84).
`force` marks every result invalid. -/
def Ctx.raFinish (c : Ctx) (e : Episode) (x : Res) (force : Bool) : State :=
  let b := c.blk
  let regs := effRegs x.effs
  let fresh := regs.filter (fun i => !e.entries.contains i)
  if x.fault.isSome || c.f.hnt.rx || (c.valid e).poisoned then c.raEnd
  else if regs.any (fun i => b.sharedBase ≤ i && i < b.sharedBase + b.shared) then c.raEnd
  else if c.fib.raC < e.entries.length + fresh.length then c.raEnd
  else
    let any := force || x.inv != 0 || c.lanes.any (c.srcInvalid e)
    let bad (l : Nat) : Bool := force || x.inv.getLsbD l || !x.sr.isEmpty || (if c.o.cls = .w then any else c.srcInvalid e l)
    let s := c.s.advance c.r c.path c.pc
    let plain := x.effs.filter (fun e => match e with | .flags _ => false | .vreg .. => false | .vpoison .. => false | _ => true)
    let s := (s.applyEffs c.r plain).jump c.r (x.goto.filter (fun g => !bad g.1))
    let s := match x.x with | some v => s.modFib c.r (fun f => { f with x := v }) | none => s
    let e := c.s.shadowFill c.r e fresh
    let e := x.effs.foldl (fun e f => e.note f bad any) e
    let lost := laneSet ((x.goto.filter (fun g => bad g.1)).map Prod.fst)
    let e := { e with dormant := e.dormant ||| lost, xinval := if x.x.isSome then any else e.xinval }
    (s.setEpisode c.r e).raSettle c.r

/-- Does the episode go on after the instruction? -/
def Ctx.raGoesOn (c : Ctx) (s : State) : Bool := (s.fib c.r).ra.isSome

/-- An instruction that retires with no effect in runahead; its destinations become invalid (R215): of a CAS, the first half of D, in
which it would leave the old value (R137). -/
def Ctx.raDrop (c : Ctx) (e : Episode) : State :=
  let w := if c.o.dOnlySrc then 0 else if c.o = .casg ∨ c.o = .cass then c.dw / 2 else c.dw
  let effs := match c.d with
    | .v i _ _ => c.lanes.flatMap (fun l => vregEffs i w l 0)
    | _ => []
  c.raFinish e { effs := effs } true

/-! The issue -/

/-- The feature a form belongs to, if it is not of the base (R468). -/
def featureBit (o : Op) : Option Nat :=
  match o with
  | .qcb4 | .dqcb4 | .cbld => some 2
  | .uisend | .uiwait | .uiack | .uihdlVi | .uihdlBlk | .uihdlMask | .pnotify => some 4
  | .pcpy | .patom => some 5
  | _ => none

/-- The lowest bit of the field for which a word is illegal in this block (R63, R468): a form withheld is charged to OPC. -/
def State.illegalBit (s : State) (service : Bool) (o : Op) (f : Ins) : Option Nat :=
  match featureBit o with
  | some b => if s.feature service b then o.illegal f else some 0
  | none => o.illegal f

/-- The operands of a form resolved, in the order D, A, B, C (R61 step 6). -/
def ctxLocs (s : State) (r : FRef) (o : Op) (f : Ins) : Except Nat (Loc × Loc × Loc × Loc) := do
  let (d, a, b, x) := o.roles f
  let ld ← s.resolve r f.d d.w
  let la ← s.resolve r f.a a.w
  let lb ← s.resolve r f.b b.w
  let lc ← s.resolve r f.x.c x.w
  pure (ld, la, lb, lc)

/-- The path that issues: in runahead without the dormant lanes. -/
def Fibre.issuePath (f : Fibre) (pc : VA) : LaneSet :=
  match f.ra with
  | some e => f.path pc &&& ~~~e.dormant
  | none => f.path pc

/-- Has the path at `pc` a presentation pending at the rendezvous latch (R282)? -/
def State.presented (s : State) (r : FRef) (pc : VA) : Bool :=
  (s.core (s.block r.blk).core).latches.any (fun g => g.blk == r.blk && g.fib == r.fib &&
    g.members.any (fun x => x.1.warp == r.warp && x.2.1.pc == pc))

/-- May the path issue at all now? One that has presented waits for the firing (R282). A fibre whose quantum has run out waits for the switch (R159), and one whose section
has been open for 65,536 cycles for its NPX (R317). -/
def State.mayIssue (s : State) (r : FRef) (pc : VA) : Bool :=
  let f := s.fib r
  f.st == .active && !s.held r && f.issuePath pc != 0 && !s.presented r pc && !(decide (256 ≤ f.quantum) && s.otherReady r) &&
    !f.sec.any (fun x => decide (x.2 + 65536 ≤ s.now)) &&
    (match f.rel with | some (some p, _) => p == pc || f.ra.isSome | _ => true)

/-- TVAL of an ILL at step 3 (R63). -/
def illVal (o : Op) (bit : Nat) : Dword := BitVec.ofNat 64 (o.code.toNat + bit * 2 ^ 16)

/-- The active set: the path's lanes whose guard is true, or the whole path under a true uniform guard (R54, R56), always
lanes of the warp. In runahead an invalid guard acts as false (R214). -/
def State.activeSet (s : State) (r : FRef) (o : Op) (f : Ins) (path : LaneSet) : LaneSet :=
  let fb := s.fib r
  let path := path &&& (s.block r.blk).allLanes
  if clsUniform o.cls then
    if unifPred fb f.grd.pred f.grd.neg && !(match fb.ra with | some e => e.qinval.getLsbD f.grd.pred.toNat | none => false)
    then path else 0
  else
    let bad := match fb.ra with | some e => e.pinval.get f.grd.pred.toNat 0 | none => 0
    path &&& ~~~bad &&& fb.lanesWith (fun l => lanePred l f.grd.pred f.grd.neg)

/-- The guard as a predicate use. -/
def guardUse (o : Op) (f : Ins) : PredUse :=
  if clsUniform o.cls then { ur := [f.grd.pred.toNat] } else { lr := [f.grd.pred.toNat] }

/-- Issues an instruction of the fibre and PC named by `cur` (R61): `ra` in runahead, `k` otherwise. A fibre that may
not issue leaves the state as it is. -/
def issueWith (o : Op) (f : Ins) (s : State) (ra : Ctx → Episode → State) (k : Ctx → State) :
    Host.Outcome State Fault Refusal :=
  let r := s.cur.ref
  let pc := s.cur.pc
  let fb := s.fib r
  let path := fb.issuePath pc
  if !s.mayIssue r pc then .next s
  else if fb.ra.isSome && f.hnt.rx then .next (s.modFib r Fibre.endRunahead)
  else match s.illegalBit (s.block r.blk).service o f with
  | some bit => .next (s.raise r cILL (illVal o bit) pc path false 0)
  | none =>
    if o.cls = .s && !(s.block r.blk).service then .next (s.raise r cPRV (o.code.setWidth 64) pc path false 0)
    else if fb.ra.isNone && (s.warp r.blk r.warp).hazard r.fib [] [] (guardUse o f) path then .next (s.stallAt r pc o f)
    else
      let act := s.activeSet r o f path
      if act = 0 then .next (s.advance r path pc)
      else match ctxLocs s r o f with
      | .error n => .next (s.raise r cIDX (BitVec.ofNat 64 n) pc path false 0)
      | .ok (ld, la, lb, lc) =>
        let c : Ctx := { s := s, o := o, f := f, r := r, pc := pc, late := s.cur.late, path := path, act := act,
                         d := ld, a := la, b := lb, c := lc }
        match fb.ra with
        | some e => .next (ra c e)
        | none =>
          let all := if clsUniform o.cls then BitVec.allOnes 64 else act
          let w := s.warp r.blk r.warp
          if w.hazard r.fib c.regsV c.regsU (predUse o f) all || w.freeEntries < entriesNeeded o f then .next (c.stall s)
          else .next (k c)

/-- An instruction that acts on registers alone, executed in runahead too (R215). -/
def regOp (o : Op) (f : Ins) (s : State) (k : Ctx → Res) : Host.Outcome State Fault Refusal :=
  issueWith o f s (fun c e => c.raFinish e (k c) false) (fun c => c.finish (k c))

/-- An instruction that ends an episode (R215). -/
def sysOp (o : Op) (f : Ins) (s : State) (k : Ctx → State) : Host.Outcome State Fault Refusal :=
  issueWith o f s (fun c _ => c.raEnd) k

/-- What one lane of an instruction sees. -/
structure LaneIn where
  a : Nat
  b : Nat
  c : Nat
  d : Nat
  lane : Nat
  l : Lane
  fpcs : Word
  free : Nat
deriving Repr

/-- What one lane of an instruction computes. -/
structure LaneOut where
  v : Option Nat := none
  preds : List (Nat × Bool) := []
  fl : FFlags := 0
  sr : Option Word := none
deriving Repr, Inhabited

/-- The values a lane sees. -/
def Ctx.laneIn (c : Ctx) (l : Nat) : LaneIn :=
  { a := c.va l, b := c.vb l, c := c.vc l, d := if c.o.dSrc then c.vd l else 0, lane := l, l := c.fib.lane l,
    fpcs := c.fib.fpcs, free := c.s.free }

/-- The changes one lane's result makes. -/
def laneEffs (d : Loc) (w lane : Nat) (x : LaneOut) : List Eff :=
  (match x.v with | some v => destEffs d w lane v | none => []) ++ x.preds.map (fun p => .pred p.1 lane p.2) ++
    (if x.fl = 0 then [] else [.flags x.fl])

/-- The result of a class L instruction: one computation in each active lane (R54). -/
def Ctx.laneRes (c : Ctx) (g : LaneIn → LaneOut) : Res :=
  let outs := c.lanes.map (fun l => (l, g (c.laneIn l)))
  { effs := outs.flatMap (fun e => laneEffs c.d c.dw e.1 e.2)
    sr := outs.filterMap (fun e => e.2.sr.map (fun v => (e.1, v))) }

/-- A class L instruction on registers. -/
def laneOp (o : Op) (f : Ins) (s : State) (g : LaneIn → LaneOut) : Host.Outcome State Fault Refusal :=
  regOp o f s (fun c => c.laneRes g)

/-- A class U instruction on uniform registers, computed once with q0 to q14 in the place of lane predicates (R209). -/
def unifOp (o : Op) (f : Ins) (s : State) (g : LaneIn → LaneOut) : Host.Outcome State Fault Refusal :=
  regOp o f s (fun c =>
    let x := g { (c.laneIn 0) with l := { preds := c.fib.q } }
    { effs := (match x.v with | some v => destEffs c.d c.dw 0 v | none => []) ++ x.preds.map (fun p => .upred p.1 p.2) })

end Sys2Proof.Machine
end

