-- ==== Sys2Proof/Machine/LaneInt.lean ====
section
/-!
DEFINITION. The lane instructions on integers, bits and predicates (R90 to R102), one meaning for each form.
-/

namespace Sys2Proof.Machine

/-- A form whose result is an exact integer delivered to a type (R90). -/
def intOut (sat : Bool) (t : Ty) (y : Int) : LaneOut := { v := some (deliverInt sat t y) }

/-- IADD. -/
def execIadd (f : Ins) (s : State) := laneOp .iadd f s (fun i => let t := f.x.ty; intOut f.x.sat t (intVal t i.a + intVal t i.b))
/-- ISUB. -/
def execIsub (f : Ins) (s : State) := laneOp .isub f s (fun i => let t := f.x.ty; intOut f.x.sat t (intVal t i.a - intVal t i.b))
/-- IMUL. -/
def execImul (f : Ins) (s : State) := laneOp .imul f s (fun i => let t := f.x.ty; intOut f.x.sat t (intVal t i.a * intVal t i.b))
/-- IMULH: the high half of the product. -/
def execImulh (f : Ins) (s : State) := laneOp .imulh f s (fun i =>
  let t := f.x.ty; intOut false t ((intVal t i.a * intVal t i.b) / ((2 ^ t.bits : Nat) : Int)))

/-- IADDC and ISUBB on one lane (R91). -/
def carryOut (sub : Bool) (f : Ins) (i : LaneIn) : LaneOut :=
  match f.x with
  | .carry co cin ci t =>
    let (v, c) := carryOp sub t.bits i.a i.b (lanePred i.l ci cin)
    { v := some v, preds := [(co.toNat, c)] }
  | _ => {}
/-- IADDC. -/
def execIaddc (f : Ins) (s : State) := laneOp .iaddc f s (carryOut false f)
/-- ISUBB. -/
def execIsubb (f : Ins) (s : State) := laneOp .isubb f s (carryOut true f)

/-- IMAD. -/
def execImad (f : Ins) (s : State) := laneOp .imad f s (fun i =>
  let t := mTy f.x.m; intOut f.x.sat t (intVal t i.a * intVal t i.b + intVal t i.c))
/-- IMADW: 32-bit factors, a 64-bit addend and result. -/
def execImadw (f : Ins) (s : State) := laneOp .imadw f s (fun i =>
  let t := mTy f.x.m
  let w := if t = .n32 then Ty.n64 else .i64
  intOut f.x.sat w (intVal t i.a * intVal t i.b + intVal w i.c))
/-- IMIN. -/
def execImin (f : Ins) (s : State) := laneOp .imin f s (fun i => let t := f.x.ty; intOut false t (min (intVal t i.a) (intVal t i.b)))
/-- IMAX. -/
def execImax (f : Ins) (s : State) := laneOp .imax f s (fun i => let t := f.x.ty; intOut false t (max (intVal t i.a) (intVal t i.b)))
/-- IABS. -/
def execIabs (f : Ins) (s : State) := laneOp .iabs f s (fun i => let t := f.x.ty; intOut f.x.sat t ((intVal t i.a).natAbs : Nat))
/-- INEG. -/
def execIneg (f : Ins) (s : State) := laneOp .ineg f s (fun i => let t := f.x.ty; intOut f.x.sat t (-(intVal t i.a)))
/-- ICLAMP. -/
def execIclamp (f : Ins) (s : State) := laneOp .iclamp f s (fun i =>
  let t := mTy f.x.m; intOut false t (min (max (intVal t i.a) (intVal t i.b)) (intVal t i.c)))
/-- ISAD. -/
def execIsad (f : Ins) (s : State) := laneOp .isad f s (fun i =>
  let t := mTy f.x.m; intOut f.x.sat t (((intVal t i.a - intVal t i.b).natAbs : Nat) + intVal t i.c))

/-- The dot product of `n` elements of `w` bits, signed as SG says (R90). -/
def dotOut (f : Ins) (n w : Nat) (i : LaneIn) : LaneOut :=
  let sg := f.x.m % 8
  let el (signed : Bool) (x k : Nat) : Int := if signed then sext w (bitsOf x (w * k) w) else bitsOf x (w * k) w
  let y := (List.range n).foldl (fun (acc : Int) k => acc + el (sg ≤ 1) i.a k * el (sg % 2 == 0) i.b k) 0
  intOut f.x.sat .i32 (y + sext 32 i.c)
/-- IDP4. -/
def execIdp4 (f : Ins) (s : State) := laneOp .idp4 f s (dotOut f 4 8)
/-- IDP2. -/
def execIdp2 (f : Ins) (s : State) := laneOp .idp2 f s (dotOut f 2 16)

/-- NOT at the width of a type. -/
def notAt (t : Ty) (x : Nat) : Nat := 2 ^ t.bits - 1 - x % 2 ^ t.bits
/-- AND. -/
def execAnd (f : Ins) (s : State) := laneOp .and f s (fun i => { v := some (i.a &&& i.b) })
/-- OR. -/
def execOr (f : Ins) (s : State) := laneOp .or f s (fun i => { v := some (i.a ||| i.b) })
/-- XOR. -/
def execXor (f : Ins) (s : State) := laneOp .xor f s (fun i => { v := some (i.a ^^^ i.b) })
/-- ANDN: a AND NOT b. -/
def execAndn (f : Ins) (s : State) := laneOp .andn f s (fun i => { v := some (i.a &&& notAt f.x.ty i.b) })
/-- ORN: a OR NOT b. -/
def execOrn (f : Ins) (s : State) := laneOp .orn f s (fun i => { v := some (i.a ||| notAt f.x.ty i.b) })
/-- NOT. -/
def execNot (f : Ins) (s : State) := laneOp .not f s (fun i => { v := some (notAt f.x.ty i.a) })

/-- A number from the bits a function gives, bit 0 first. -/
def ofBits (n : Nat) (g : Nat → Bool) : Nat := (List.range n).foldl (fun acc i => if g i then acc + 2 ^ i else acc) 0

/-- BLUT on one lane (R92): bit k of the table for a = k[0], b = k[1], old D = k[2]. -/
def blutOut (f : Ins) (i : LaneIn) : LaneOut :=
  match f.x with
  | .lut v t =>
    { v := some (ofBits t.bits (fun k => v.getLsbD (bit1 (i.a.testBit k) + 2 * bit1 (i.b.testBit k) + 4 * bit1 (i.d.testBit k)))) }
  | _ => {}
/-- BLUT. -/
def execBlut (f : Ins) (s : State) := laneOp .blut f s (blutOut f)

/-- Shifts and rotates of a value of width `w` by a count (R93). -/
def shlAt (w a c : Nat) : Nat := if c < w then a * 2 ^ c % 2 ^ w else 0
/-- A logical shift right. -/
def shrAt (w a c : Nat) : Nat := if c < w then a / 2 ^ c else 0
/-- An arithmetic shift right: a count of the width or more copies the sign. -/
def sarAt (w a c : Nat) : Nat := wrapTo w (sext w a / ((2 ^ (min c (w - 1)) : Nat) : Int))
/-- A rotate left. -/
def rolAt (w a c : Nat) : Nat := let k := c % w; (a * 2 ^ k % 2 ^ w) ||| (a / 2 ^ (w - k))
/-- SHL. -/
def execShl (f : Ins) (s : State) := laneOp .shl f s (fun i => { v := some (shlAt f.x.ty.bits i.a i.b) })
/-- SHR. -/
def execShr (f : Ins) (s : State) := laneOp .shr f s (fun i => { v := some (shrAt f.x.ty.bits i.a i.b) })
/-- SAR. -/
def execSar (f : Ins) (s : State) := laneOp .sar f s (fun i => { v := some (sarAt f.x.ty.bits i.a i.b) })
/-- ROL. -/
def execRol (f : Ins) (s : State) := laneOp .rol f s (fun i => { v := some (rolAt f.x.ty.bits i.a i.b) })
/-- ROR. -/
def execRor (f : Ins) (s : State) := laneOp .ror f s (fun i =>
  let w := f.x.ty.bits; { v := some (rolAt w i.a (w - i.b % w)) })

/-- The count of FSHL and FSHR (R94). -/
def funnelCount (f : Ins) (c : Nat) : Nat := if f.x.m % 2 = 1 then min c 32 else c % 32
/-- FSHL. -/
def execFshl (f : Ins) (s : State) := laneOp .fshl f s (fun i =>
  { v := some ((i.a * 2 ^ 32 + i.b) * 2 ^ (funnelCount f i.c) / 2 ^ 32 % 2 ^ 32) })
/-- FSHR. -/
def execFshr (f : Ins) (s : State) := laneOp .fshr f s (fun i =>
  { v := some ((i.a * 2 ^ 32 + i.b) / 2 ^ (funnelCount f i.c) % 2 ^ 32) })

/-- BFE of R95: bits beyond the width are the sign for .i types, else zero. -/
def bfeAt (t : Ty) (a pos len : Nat) : Nat :=
  let w := t.bits
  let len := min len w
  if len = 0 then 0
  else
    let fld := ofBits len (fun i => if pos + i < w then a.testBit (pos + i) else t.signed && a.testBit (w - 1))
    if t.signed then wrapTo w (sext len fld) else fld
/-- BFE. -/
def execBfe (f : Ins) (s : State) := laneOp .bfe f s (fun i =>
  { v := some (bfeAt f.x.ty i.a (bitsOf i.b 0 8) (bitsOf i.b 8 8)) })
/-- BFI: c with bits of a put in (R95). -/
def execBfi (f : Ins) (s : State) := laneOp .bfi f s (fun i =>
  let pos := bitsOf i.b 0 8
  let len := min (bitsOf i.b 8 8) 32
  { v := some (ofBits 32 (fun k => if pos ≤ k && k < pos + len then i.a.testBit (k - pos) else i.c.testBit k)) })
/-- BMSK (R95). -/
def execBmsk (f : Ins) (s : State) := laneOp .bmsk f s (fun i =>
  { v := some (ofBits f.x.ty.bits (fun k => decide (i.a ≤ k) && decide (k < i.a + i.b))) })

/-- The number of ones. -/
def popcOf (w x : Nat) : Nat := ((List.range w).filter x.testBit).length
/-- Zeros above the highest one; the width for zero (R96). -/
def clzOf (w x : Nat) : Nat := w - bitLen (x % 2 ^ w)
/-- Zeros below the lowest one; the width for zero (R96). -/
def ctzOf (w x : Nat) : Nat := ((List.range w).find? x.testBit).getD w
/-- BREV. -/
def execBrev (f : Ins) (s : State) := laneOp .brev f s (fun i =>
  let w := f.x.ty.bits; { v := some (ofBits w (fun k => i.a.testBit (w - 1 - k))) })
/-- POPC. -/
def execPopc (f : Ins) (s : State) := laneOp .popc f s (fun i => { v := some (popcOf f.x.ty.bits i.a) })
/-- CLZ. -/
def execClz (f : Ins) (s : State) := laneOp .clz f s (fun i => { v := some (clzOf f.x.ty.bits i.a) })
/-- CTZ. -/
def execCtz (f : Ins) (s : State) := laneOp .ctz f s (fun i => { v := some (ctzOf f.x.ty.bits i.a) })

/-- Byte `n` of {c, a}: 0 to 3 are those of a, 4 to 7 those of c (R97). -/
def permByte (a c n : Nat) : Nat := if n < 4 then bitsOf a (8 * n) 8 else bitsOf c (8 * (n - 4)) 8
/-- One result byte of PRMT: the byte its selector names, or the byte's sign eight times (R97). -/
def permOne (a c n : Nat) : Nat :=
  let v := permByte a c (n % 8)
  if 8 ≤ n then (if 128 ≤ v then 255 else 0) else v
/-- PRMT of R97. -/
def prmtAt (a c sel : Nat) : Nat := (List.range 4).foldl (fun acc i => acc + permOne a c (bitsOf sel (4 * i) 4) * 2 ^ (8 * i)) 0
/-- PRMT. -/
def execPrmt (f : Ins) (s : State) := laneOp .prmt f s (fun i => { v := some (prmtAt i.a i.c (i.b % 65536)) })

/-- The predicate number a destination field names. -/
def predDest (o : Operand) : Nat :=
  match o with
  | .sp (.pred n _) => n.toNat
  | .sp (.upred n _) => n.toNat
  | _ => 15

/-- ICMPP on one lane (R98). -/
def icmpOut (f : Ins) (i : LaneIn) : LaneOut :=
  match f.x with
  | .icmp c b pe pcn pc t =>
    let r := cmpInt c (intVal t i.a) (intVal t i.b)
    let p := lanePred i.l pc pcn
    { preds := [(predDest f.d, bopEval b r p), (pe.toNat, bopEval b (!r) p)] }
  | _ => {}
/-- ICMPP. -/
def execIcmpp (f : Ins) (s : State) := laneOp .icmpp f s (icmpOut f)
/-- ISET. -/
def execIset (f : Ins) (s : State) := laneOp .iset f s (fun i =>
  match f.x with
  | .iset c one t => { v := some (if cmpInt c (intVal t i.a) (intVal t i.b) then (if one then 1 else 0xFFFFFFFF) else 0) }
  | _ => {})
/-- SEL on one lane (R100). -/
def selOut (f : Ins) (i : LaneIn) : LaneOut :=
  match f.x with
  | .select pn p _ => { v := some (if lanePred i.l p pn then i.a else i.b) }
  | _ => {}
/-- SEL. -/
def execSel (f : Ins) (s : State) := laneOp .sel f s (selOut f)
/-- MOV. -/
def execMov (f : Ins) (s : State) := laneOp .mov f s (fun i => { v := some i.a })
/-- The 32-bit immediate of B and X (R46). -/
def immWide (f : Ins) : Nat :=
  (match f.x with | .immHi h => h.toNat * 65536 | _ => 0) + (match f.b with | .imm l => l.toNat | _ => 0)
/-- MOVI. -/
def execMovi (f : Ins) (s : State) := laneOp .movi f s (fun _ => { v := some (immWide f) })
/-- LEA on one lane (R101). -/
def leaOut (f : Ins) (i : LaneIn) : LaneOut :=
  match f.x with
  | .lea sh t => { v := some (wrapTo t.bits ((i.b : Int) + (if t = .i64 then sext 32 i.a else (i.a : Int)) * ((2 ^ sh.toNat : Nat) : Int))) }
  | _ => {}
/-- LEA. -/
def execLea (f : Ins) (s : State) := laneOp .lea f s (leaOut f)

/-- A predicate operand of a lane. -/
def spPred (o : Operand) (l : Lane) : Bool :=
  match o with
  | .sp (.pred n neg) => lanePred l n neg
  | _ => false
/-- PSETP (R99). -/
def execPsetp (f : Ins) (s : State) := laneOp .psetp f s (fun i =>
  match f.x with
  | .plog lop bop pe pcn pc =>
    let v := bopEval lop (spPred f.a i.l) (spPred f.b i.l)
    let p := lanePred i.l pc pcn
    { preds := [(predDest f.d, bopEval bop v p), (pe.toNat, bopEval bop (!v) p)] }
  | _ => {})
/-- PTOV (R102). -/
def execPtov (f : Ins) (s : State) := laneOp .ptov f s (fun i => { v := some (i.l.preds.toNat + 32768) })
/-- VTOP (R102). -/
def execVtop (f : Ins) (s : State) := laneOp .vtop f s (fun i =>
  { preds := ((List.range 15).filter i.b.testBit).map (fun k => (k, i.a.testBit k)) })

end Sys2Proof.Machine
end

