-- ==== Sys2Proof/Machine/LaneFloat.lean ====
section
/-!
DEFINITION. The lane instructions on floating point, conversions, packing and codebooks (R103 to R118), and TBLEV
(R123, R124), one meaning for each form.
-/

namespace Sys2Proof.Machine

/-- A rounding with its generator: a stochastic one steps the lane's generator once (R33, R34). -/
def roundStep (ftz : Bool) (t : Ty) (v : Val) (mode : Rnd) (sr : Word) : Nat × FFlags × Word :=
  if mode = .sr then
    let sr := srStep sr
    let (p, fl) := roundFtz ftz t v mode (srBits sr)
    (p, fl, sr)
  else
    let (p, fl) := roundFtz ftz t v mode
    (p, fl, sr)

/-- One element of an arithmetic form (R106): the exact value of `g` on decoded operands, IV for signalling NaNs. -/
def floatElem (ftz : Bool) (t : Ty) (mode : Rnd) (sr : Word) (xs : List Nat) (g : List Val → Val × FFlags) : Nat × FFlags × Word :=
  let vs := xs.map (fun x => decodeF t (ftzIn ftz x))
  let (y, fl) := g vs
  let (p, fl2, sr) := roundStep ftz t y mode sr
  (p, fl ||| fl2 ||| snanFlag vs, sr)

/-- A sum. -/
def gAdd (mode : Rnd) (vs : List Val) : Val × FFlags := vadd (mode == .rd) (vs.getD 0 default) (vs.getD 1 default)
/-- A difference. -/
def gSub (mode : Rnd) (vs : List Val) : Val × FFlags := vadd (mode == .rd) (vs.getD 0 default) (vs.getD 1 default).negate
/-- A product. -/
def gMul (vs : List Val) : Val × FFlags := vmul (vs.getD 0 default) (vs.getD 1 default)
/-- A product and a sum with one rounding; 0 × ∞ is invalid even beside a quiet NaN (R106; the table of R106 over its
pseudocode: DEDUCED, log 10). -/
def gFma (mode : Rnd) (vs : List Val) : Val × FFlags :=
  let a := vs.getD 0 default
  let b := vs.getD 1 default
  let c := vs.getD 2 default
  let (p, fl) := vmul a b
  let (y, fl2) := vadd (mode == .rd) p c
  (y, fl ||| fl2)

/-- A form on one element with an FP32 or FP64 result. -/
def floatOut (ftz : Bool) (t : Ty) (mode : Rnd) (xs : List Nat) (g : List Val → Val × FFlags) (i : LaneIn) : LaneOut :=
  let (p, fl, sr) := floatElem ftz t mode i.l.sr xs g
  { v := some p, fl := fl, sr := if mode = .sr then some sr else none }

/-- A packed form on two elements, element 0 first (R106, R34). -/
def packOut (t : Ty) (mode : Rnd) (xs : List Nat) (g : List Val → Val × FFlags) (i : LaneIn) : LaneOut :=
  let (p0, f0, s0) := floatElem false t mode i.l.sr (xs.map (fun x => bitsOf x 0 16)) g
  let (p1, f1, s1) := floatElem false t mode s0 (xs.map (fun x => bitsOf x 16 16)) g
  { v := some (p0 + p1 * 65536), fl := f0 ||| f1, sr := if mode = .sr then some s1 else none }

/-- The rounding code in M of FFMA and DFMA, or in M[3:1] of PFMA2 (R105). -/
def rndM (n : Nat) : Rnd := match n with | 1 => .rz | 2 => .ru | 3 => .rd | 4 => .sr | _ => .rne

/-- FADD. -/
def execFadd (f : Ins) (s : State) := laneOp .fadd f s (fun i => floatOut (fpcsFtz i.fpcs) .f32 f.x.rnd [i.a, i.b] (gAdd f.x.rnd) i)
/-- FSUB. -/
def execFsub (f : Ins) (s : State) := laneOp .fsub f s (fun i => floatOut (fpcsFtz i.fpcs) .f32 f.x.rnd [i.a, i.b] (gSub f.x.rnd) i)
/-- FMUL. -/
def execFmul (f : Ins) (s : State) := laneOp .fmul f s (fun i => floatOut (fpcsFtz i.fpcs) .f32 f.x.rnd [i.a, i.b] gMul i)
/-- FFMA. -/
def execFfma (f : Ins) (s : State) := laneOp .ffma f s (fun i =>
  let m := rndM f.x.m; floatOut (fpcsFtz i.fpcs) .f32 m [i.a, i.b, i.c] (gFma m) i)
/-- DADD. -/
def execDadd (f : Ins) (s : State) := laneOp .dadd f s (fun i => floatOut false .f64 f.x.rnd [i.a, i.b] (gAdd f.x.rnd) i)
/-- DMUL. -/
def execDmul (f : Ins) (s : State) := laneOp .dmul f s (fun i => floatOut false .f64 f.x.rnd [i.a, i.b] gMul i)
/-- DFMA. -/
def execDfma (f : Ins) (s : State) := laneOp .dfma f s (fun i =>
  let m := rndM f.x.m; floatOut false .f64 m [i.a, i.b, i.c] (gFma m) i)
/-- PADD2. -/
def execPadd2 (f : Ins) (s : State) := laneOp .padd2 f s (fun i => packOut f.x.ty f.x.rnd [i.a, i.b] (gAdd f.x.rnd) i)
/-- PMUL2. -/
def execPmul2 (f : Ins) (s : State) := laneOp .pmul2 f s (fun i => packOut f.x.ty f.x.rnd [i.a, i.b] gMul i)
/-- PFMA2. -/
def execPfma2 (f : Ins) (s : State) := laneOp .pfma2 f s (fun i =>
  let m := rndM (f.x.m / 2); packOut (pkTy (f.x.m % 2 == 1)) m [i.a, i.b, i.c] (gFma m) i)

/-- a × 2^b; the exponent is held within bounds beyond which no result differs (R106). -/
def gScale (b : Int) (vs : List Val) : Val × FFlags :=
  match vs.getD 0 default with
  | .fin n m e => (.fin n m (e + max (-1000) (min 1000 b)), 0)
  | v => (v, 0)
/-- FSCALE. -/
def execFscale (f : Ins) (s : State) := laneOp .fscale f s (fun i =>
  floatOut (fpcsFtz i.fpcs) .f32 f.x.rnd [i.a] (gScale (sext 32 i.b)) i)

/-- Minimum or maximum of one element, with IV for a signalling NaN (R107). -/
def minmaxElem (hi ftz : Bool) (t : Ty) (x y : Nat) : Nat × FFlags :=
  let x := ftzIn ftz x
  let y := ftzIn ftz y
  (if hi then fmaxPat t x y else fminPat t x y, snanFlag [decodeF t x, decodeF t y])
/-- A minimum or maximum of scalars. -/
def minmaxOut (hi ftz : Bool) (t : Ty) (i : LaneIn) : LaneOut :=
  let (p, fl) := minmaxElem hi ftz t i.a i.b
  { v := some p, fl := fl }
/-- A minimum or maximum of packed elements. -/
def minmaxPack (hi : Bool) (t : Ty) (i : LaneIn) : LaneOut :=
  let (p0, f0) := minmaxElem hi false t (bitsOf i.a 0 16) (bitsOf i.b 0 16)
  let (p1, f1) := minmaxElem hi false t (bitsOf i.a 16 16) (bitsOf i.b 16 16)
  { v := some (p0 + p1 * 65536), fl := f0 ||| f1 }
/-- FMIN. -/
def execFmin (f : Ins) (s : State) := laneOp .fmin f s (fun i => minmaxOut false (fpcsFtz i.fpcs) .f32 i)
/-- FMAX. -/
def execFmax (f : Ins) (s : State) := laneOp .fmax f s (fun i => minmaxOut true (fpcsFtz i.fpcs) .f32 i)
/-- DMIN. -/
def execDmin (f : Ins) (s : State) := laneOp .dmin f s (minmaxOut false false .f64)
/-- DMAX. -/
def execDmax (f : Ins) (s : State) := laneOp .dmax f s (minmaxOut true false .f64)
/-- PMIN2. -/
def execPmin2 (f : Ins) (s : State) := laneOp .pmin2 f s (minmaxPack false f.x.ty)
/-- PMAX2. -/
def execPmax2 (f : Ins) (s : State) := laneOp .pmax2 f s (minmaxPack true f.x.ty)

/-- A float compare with two predicate destinations (R108). -/
def fcmpOut (ftz : Bool) (t : Ty) (f : Ins) (i : LaneIn) : LaneOut :=
  match f.x with
  | .fcmp c b pe pcn pc u _ =>
    let (r, fl) := cmpFloat c u (decodeF t (ftzIn ftz i.a)) (decodeF t (ftzIn ftz i.b))
    let p := lanePred i.l pc pcn
    { preds := [(predDest f.d, bopEval b r p), (pe.toNat, bopEval b (!r) p)], fl := fl }
  | _ => {}
/-- FSETP. -/
def execFsetp (f : Ins) (s : State) := laneOp .fsetp f s (fun i => fcmpOut (fpcsFtz i.fpcs) .f32 f i)
/-- DSETP. -/
def execDsetp (f : Ins) (s : State) := laneOp .dsetp f s (fcmpOut false .f64 f)
/-- PSETP2: one predicate from each element. -/
def execPsetp2 (f : Ins) (s : State) := laneOp .psetp2 f s (fun i =>
  match f.x with
  | .fcmp c b pe pcn pc u bf =>
    let el (k : Nat) := cmpFloat c u (decodeF (pkTy bf) (bitsOf i.a (16 * k) 16)) (decodeF (pkTy bf) (bitsOf i.b (16 * k) 16))
    let p := lanePred i.l pc pcn
    { preds := [(predDest f.d, bopEval b (el 0).1 p), (pe.toNat, bopEval b (el 1).1 p)], fl := (el 0).2 ||| (el 1).2 }
  | _ => {})
/-- FSET. -/
def execFset (f : Ins) (s : State) := laneOp .fset f s (fun i =>
  match f.x with
  | .fset c one u =>
    let ftz := fpcsFtz i.fpcs
    let (r, fl) := cmpFloat c u (decodeF .f32 (ftzIn ftz i.a)) (decodeF .f32 (ftzIn ftz i.b))
    { v := some (if r then (if one then 0x3F800000 else 0xFFFFFFFF) else 0), fl := fl }
  | _ => {})

/-- The class bit of a pattern (R109). -/
def classOf (t : Ty) (x : Nat) : Nat :=
  match decodeF t x with
  | .nan sig => if sig then 256 else 512
  | .inf n => if n then 1 else 128
  | .fin n m e =>
    if m = 0 then (if n then 8 else 16)
    else if e = fEmin t - (fbits t : Int) ∧ m < 2 ^ fbits t then (if n then 4 else 32)
    else (if n then 2 else 64)
/-- FCLASS. -/
def execFclass (f : Ins) (s : State) := laneOp .fclass f s (fun i => { v := some (classOf f.x.ty i.a) })

/-- The integral value of a finite value under a mode, with whether it differs (R110, R113). -/
def integral (neg : Bool) (m : Nat) (e : Int) (mode : Rnd) : Nat × Bool :=
  let q := chooseSig neg m e 0 mode 0
  (q, cmpScaled q 0 m e != .eq)
/-- FRND. -/
def execFrnd (f : Ins) (s : State) := laneOp .frnd f s (fun i =>
  match decodeF .f32 (ftzIn (fpcsFtz i.fpcs) i.a) with
  | .nan sig => { v := some (canonNaN .f32), fl := if sig then fIV else 0 }
  | .inf n => { v := some (infPat .f32 n) }
  | .fin n m e =>
    let (q, nx) := integral n m e f.x.rnd
    { v := some (roundTo .f32 (.fin n q 0) .rne).1, fl := if nx then fNX else 0 })
/-- FGETEXP. -/
def execFgetexp (f : Ins) (s : State) := laneOp .fgetexp f s (fun i =>
  match decodeF .f32 i.a with
  | .nan sig => { v := some (canonNaN .f32), fl := if sig then fIV else 0 }
  | .inf _ => { v := some (infPat .f32 false) }
  | .fin _ m e => if m = 0 then { v := some (infPat .f32 true), fl := fDZ }
      else { v := some (roundTo .f32 (ofIntV (leadExp m e)) .rne).1 })
/-- FGETMAN. -/
def execFgetman (f : Ins) (s : State) := laneOp .fgetman f s (fun i =>
  match decodeF .f32 i.a with
  | .nan sig => { v := some (canonNaN .f32), fl := if sig then fIV else 0 }
  | .inf n => { v := some (infPat .f32 n) }
  | .fin n m e => { v := some (roundTo .f32 (.fin n m (e - (if m = 0 then 0 else leadExp m e))) .rne).1 })

/-- A pattern of a type as the register holds it (R17, R21). -/
def regForm (t : Ty) (x : Nat) : Nat := if t.signed && t.bits < 32 then wrapTo 32 (sext t.bits x) else x

/-- A result of a float destination with SAT: the overflow of a finite value gives the largest finite (R112). -/
def satFloat (sat : Bool) (t : Ty) (v : Val) (x : Nat × FFlags) : Nat × FFlags :=
  if sat && v.isFin && x.2 &&& fOF != 0 then (maxPat t v.neg, x.2) else x

/-- A float value converted to an integer type (R113). -/
def floatToInt (t : Ty) (v : Val) (mode : Rnd) : Nat × FFlags :=
  let hi : Int := if t.signed then (2 ^ (t.bits - 1) : Nat) - 1 else (2 ^ t.bits : Nat) - 1
  let lo : Int := if t.signed then -(2 ^ (t.bits - 1) : Nat) else 0
  match v with
  | .nan _ => (0, fIV)
  | .inf n => (wrapTo t.bits (if n then lo else hi), fIV)
  | .fin n m e =>
    let (q, nx) := integral n m e mode
    let y : Int := if n then -(q : Int) else q
    if hi < y then (wrapTo t.bits hi, fIV)
    else if y < lo then (wrapTo t.bits lo, fIV)
    else (wrapTo t.bits y, if nx then fNX else 0)

/-- CVT on one lane (R111 to R113). -/
def cvtOut (f : Ins) (i : LaneIn) : LaneOut :=
  match f.x with
  | .conv dt sat rnd st =>
    if dt.isInt then
      if st.isInt then { v := some (regForm dt (deliverInt sat dt (intVal st i.a))) }
      else
        let (p, fl) := floatToInt dt (decodeF st i.a) rnd
        { v := some (regForm dt p), fl := fl }
    else
      let v := if st.isInt then ofIntV (intVal st i.a) else decodeF st i.a
      let sr := if rnd = .sr then srStep i.l.sr else i.l.sr
      let (p, fl) := satFloat sat dt v (roundTo dt v rnd (srBits sr))
      { v := some p, fl := fl ||| (if st.isInt then 0 else snanFlag [v]), sr := if rnd = .sr then some sr else none }
  | _ => {}
/-- CVT. -/
def execCvt (f : Ins) (s : State) := laneOp .cvt f s (cvtOut f)
/-- CVTSR: the random bits come from B (R114). -/
def execCvtsr (f : Ins) (s : State) := laneOp .cvtsr f s (fun i =>
  match f.x with
  | .conv dt sat _ st =>
    let v := decodeF st i.a
    let (p, fl) := satFloat sat dt v (roundTo dt v .sr (i.b % 65536))
    { v := some p, fl := fl ||| snanFlag [v] }
  | _ => {})

/-- PACK2. -/
def execPack2 (f : Ins) (s : State) := laneOp .pack2 f s (fun i => { v := some (i.a % 65536 + i.b % 65536 * 65536) })
/-- An element widened to a register (R115). -/
def widen (sx : Bool) (w x : Nat) : Nat := if sx then wrapTo 32 (sext w x) else x % 2 ^ w
/-- UNPK2. -/
def execUnpk2 (f : Ins) (s : State) := laneOp .unpk2 f s (fun i =>
  let sx := f.x.fn % 2 == 1
  { v := some (widen sx 16 (bitsOf i.a 0 16) + widen sx 16 (bitsOf i.a 16 16) * 2 ^ 32) })
/-- PACK4. -/
def execPack4 (f : Ins) (s : State) := laneOp .pack4 f s (fun i =>
  { v := some ((List.range 4).foldl (fun acc k => acc + bitsOf i.a (32 * k) 8 * 2 ^ (8 * k)) 0) })
/-- UNPK4. -/
def execUnpk4 (f : Ins) (s : State) := laneOp .unpk4 f s (fun i =>
  let sx := f.x.fn % 2 == 1
  { v := some ((List.range 4).foldl (fun acc k => acc + widen sx 8 (bitsOf i.a (8 * k) 8) * 2 ^ (32 * k)) 0) })

/-! Codebooks and tables -/

/-- The codebook a block sees under a slot number: zeros where the block does not own the slot (R28, R269). -/
def State.bookOf (s : State) (blk n : Nat) : BitVec 256 :=
  let c := s.core (s.block blk).core
  if c.bookOwner.find n = some blk then c.books.get n 0 else 0
/-- The live table a block sees under a slot number (R123, R269). -/
def State.tableOf (s : State) (blk n : Nat) : BitVec 16640 :=
  let c := s.core (s.block blk).core
  if c.tabOwner.find n = some blk then (c.tabs.get n (0, 0)).1 else 0
/-- Entry `i` of a codebook. -/
def bookEntry (b : BitVec 256) (i : Nat) : Nat := (b.extractLsb' (16 * i) 16).toNat

/-- Does a region meet `n` bytes of the unified store? -/
def Region.under (place n : Nat) : Region → Bool
  | .scratch lo hi => decide (place < hi) && decide (lo < place + n)
  | _ => false

/-- The scratchpad image of a CBLD of the core that has not started: what its source holds once the earlier commands that write it
have completed (R118, R254). While one of them has not laid out what it writes, the new entries are free values (log 6). -/
def Core.imageAt (c : Core) (free id blk place : Nat) : List Byte :=
  let before := (c.cmds.filter (fun e => decide (e.1 < id) && e.2.ref.blk == blk && e.2.writes.any (Region.under place 32))).map Prod.snd
  if before.any (fun m => !m.started || m.engine == .matrix || m.op == .pcpy || !m.spoiled.isEmpty) then
    (List.range 32).map (fun i => Config.freeByte (free + 16 + i))
  else before.foldl (fun bs m => (m.runs.filter (fun r => r.kind == 1)).foldl (fun bs r =>
    bs.zipIdx.map (fun e => if r.addr ≤ place + e.2 ∧ place + e.2 < r.addr + r.bytes.length then r.bytes.getD (place + e.2 - r.addr) 0 else e.1)) bs)
    (c.uni.bytes place 32)

/-- The image of a CBLD to the slot that is outstanding, if there is one (R118): as read, or as its source will hold it. -/
def State.bookComing (s : State) (blk n : Nat) : Option (BitVec 256) :=
  let c := s.core (s.block blk).core
  (c.cmds.find? (fun e => e.2.op == .cbld && e.2.ref.blk == blk && (match e.2.f.b with | .sp (.cbook m) => m.toNat == n | _ => false))).map
    (fun e => match e.2.image with
      | some x => x.2.extractLsb' 0 256
      | none => BitVec.ofNat 256 (leNat (if e.2.f.x.fn = 1 then c.imageAt s.free e.1 blk ((s.block blk).sbase + e.2.a.toNat) else e.2.desc)))

/-- The sixteen entries as an instruction captures them: while a CBLD is outstanding each entry is the old or the new
one, whole, by a free choice (R118). -/
def State.capturedBook (s : State) (blk n : Nat) : List Nat :=
  let old := s.bookOf blk n
  match s.bookComing blk n with
  | some new => (List.range 16).map (fun i => if Config.freeBool (s.free + i) then bookEntry new i else bookEntry old i)
  | none => (List.range 16).map (bookEntry old)

/-- Free values a capture uses. -/
def State.bookFree (s : State) (blk n : Nat) : Nat := if (s.bookComing blk n).isSome then 48 else 0

/-- The codebook slot a B operand names. -/
def bookSlot (o : Operand) : Nat := match o with | .sp (.cbook n) => n.toNat | _ => 0
/-- The table slot an operand names. -/
def tabSlot (o : Operand) : Nat := match o with | .sp (.atab n) => n.toNat | _ => 0

/-- The distance of two finite .bf16 values, exactly. -/
def valDist (x y : Val) : Val := ((vadd false x y.negate).1).abs

/-- The index QCB4 chooses for a value, with its flags (R116). -/
def quantVal (ents : List Nat) (xv : Val) : Nat × FFlags :=
  let es := (ents.map (decodeF .bf16)).zipIdx.filter (fun e => !e.1.isNaN)
  if xv.isNaN then (0, fIV ||| fNX)
  else
    let better (a b : Val) : Bool :=   -- is a strictly better than b?
      match xv with
      | .inf neg => if neg then vcmp a b == .lt else vcmp a b == .gt
      | _ => if a.isInf then false else if b.isInf then true else vcmp (valDist xv a) (valDist xv b) == .lt
    match es with
    | [] => (0, fNX)
    | e :: rest =>
      let k := (rest.foldl (fun (acc : Val × Nat) c => if better c.1 acc.1 then c else acc) e)
      (k.2, if vcmp k.1 xv == .eq then 0 else fNX)

/-- The index for a .bf16 element. -/
def quantOne (ents : List Nat) (x : Nat) : Nat × FFlags := quantVal ents (decodeF .bf16 x)

/-- QCB4 on one lane. -/
def qcb4Out (f : Ins) (ents : List Nat) (i : LaneIn) : LaneOut :=
  let h := f.x.fn % 2
  let qs := (List.range 4).map (fun k => quantOne ents (bitsOf i.a (16 * k) 16))
  let new := qs.zipIdx.foldl (fun acc q => acc + q.1.1 * 2 ^ (4 * q.2)) 0
  { v := some (if h = 1 then i.d % 65536 + new * 65536 else i.d / 65536 * 65536 + new)
    fl := qs.foldl (fun m q => m ||| q.2) 0 }
/-- QCB4. -/
def execQcb4 (f : Ins) (s : State) := regOp .qcb4 f s (fun c =>
  { c.laneRes (qcb4Out f (c.s.capturedBook c.r.blk (bookSlot f.b))) with free := c.s.bookFree c.r.blk (bookSlot f.b) })
/-- DQCB4. -/
def execDqcb4 (f : Ins) (s : State) := regOp .dqcb4 f s (fun c =>
  let ents := c.s.capturedBook c.r.blk (bookSlot f.b)
  let h := f.x.fn % 2
  { c.laneRes (fun i => { v := some ((List.range 4).foldl (fun acc k =>
      acc + ents.getD (bitsOf i.a (4 * (4 * h + k)) 4) 0 * 2 ^ (16 * k)) 0) }) with free := c.s.bookFree c.r.blk (bookSlot f.b) })

/-- A 32-bit word of a table image. -/
def tabWord (t : BitVec 16640) (off : Nat) : Nat := (t.extractLsb' (8 * off) 32).toNat

/-- The value TBLEV gives for an FP32 pattern (R123), with the flags of its final step. -/
def tblevAt (t : BitVec 16640) (x : Nat) : Nat × FFlags :=
  let xv := decodeF .f32 x
  if xv.isNaN then (canonNaN .f32, snanFlag [xv])
  else
    let lo := decodeF .f32 (tabWord t 0)
    let hi := decodeF .f32 (tabWord t 4)
    let j : Nat :=
      if lo.isFin && hi.isFin && vcmp lo hi == .lt then
        match xv with
        | .inf neg => if neg then 0 else 255
        | _ =>
          match (vadd false xv lo.negate).1, (vadd false hi lo.negate).1 with
          | .fin n m e, .fin _ d k =>
            if n || m = 0 then 0
            else
              let c := min e k
              min 255 (m * 2 ^ (e - c).toNat * 256 / (d * 2 ^ (k - c).toNat))
          | _, _ => 0
      else 0
    let vs := [decodeF .f32 (tabWord t (32 + 8 * j)), xv, decodeF .f32 (tabWord t (36 + 8 * j))]
    let (y, fl) := gFma .rne vs
    let (p, fl2) := roundTo .f32 y .rne
    (p, fl ||| fl2 ||| snanFlag vs)
/-- TBLEV. -/
def execTblev (f : Ins) (s : State) := regOp .tblev f s (fun c =>
  let t := c.s.tableOf c.r.blk (tabSlot f.b)
  c.laneRes (fun i => let (p, fl) := tblevAt t i.a; { v := some p, fl := fl }))

end Sys2Proof.Machine
end

