-- ==== Sys2Proof/Machine/Special.lean ====
section
/-!
DEFINITION. The special functions (R119 to R122). Each has a value computed to some 60 bits beyond its bound; the
delivered value is the nearest FP32 value moved by a free number of units in the last place, as long as it stays within
the bound of R120 (log 7).
-/

namespace Sys2Proof.Machine

/-- Fraction bits of the fixed-point values below. -/
def fxP : Nat := 96
/-- π, ln 2, 1/(2π) and 1/ln 2 with 128 fraction bits. -/
def cPi : Nat := 0x3243f6a8885a308d313198a2e03707344
/-- ln 2. -/
def cLn2 : Nat := 0xb17217f7d1cf79abc9e3b39803f2f6af
/-- 1/(2π). -/
def cInv2Pi : Nat := 0x28be60db9391054a7f09d5f47d4d3770
/-- 1/ln 2. -/
def cInvLn2 : Nat := 0x171547652b82fe1777d0ffda0d23a7d11

/-- A finite value as fixed point with `fxP` fraction bits, rounded toward −∞. -/
def toFx (neg : Bool) (m : Nat) (e : Int) : Int :=
  let x : Int := if neg then -(m : Int) else m
  if 0 ≤ e + fxP then x * ((2 ^ (e + fxP).toNat : Nat) : Int) else x / ((2 ^ (-(e + fxP)).toNat : Nat) : Int)

/-- The value of a fixed-point number. -/
def fromFx (x : Int) : Val := .fin (x < 0) x.natAbs (-(fxP : Int))

/-- e^t for 0 ≤ t < 1 in fixed point, by its power series. -/
def expSeries (t : Nat) : Nat :=
  ((List.range 34).foldl (fun (acc : Nat × Nat) k =>
    let term := acc.2 * t / 2 ^ fxP / (k + 1)
    (acc.1 + term, term)) (2 ^ fxP, 2 ^ fxP)).1

/-- 2^y for a fixed-point `y`: a significand and an exponent. -/
def exp2Fx (y : Int) : Nat × Int :=
  let n := y / ((2 ^ fxP : Nat) : Int)
  let r := (y % ((2 ^ fxP : Nat) : Int)).toNat
  (expSeries (r * cLn2 / 2 ^ 128), n - fxP)

/-- log2 of a value in [1, 2), in fixed point with `fxP` fraction bits: one bit for each squaring. -/
def log2Go (fuel : Nat) (z acc : Nat) (bit : Nat) : Nat :=
  match fuel with
  | 0 => acc
  | k + 1 =>
    let z2 := z * z / 2 ^ 120
    if 2 ^ 121 ≤ z2 then log2Go k (z2 / 2) (acc + bit) (bit / 2) else log2Go k z2 acc (bit / 2)

/-- log2 of a positive value in fixed point. -/
def log2Fx (m : Nat) (e : Int) : Int :=
  let n := leadExp m e
  let z := (shiftDown m (e - n + 120)).1
  n * ((2 ^ fxP : Nat) : Int) + (log2Go 72 z 0 (2 ^ (fxP - 1)) : Nat)

/-- The sine and cosine series at an angle of at most π/4, in fixed point. -/
def sinCosSeries (t : Int) : Int × Int :=
  let one : Int := ((2 ^ fxP : Nat) : Int)
  let acc := (List.range 24).foldl (fun (a : Int × Int × Int) k =>
    -- a.2.2 is t^k / k! with the sign left out
    let (sn, cs, term) := a
    let sg : Int := if k / 2 % 2 = 0 then 1 else -1
    let sn := if k % 2 = 1 then sn + sg * term else sn
    let cs := if k % 2 = 0 then cs + sg * term else cs
    (sn, cs, term * t / one / ((k + 1 : Nat) : Int))) (0, 0, one)
  (acc.1, acc.2.1)

/-- Sine and cosine of `u` turns, `u` in fixed point. -/
def sinCosTurns (u : Int) : Int × Int :=
  let one : Int := ((2 ^ fxP : Nat) : Int)
  let q := (4 * u + one / 2) / one
  let r := u - q * one / 4
  let (sn, cs) := sinCosSeries (2 * r * (cPi : Int) / ((2 ^ 128 : Nat) : Int))
  if q % 4 = 0 then (sn, cs) else if q % 4 = 1 then (cs, -sn) else if q % 4 = 2 then (-sn, -cs) else (-cs, sn)

/-- The cosine of an angle of magnitude `m·2^e` below 2^-30: 1 − θ²/2, which differs from it by less than 2^-124 and lies below 1. -/
def cosSmall (m : Nat) (e : Int) : Val :=
  let k := (1 - 2 * e).toNat
  .fin false (2 ^ k - m * m) (-(k : Int))

/-- The distance bound of a form at an exact value `y` (R120): units in the last place, and an absolute part `2^abs`. -/
structure Bound where
  ulps : Nat := 0
  absExp : Option Int := none
deriving Repr

/-- Is a pattern within the bound of the value? -/
def Bound.holds (b : Bound) (y : Val) (p : Nat) : Bool :=
  match y, decodeF .f32 p with
  | .fin n m e, .fin k q j =>
    let d := valDist (.fin n m e) (.fin k q j)
    let u := max (leadExp (max m 1) e) (-126) - 23
    (vcmp d (.fin false b.ulps u) != .gt) || (match b.absExp with | some a => vcmp d (.fin false 1 a) != .gt | none => false)
  | _, _ => false

/-- A pattern moved by `k` values, within its sign and the finite range. -/
def nudge (p : Nat) (k : Int) : Nat :=
  let sgn := p / 2 ^ 31 * 2 ^ 31
  let mag : Int := (p % 2 ^ 31 : Nat) + k
  if mag < 0 then p else if mag > 0x7F7FFFFF then p else sgn + mag.toNat

/-- The delivery of a special function (R119): `exact` says that `y` is the exact result. The nearest value, moved by
the free offset if the bound allows it; flags by R119 and the flush of R38. -/
def deliver (ftz : Bool) (y : Val) (exact : Bool) (b : Bound) (off : Int) : Nat × FFlags :=
  match y with
  | .fin neg _ _ =>
    let big := vcmp y.abs (decodeF .f32 0x7F7FFFFF) == .gt
    let small := !y.isZero && vcmp y.abs (decodeF .f32 0x00800000) == .lt
    let (p, fl) := roundTo .f32 y .rne
    if big then (infPat .f32 neg, fOF ||| fNX)
    else if exact && fl = 0 then (if ftz && small then (if neg then 2 ^ 31 else 0, fUF ||| fNX) else (p, 0))
    else if ftz && small && tiny .f32 neg (match y with | .fin _ m _ => m | _ => 1) (match y with | .fin _ _ e => e | _ => 0) .rne 0 then
      (if neg then 2 ^ 31 else 0, fUF ||| fNX)
    else
      let p := if p % 2 ^ 31 = 0x7F800000 then maxPat .f32 neg else p
      let q := nudge p off
      (if b.holds y q then q else p, fNX ||| (if small then fUF else 0))
  | .inf neg => (infPat .f32 neg, 0)
  | .nan _ => (canonNaN .f32, 0)

/-- A fixed answer for an input outside a form's domain (R121). -/
def fixed (p : Nat) (fl : FFlags := 0) : LaneOut := { v := some p, fl := fl }

/-- A special function on one lane: NaN and flushed inputs first, then `g` on the decoded operand. -/
def specialOut (i : LaneIn) (g : Bool → Val → Nat → LaneOut) : LaneOut :=
  let ftz := fpcsFtz i.fpcs
  let x := ftzIn ftz i.a
  match decodeF .f32 x with
  | .nan sig => fixed (canonNaN .f32) (if sig then fIV else 0)
  | v => g ftz v x

/-- The delivery with the free offset of a form (log 7). -/
def give (o : Op) (ftz : Bool) (x z : Nat) (y : Val) (exact : Bool) (b : Bound) : LaneOut :=
  let (p, fl) := deliver ftz y exact b (Config.specialOffset o.code (BitVec.ofNat 32 x) (BitVec.ofNat 32 z) ftz)
  fixed p fl

/-- A zero of a sign. -/
def zeroPat (neg : Bool) : Nat := if neg then 2 ^ 31 else 0

/-- FRCP. -/
def execFrcp (f : Ins) (s : State) := laneOp .frcp f s (fun i => specialOut i (fun ftz v x =>
  match v with
  | .inf n => fixed (zeroPat n)
  | .fin n m e => if m = 0 then fixed (infPat .f32 n) fDZ
      else
        let y := vdivFin n 1 0 false m e 64
        give .frcp ftz x 0 y (m = 2 ^ Nat.log2 m) { ulps := 1 }
  | _ => {}))

/-- FRSQ. -/
def execFrsq (f : Ins) (s : State) := laneOp .frsq f s (fun i => specialOut i (fun ftz v x =>
  match v with
  | .inf n => if n then fixed (canonNaN .f32) fIV else fixed 0
  | .fin n m e =>
    if m = 0 then fixed (infPat .f32 n) fDZ
    else if n then fixed (canonNaN .f32) fIV
    else
      let odd := e % 2 ≠ 0
      let m1 := if odd then 2 * m else m
      let e1 := if odd then e - 1 else e
      let q := isqrt (2 ^ 200 / m1)
      let exact := q * q * m1 = 2 ^ 200
      give .frsq ftz x 0 (.fin false (2 * q + (if exact then 0 else 1)) (-(e1 / 2) - 101)) exact { ulps := 1 }
  | _ => {}))

/-- FSQRT, correctly rounded. -/
def execFsqrt (f : Ins) (s : State) := laneOp .fsqrt f s (fun i => specialOut i (fun ftz v _ =>
  match v with
  | .inf n => if n then fixed (canonNaN .f32) fIV else fixed (infPat .f32 false)
  | .fin n m e =>
    if m = 0 then fixed (zeroPat n)
    else if n then fixed (canonNaN .f32) fIV
    else let (p, fl) := roundFtz ftz .f32 (vsqrtFin m e 40) f.x.rnd; fixed p fl
  | _ => {}))

/-- FEX2. -/
def execFex2 (f : Ins) (s : State) := laneOp .fex2 f s (fun i => specialOut i (fun ftz v x =>
  match v with
  | .inf n => if n then fixed 0 else fixed (infPat .f32 false)
  | .fin n m e =>
    if m = 0 then fixed 0x3F800000
    else
      let whole := decide (0 ≤ e) || m % 2 ^ (-e).toNat = 0
      if decide (9 ≤ leadExp m e) then
        give .fex2 ftz x 0 (.fin false 1 (if n then -1000 else 1000)) false { ulps := 2 }
      else if whole then
        let k : Int := (shiftDown m e).1
        give .fex2 ftz x 0 (.fin false 1 (if n then -k else k)) true { ulps := 2 }
      else
        let (q, j) := exp2Fx (toFx n m e)
        give .fex2 ftz x 0 (.fin false (2 * q + 1) (j - 1)) false { ulps := 2 }
  | _ => {}))

/-- FLG2. -/
def execFlg2 (f : Ins) (s : State) := laneOp .flg2 f s (fun i => specialOut i (fun ftz v x =>
  match v with
  | .inf n => if n then fixed (canonNaN .f32) fIV else fixed (infPat .f32 false)
  | .fin n m e =>
    if m = 0 then fixed (infPat .f32 true) fDZ
    else if n then fixed (canonNaN .f32) fIV
    else
      let near := vcmp v (.fin false 1 (-1)) != .lt && vcmp v (.fin false 2 0) != .gt
      let b : Bound := if near then { absExp := some (-22) } else { ulps := 2 }
      if m = 2 ^ Nat.log2 m then give .flg2 ftz x 0 (ofIntV (leadExp m e)) true b
      else give .flg2 ftz x 0 (fromFx (log2Fx m e)) false b
  | _ => {}))

/-- FSIN and FCOS on one lane (R119 to R122): the sine of a small argument lies below it, that of 2^-126 below 2^-126. -/
def sinOut (o : Op) (cos : Bool) (ftz : Bool) (v : Val) (x : Nat) : LaneOut :=
  match v with
  | .inf _ => fixed (canonNaN .f32) fIR
  | .fin n m e =>
    if m = 0 then (if cos then fixed 0x3F800000 else fixed (zeroPat n))
    else if vcmp v.abs (.fin false 1 18) == .gt then fixed (canonNaN .f32) fIR
    else if !cos && vcmp v.abs (.fin false 1 (-12)) == .lt then
      fixed x (fNX ||| (if vcmp v.abs (.fin false 1 (-126)) == .gt then 0 else fUF))
    else if cos && leadExp m e < -30 then give o ftz x 0 (cosSmall m e) false { absExp := some (-22) }
    else
      let t : Int := (if n then -(m : Int) else m) * (cInv2Pi : Int)
      let sh := e + fxP - 128
      let u := if 0 ≤ sh then t * ((2 ^ sh.toNat : Nat) : Int) else t / ((2 ^ (-sh).toNat : Nat) : Int)
      let (sn, cs) := sinCosTurns u
      give o ftz x 0 (fromFx (if cos then cs else sn)) false { absExp := some (-22) }
  | _ => {}
/-- FSIN. -/
def execFsin (f : Ins) (s : State) := laneOp .fsin f s (fun i => specialOut i (sinOut .fsin false))
/-- FCOS. -/
def execFcos (f : Ins) (s : State) := laneOp .fcos f s (fun i => specialOut i (sinOut .fcos true))

/-- FSINR and FCOSR on one lane: exact at multiples of a quarter (R120). -/
def sinrOut (o : Op) (cos : Bool) (ftz : Bool) (v : Val) (x : Nat) : LaneOut :=
  match v with
  | .inf _ => fixed (canonNaN .f32)
  | .fin n m e =>
    if m = 0 then (if cos then fixed 0x3F800000 else fixed (zeroPat n))
    else
      let quarters := decide (-2 ≤ e) || m % 2 ^ (-e - 2).toNat = 0
      if quarters then
        let k := (if -2 ≤ e then m % 4 * 2 ^ (min 2 (e + 2).toNat) else m / 2 ^ (-e - 2).toNat) % 4
        let k := if n then (4 - k) % 4 else k
        if cos then fixed (if k = 0 then 0x3F800000 else if k = 2 then 0xBF800000 else 0)
        else fixed (if k = 1 then 0x3F800000 else if k = 3 then 0xBF800000 else zeroPat n)
      else
        let fx := toFx n m e
        let (sn, cs) := sinCosTurns (fx % ((2 ^ fxP : Nat) : Int))
        let small := decide (leadExp m e < -40)
        let y := if cos then (if small then cosSmall (m * cPi * 2) (e - 128) else fromFx cs)
          else if small then .fin n (m * cPi * 2) (e - 128) else fromFx sn
        give o ftz x 0 y false { absExp := some (-22) }
  | _ => {}
/-- FSINR. -/
def execFsinr (f : Ins) (s : State) := laneOp .fsinr f s (fun i => specialOut i (sinrOut .fsinr false))
/-- FCOSR. -/
def execFcosr (f : Ins) (s : State) := laneOp .fcosr f s (fun i => specialOut i (sinrOut .fcosr true))

/-- e^x for a value of magnitude below 512, as a significand and an exponent. -/
def expVal (n : Bool) (m : Nat) (e : Int) : Nat × Int :=
  exp2Fx ((toFx n m e) * (cInvLn2 : Int) / ((2 ^ 128 : Nat) : Int))

/-- FTANH. -/
def execFtanh (f : Ins) (s : State) := laneOp .ftanh f s (fun i => specialOut i (fun ftz v x =>
  let one (n : Bool) : Nat := if n then 0xBF800000 else 0x3F800000
  match v with
  | .inf n => fixed (one n)
  | .fin n m e =>
    if m = 0 then fixed (zeroPat n)
    else if vcmp v.abs (.fin false 10 0) != .lt then fixed (one n) fNX
    else if leadExp m e < -20 then give .ftanh ftz x 0 (.fin n (m * 2 ^ 80 - 1) (e - 80)) false { ulps := 2, absExp := some (-23) }
    else
      let (q, j) := expVal false (2 * m) e
      -- (E - 1) / (E + 1) with E = q * 2^j ≥ 1
      let E := (shiftDown q (j + fxP)).1
      give .ftanh ftz x 0 (vdivFin n (E - 2 ^ fxP) 0 false (E + 2 ^ fxP) 0 64) false { ulps := 2, absExp := some (-23) }
  | _ => {}))

/-- FSIGM. -/
def execFsigm (f : Ins) (s : State) := laneOp .fsigm f s (fun i => specialOut i (fun ftz v x =>
  match v with
  | .inf n => if n then fixed 0 else fixed 0x3F800000
  | .fin n m e =>
    let b : Bound := { ulps := 2, absExp := some (-23) }
    if m = 0 then fixed 0x3F000000
    else if !n && vcmp v (.fin false 18 0) != .lt then fixed 0x3F800000 fNX
    else if n && decide (9 ≤ leadExp m e) then give .fsigm ftz x 0 (.fin false 1 (-1000)) false b
    else if leadExp m e < -60 then give .fsigm ftz x 0 (.fin false (if n then 2 ^ 70 - 1 else 2 ^ 70 + 1) (-71)) false b
    else
      -- for x < 0: E / (1 + E); for x > 0: 1 / (1 + E'), E' = e^-x
      let (q, j) := expVal true m e
      let k := (-j).toNat
      let den := 2 ^ k + q
      if n then give .fsigm ftz x 0 (vdivFin false q 0 false den 0 64) false b
      else give .fsigm ftz x 0 (vdivFin false (2 ^ k) 0 false den 0 64) false b
  | _ => {}))

/-- FDIVF (R119 to R121): within 2 ulp, even when the quotient is an FP32 value. -/
def fdivOut (i : LaneIn) : LaneOut :=
  let ftz := fpcsFtz i.fpcs
  let xa := ftzIn ftz i.a
  let xb := ftzIn ftz i.b
  let a := decodeF .f32 xa
  let b := decodeF .f32 xb
  if a.isNaN || b.isNaN then fixed (canonNaN .f32) (snanFlag [a, b])
  else
    let neg := a.neg != b.neg
    match a, b with
    | .inf _, .inf _ => fixed (canonNaN .f32) fIV
    | .inf _, _ => fixed (infPat .f32 neg)
    | _, .inf _ => fixed (zeroPat neg)
    | .fin _ m e, .fin _ n k =>
      if m = 0 && n = 0 then fixed (canonNaN .f32) fIV
      else if n = 0 then fixed (infPat .f32 neg) fDZ
      else if m = 0 then fixed (zeroPat neg)
      else
        let y := vdivFin neg m e false n k 64
        let (p, fl) := deliver ftz y false { ulps := 2 } (Config.specialOffset Op.fdivf.code (BitVec.ofNat 32 xa) (BitVec.ofNat 32 xb) ftz)
        let same := vcmp (decodeF .f32 p) y == .eq
        fixed p (if same && fl &&& fOF = 0 then (if p % 2 ^ 31 = 0 then fl else 0) else fl)
    | _, _ => {}
/-- FDIVF. -/
def execFdivf (f : Ins) (s : State) := laneOp .fdivf f s fdivOut

end Sys2Proof.Machine
end

