-- ==== Sys2Proof/Machine/Collective.lean ====
section
/-!
DEFINITION. The warp collectives (R185 to R192) and the uniform forms (R209, R210), one meaning for each form.
-/

namespace Sys2Proof.Machine

/-- The same result in every active lane, or once in the uniform destination (R185). -/
def Ctx.spread (c : Ctx) (g : Nat → Nat) : List Eff :=
  match c.d with
  | .u .. => destEffs c.d c.dw 0 (g (c.lanes.headD 0))
  | _ => c.lanes.flatMap (fun l => destEffs c.d c.dw l (g l))

/-- Active lanes in which a lane predicate operand holds. -/
def Ctx.predLanes (c : Ctx) (o : Operand) : LaneSet := laneSet (c.lanes.filter (fun l => spPred o (c.fib.lane l)))

/-- A predicate result in every active lane, or in a uniform predicate (R186). -/
def Ctx.predAll (c : Ctx) (b : Bool) : List Eff :=
  match c.f.d with
  | .sp (.upred n _) => [.upred n.toNat b]
  | .sp (.pred n _) => c.lanes.map (fun l => .pred n.toNat l b)
  | _ => []

/-- VOTE (R186). -/
def execVote (f : Ins) (s : State) := regOp .vote f s (fun c =>
  let yes := c.predLanes f.a
  match f.x.fn with
  | 0 => { effs := c.predAll (yes != 0) }
  | 1 => { effs := c.predAll (yes == c.act) }
  | 2 => { effs := c.predAll (yes == 0 || yes == c.act) }
  | _ => { effs := c.spread (fun _ => yes.toNat) })

/-- MATCH (R187). -/
def execMatchW (f : Ins) (s : State) := regOp .matchW f s (fun c =>
  let same (l : Nat) : Nat := (laneSet (c.lanes.filter (fun k => c.va k == c.va l))).toNat
  if f.x.fn % 2 = 0 then { effs := c.spread same }
  else
    let all := c.lanes.all (fun l => c.va l == c.va (c.lanes.headD 0))
    { effs := c.spread (fun _ => if all then c.act.toNat else 0) })

/-- ELECT (R188). -/
def execElect (f : Ins) (s : State) := regOp .elect f s (fun c =>
  { effs := c.lanes.map (fun l => .pred (predDest f.d) l (l == c.lanes.headD 0)) })

/-- The source lane of SHFL and whether it is inside the segment (R189). -/
def shflSource (mode seg w lane b : Nat) : Int × Bool :=
  let sw := min (2 ^ seg) w
  let base := lane - lane % sw
  match mode with
  | 0 => ((base + b : Nat), b < sw)
  | 1 => let t : Int := (lane : Int) - b; (t, (base : Int) ≤ t)
  | 2 => ((lane + b : Nat), lane + b < base + sw)
  | _ => ((lane ^^^ b : Nat), base ≤ lane ^^^ b && lane ^^^ b < base + sw)
/-- SHFL (R189). -/
def execShfl (f : Ins) (s : State) := regOp .shfl f s (fun c =>
  match f.x with
  | .shfl mode seg _ =>
    { effs := c.spread (fun l =>
        let (t, ok) := shflSource mode.toNat seg.toNat c.blk.width l (c.vb l % 2 ^ 32)
        if ok && 0 ≤ t && c.act.getLsbD t.toNat then c.va t.toNat else c.va l) }
  | _ => {})

/-- Combine of R190 on patterns: 0 add, 1 min, 2 max, 3 and, 4 or, 5 xor. -/
def combine (op : Nat) (t : Ty) (x y : Nat) : Nat :=
  match op with
  | 0 => if t = .f32 then (roundTo .f32 (vadd false (decodeF .f32 x) (decodeF .f32 y)).1 .rne).1 else (x + y) % 2 ^ t.bits
  | 1 => if t = .f32 then fminPat .f32 x y else if intVal t y < intVal t x then y else x
  | 2 => if t = .f32 then fmaxPat .f32 x y else if intVal t x < intVal t y then y else x
  | 3 => x &&& y
  | 4 => x ||| y
  | _ => x ^^^ y

/-- A NaN as the canonical one (R190). -/
def canonF32 (t : Ty) (x : Nat) : Nat := if t = .f32 && (decodeF .f32 x).isNaN then canonNaN .f32 else x

/-- One level of the tree of R190: neighbours combined. -/
def redLevel (op : Nat) (t : Ty) (xs : List (Option Nat)) : List (Option Nat) :=
  match xs with
  | a :: b :: rest =>
    (match a, b with
      | some x, some y => some (combine op t x y)
      | some x, none => some x
      | none, y => y) :: redLevel op t rest
  | xs => xs
/-- The tree of R190: `fuel` levels. -/
def redTree (op : Nat) (t : Ty) (fuel : Nat) (xs : List (Option Nat)) : Option Nat :=
  match fuel with
  | 0 => xs.headD none
  | k + 1 => redTree op t k (redLevel op t xs)

/-- The operation code of REDW and SCANW. -/
def redCode (x : Ext) : Nat × Bool := match x with | .red op e _ => (op.toNat, e) | _ => (0, false)
/-- REDW (R190). -/
def execRedw (f : Ins) (s : State) := regOp .redw f s (fun c =>
  let (op, _) := redCode f.x
  let t := f.x.ty
  let xs := (List.range c.blk.width).map (fun l => if c.act.getLsbD l then some (c.va l) else none)
  let r := canonF32 t ((redTree op t 6 xs).getD 0)
  { effs := c.spread (fun _ => r) })

/-- The identity of an operation (R191). -/
def redIdentity (op : Nat) (t : Ty) : Nat :=
  match op with
  | 1 => if t = .f32 then infPat .f32 false else if t.signed then 2 ^ (t.bits - 1) - 1 else 2 ^ t.bits - 1
  | 2 => if t = .f32 then infPat .f32 true else if t.signed then 2 ^ (t.bits - 1) else 0
  | 3 => 2 ^ t.bits - 1
  | _ => 0
/-- Inclusive running combinations in lane order, newest last (R191). -/
def scanGo (op : Nat) (t : Ty) (acc : Option Nat) (xs : List (Nat × Nat)) : List (Nat × Nat) :=
  match xs with
  | [] => []
  | (l, x) :: rest =>
    let y := match acc with | some a => combine op t a x | none => canonF32 t x
    (l, y) :: scanGo op t (some y) rest
/-- SCANW (R191). -/
def execScanw (f : Ins) (s : State) := regOp .scanw f s (fun c =>
  let (op, excl) := redCode f.x
  let t := f.x.ty
  let inc := scanGo op t none (c.lanes.map (fun l => (l, c.va l)))
  let out := if excl then (c.lanes.zip (redIdentity op t :: inc.map Prod.snd)) else inc
  { effs := out.flatMap (fun e => destEffs c.d c.dw e.1 e.2) })

/-- VTOU (R192). -/
def execVtou (f : Ins) (s : State) := regOp .vtou f s (fun c =>
  let lane := if f.x.fn % 2 = 1 then c.vb 0 % 64 else c.lanes.headD 0
  { effs := destEffs c.d c.dw 0 (if c.act.getLsbD lane then c.va lane else 0) })

/-! Uniform forms -/

/-- UIADD. -/
def execUiadd (f : Ins) (s : State) := unifOp .uiadd f s (fun i => let t := f.x.ty; intOut f.x.sat t (intVal t i.a + intVal t i.b))
/-- UISUB. -/
def execUisub (f : Ins) (s : State) := unifOp .uisub f s (fun i => let t := f.x.ty; intOut f.x.sat t (intVal t i.a - intVal t i.b))
/-- UIMUL. -/
def execUimul (f : Ins) (s : State) := unifOp .uimul f s (fun i => let t := f.x.ty; intOut f.x.sat t (intVal t i.a * intVal t i.b))
/-- UBLUT. -/
def execUblut (f : Ins) (s : State) := unifOp .ublut f s (blutOut f)
/-- USHL. -/
def execUshl (f : Ins) (s : State) := unifOp .ushl f s (fun i => { v := some (shlAt f.x.ty.bits i.a i.b) })
/-- USHR: logical for .n, arithmetic for .i. -/
def execUshr (f : Ins) (s : State) := unifOp .ushr f s (fun i =>
  let t := f.x.ty; { v := some (if t.signed then sarAt t.bits i.a i.b else shrAt t.bits i.a i.b) })
/-- UICMPP. -/
def execUicmpp (f : Ins) (s : State) := unifOp .uicmpp f s (icmpOut f)
/-- UMOV. -/
def execUmov (f : Ins) (s : State) := unifOp .umov f s (fun i => { v := some i.a })
/-- UMOVI. -/
def execUmovi (f : Ins) (s : State) := unifOp .umovi f s (fun _ => { v := some (immWide f) })
/-- ULEA. -/
def execUlea (f : Ins) (s : State) := unifOp .ulea f s (leaOut f)
/-- USEL. -/
def execUsel (f : Ins) (s : State) := unifOp .usel f s (selOut f)
/-- UPOPC. -/
def execUpopc (f : Ins) (s : State) := unifOp .upopc f s (fun i => { v := some (popcOf f.x.ty.bits i.a) })

end Sys2Proof.Machine
end

