-- ==== Sys2Proof/Machine/Control.lean ====
section
/-!
DEFINITION. Control transfer, the end of lanes, and rejoin masks (R148, R152, R180 to R184).
-/

namespace Sys2Proof.Machine

/-- TVAL of R141. -/
def accessVal (sp : Bool) (lane : Nat) (addr : Nat) : Dword :=
  BitVec.ofNat 64 (bit1 sp * 2 ^ 63 + lane * 2 ^ 57 + addr % 2 ^ 57)

/-- The leading lanes after a split (R148): lanes with their targets, lanes that fall through, and the hint. Among several
targets of taken lanes under .lk, and among several targets of a RET, the one of the lowest-numbered lane leads, as R148 says of
BRX and CALLX without a hint (DESIGN CHOICE, unsafe, log 71). -/
def leadingLanes (hint : BrHint) (taken : List (Nat × VA)) (rest : LaneSet) : LaneSet :=
  let all := laneSet (taken.map Prod.fst)
  let pcs := (taken.map Prod.snd).eraseDups
  let first := match pcs with
    | [] => 0
    | p :: _ => laneSet ((taken.filter (fun e => e.2 = p)).map Prod.fst)
  match hint with
  | .likely => first
  | .unlikely => if rest = 0 then first else rest
  | _ =>
    if pcs.length ≤ 1 then (if (lanesOf rest).length < (lanesOf all).length then all else if rest = 0 then all else rest)
    else first

/-- Where lanes of a path stand after a transfer: at their targets, or, not taken, at the next instruction. -/
def pathAfter (pc : VA) (taken : List (Nat × VA)) (rest : LaneSet) : List (Nat × VA) :=
  taken ++ (lanesOf rest).map (fun l => (l, pc + 12))

/-- The lanes that lead after a transfer that sends its lanes to two or more PCs; none where the path does not split (R148). -/
def splitLead (hint : BrHint) (pc : VA) (taken : List (Nat × VA)) (rest : LaneSet) : Option LaneSet :=
  if ((pathAfter pc taken rest).map Prod.snd).eraseDups.length ≤ 1 then none else some (leadingLanes hint taken rest)

/-- A control transfer with its targets by lane, 64 bits wide: the checks of step 8, the link, the targets, and the
leading path. -/
def Ctx.transfer (c : Ctx) (target : Nat → Nat) : Res :=
  let ts := c.lanes.map (fun l => (l, target l))
  match ts.find? (fun e => 2 ^ 57 ≤ e.2) with
  | some (l, t) => { fault := some (cRNG, accessVal false l t) }
  | none => match ts.find? (fun e => e.2 % 4 ≠ 0) with
    | some (l, t) => { fault := some (cALN, accessVal false l t) }
    | none =>
      { effs := c.lanes.flatMap (fun l => destEffs c.d 2 l (c.pc + 12).toNat)
        goto := ts.map (fun e => (e.1, BitVec.ofNat 57 e.2)) }

/-- The lanes of a path that go on in runahead after a transfer (R214): those that stand where the leading side does, or all
that have a target where the path does not split. Lanes without a valid target do not go on. -/
def raKeeps (hint : BrHint) (pc : VA) (taken : List (Nat × VA)) (rest : LaneSet) : LaneSet :=
  let after := pathAfter pc taken rest
  match splitLead hint pc taken rest with
  | none => laneSet (after.map Prod.fst)
  | some lead => match after.find? (fun e => lead.getLsbD e.1) with
    | some (_, p) => laneSet ((after.filter (fun e => e.2 = p)).map Prod.fst)
    | none => lead

/-- A control transfer, in runahead too: lanes that leave the leading side become dormant (R214). -/
def ctlOp (o : Op) (f : Ins) (s : State) (target : Ctx → Nat → Nat) : Host.Outcome State Fault Refusal :=
  issueWith o f s
    (fun c e =>
      let x := (c.valid e).transfer (target c)
      let keep := raKeeps f.hnt.br c.pc x.goto (c.path &&& ~~~c.act)
      let s := c.raFinish e x false
      (s.modFib c.r (fun fb => match fb.ra with
        | some e => { fb with ra := some { e with dormant := e.dormant ||| (c.path &&& ~~~keep) } }
        | none => fb)).raSettle c.r)
    (fun c =>
      let x := c.transfer (target c)
      let s := c.finish x
      match x.fault, splitLead f.hnt.br c.pc x.goto (c.path &&& ~~~c.act) with
      | none, some lead => s.modFib c.r (fun fb => { fb with lead := lead, opps := 0 })
      | _, _ => s)

/-- PC plus a signed offset in units of 4 bytes, modulo 2^64 (R180, R181). -/
def relTarget (f : Ins) (pc : VA) : Nat := wrapTo 64 ((pc.toNat : Int) + sext 32 (immWide f) * 4)
/-- BRA. -/
def execBra (f : Ins) (s : State) := ctlOp .bra f s (fun c _ => relTarget f c.pc)
/-- BRX. -/
def execBrx (f : Ins) (s : State) := ctlOp .brx f s (fun c l => c.va l)
/-- CALL. -/
def execCall (f : Ins) (s : State) := ctlOp .call f s (fun c _ => relTarget f c.pc)
/-- CALLX. -/
def execCallx (f : Ins) (s : State) := ctlOp .callx f s (fun c l => c.va l)
/-- RET. -/
def execRet (f : Ins) (s : State) := ctlOp .ret f s (fun c l => c.va l)

/-- Lanes exit (R152, R153, R182): they leave every mask; when the last handler lane exits in trap mode the fibre leaves
trap mode with TPEND clear, and %tpval becomes zero with it (DESIGN CHOICE, unsafe, log 69). -/
def Fibre.exitLanes (f : Fibre) (ls : LaneSet) : Fibre :=
  let f := f.modLanes ls (fun _ l => { l with exited := true, park := none })
  let f := (List.range 8).foldl (fun (g : Fibre) j => g.strike j ls) f
  if f.trap && (f.lanesWith (fun l => l.handler && !l.exited)) == 0 then
    { f with trap := false, tpend := 0, tpval := 0, lanes := f.lanes.map (fun (l : Lane) => { l with handler := false }) }
  else f
/-- EXIT. -/
def execExit (f : Ins) (s : State) := sysOp .exit f s (fun c =>
  (c.retire c.s).modFib c.r (fun x => x.exitLanes c.act))

/-- The mask an operand names. -/
def maskNum (o : Operand) : Nat := match o with | .sp (.mask n) => n.toNat | _ => 0
/-- RJE (R152, R183): lanes parked on the mask are first released. -/
def execRje (f : Ins) (s : State) := sysOp .rje f s (fun c =>
  (c.retire c.s).modFib c.r (fun x =>
    let j := maskNum f.d
    let x : Fibre := { x with lanes := x.lanes.map (fun (l : Lane) => if l.park == some (BitVec.ofNat 3 j) then { l with park := none } else l) }
    ({ x with j := x.j.set j { enr := c.act, arr := 0 } }).testMask j))
/-- RJW: enrolled lanes arrive and park at the next instruction. -/
def execRjw (f : Ins) (s : State) := sysOp .rjw f s (fun c =>
  (c.retire c.s).modFib c.r (fun x =>
    let j := maskNum f.d
    let m := x.mask j
    let who := c.act &&& m.enr
    let x := x.modLanes who (fun _ l => { l with park := some (BitVec.ofNat 3 j) })
    ({ x with j := x.j.set j { m with arr := m.arr ||| who } }).testMask j))
/-- RJX: the active lanes leave the mask. -/
def execRjx (f : Ins) (s : State) := sysOp .rjx f s (fun c =>
  (c.retire c.s).modFib c.r (fun x => x.strike (maskNum f.d) c.act))
/-- RJRD (R184). -/
def execRjrd (f : Ins) (s : State) := regOp .rjrd f s (fun c =>
  let m := c.fib.mask (maskNum f.a)
  { effs := destEffs c.d 2 0 (if f.x.fn % 2 = 1 then m.arr else m.enr).toNat })

end Sys2Proof.Machine
end

