-- ==== Sys2Proof/Machine/L1.lean ====
section
/-!
DEFINITION. The level-one cache, requests toward the homes, and releases (R218, R231 to R241, R245, R246, R250, R346,
R349, R350, R371, R375, R386, R396, R421).
-/

namespace Sys2Proof.Machine

/-! Fault records of the package -/

/-- Closes a VI's batch of fault records with its event (R396, R413). -/
def State.closeBatch (s : State) (vi : Nat) : State :=
  let v := s.vi vi
  if v.batchAt.isNone then s
  else
    let s := s.modVi vi (fun v => { v with batchAt := none, batchN := 0 })
    let s := s.event vi 6 0 0 0 (v.fbtail.setWidth 64) (BitVec.ofNat 64 v.batchN)
    if v.fh then { s with cores := s.cores.mapVal (fun k c => if k % 33 = 32 then { c with latch := true } else c) } else s

/-- Writes a fault record of a VI, or merges it into one of the last 20 μs (R396). `ia` is what offset 0 takes. -/
def State.faultRecord (s : State) (vi ia va cause : Nat) (isHeld : Bool) (tag : BitVec 16) (task : Nat) : State :=
  let v := s.vi vi
  let recent := v.recent.filter (fun r => s.now ≤ r.since + us 20)
  match recent.find? (fun r => r.ia = ia && r.cause = cause) with
  | some r =>
    let n := min (r.count + 1) 0xFFFF
    let s := (s.devWrite (v.fbbase.toNat + 32 * r.index + 20) (leBytes 2 n) s.h false (vi, tag)).1
    s.modVi vi (fun v => { v with recent := recent.map (fun q => if q = r then { q with count := n } else q) })
  | none => match ringSize v.fbcfg with
    | none => s.modVi vi (fun v => { v with fbovf := true })
    | some n =>
      let tail := v.fbtail.toNat % n
      if (tail + 1) % n = v.fbhead.toNat % n then s.modVi vi (fun v => { v with fbovf := true })
      else
        let bytes := leBytes 8 ia ++ leBytes 8 va ++ leBytes 1 cause ++ leBytes 1 (bit1 isHeld) ++ leBytes 2 tag.toNat ++
          leBytes 2 1 ++ leBytes 2 0 ++ leBytes 4 task ++ leBytes 4 0
        let s := (s.devWrite (v.fbbase.toNat + 32 * tail) bytes s.h false (vi, tag)).1
        let s := s.modVi vi (fun v => { v with
          fbtail := BitVec.ofNat 32 ((tail + 1) % n)
          recent := ⟨ia, cause, 1, tail, s.now⟩ :: recent
          batchAt := some (v.batchAt.getD s.now)
          batchN := v.batchN + 1 })
        if (s.vi vi).batchN = 64 then s.closeBatch vi else s

/-! What an access is refused for -/

/-- The first range that holds a VA (R127), by register number. -/
def Block.rangeAt (b : Block) (va : Nat) : Option Range :=
  b.ranges.find? (fun g => decide (g.gran ≠ 0) && decide (g.vabase ≤ va) && decide (va < g.vabase + g.gran * 65536))

/-- Translate of R127: the range and the IA, or none for RNG. -/
def Block.translateVa (b : Block) (va : Nat) (perm : Range → Bool) : Option (Range × Nat) :=
  match b.rangeAt va with
  | some g => if !perm g || (!g.ns && b.ns) then none else some (g, g.iabase + (va - g.vabase))
  | none => none

/-- May the block reach the memory at an IA (R129, R246, R364, R371)? The attribute, or the refusal with the cause of its
fault record. -/
def State.pageOf (s : State) (b : Block) (ia : Nat) : Except (Option Nat) Attr :=
  if isMapIa ia || (isIdentity ia && !b.service) then .error none
  else match s.lineHome (ia / 128) with
    | .refused _ => .error (if isIdentity ia then none else some 5)
    | .slice a ns => if b.ns && !ns then .error (some 5)
        else if a = .priv && s.owners.get (ia / 65536) 0 ≠ b.core then .error none else .ok a
    | .bridge a ns => if b.ns && !ns then .error (some 5) else .ok a

/-- The fault record of an access refused at its page. -/
def State.pageFault (s : State) (b : Block) (ia va : Nat) (cause : Option Nat) : State :=
  match cause with
  | some c => s.faultRecord b.vi (ia / 65536 * 65536) va c false b.tag b.task
  | none => s

/-! Lines and sectors -/

/-- The key of a level-one line: its number and its world (R231). -/
def l1Key (line : Nat) (ns : Bool) : Nat := 2 * line + bit1 ns

/-- A sector of a line. -/
def L1Line.sec (l : L1Line) (k : Nat) : Sector := l.secs.get k {}
/-- A line with a sector replaced. -/
def L1Line.setSec (l : L1Line) (k : Nat) (x : Sector) : L1Line := { l with secs := l.secs.set k x }
/-- Bytes of a sector that are dirty, those under write-back included. -/
def Sector.mine (x : Sector) : BitVec 32 := x.dirty ||| x.wb
/-- The stamp of a sector's dirty bytes. -/
def Sector.age (x : Sector) : Time :=
  if x.dirty = 0 then x.wbStamp else if x.wb = 0 then x.stamp else tmax x.stamp x.wbStamp
/-- Is byte `i` of the line dirty? -/
def L1Line.dirtyAt (l : L1Line) (i : Nat) : Bool := (l.sec (i / 32)).mine.getLsbD (i % 32)
/-- Is every byte of a run clean and valid, or dirty? -/
def L1Line.has (l : L1Line) (off n : Nat) : Bool :=
  (List.range n).all (fun i => (l.sec ((off + i) / 32)).valid || l.dirtyAt (off + i))
/-- Is some byte of a run dirty? -/
def L1Line.anyDirty (l : L1Line) (off n : Nat) : Bool := (List.range n).any (fun i => l.dirtyAt (off + i))
/-- Is the line free of dirty bytes? -/
def L1Line.clean (l : L1Line) : Bool := l.secs.all (fun e => e.2.mine = 0)

/-- Installs a version in a line: clean bytes replaced, dirty bytes kept (R232). -/
def L1Line.install (l : L1Line) (v : Ver) (a : Attr) : L1Line :=
  { data := lineMerge v.data (((List.range 128).filter l.dirtyAt).map (fun i => (i, lineByte l.data i)))
    attr := a, wt := v.wt, rt := v.rt
    secs := (List.range 4).map (fun k => (k, { l.sec k with valid := true, poison := v.poison.getLsbD k })) }

/-- The line of a core, if it holds one. -/
def State.l1 (s : State) (c key : Nat) : Option L1Line := (s.core c).l1.find key
/-- Sets a line of a core; a line with no valid and no dirty sector is dropped. -/
def State.setL1 (s : State) (c key : Nat) (l : L1Line) : State :=
  s.modCore c (fun x => { x with l1 := if l.secs.all (fun e => !e.2.valid && e.2.mine = 0) then x.l1.erase key else x.l1.set key l })

/-- Is a byte of a sector poisoned, when the version's sector is under `pv` and the byte is dirty under `d` (R386)? A version
that the dirty bytes cover whole no longer counts. -/
def Sector.badByte (x : Sector) (pv d : Bool) : Bool := if d then x.dpoison || (pv && x.mine ≠ BitVec.allOnes 32) else pv

/-- Marks stored bytes dirty (R233): bytes by offset in the line. A store of clean bytes that covers a sector clears its poison
(R386). -/
def State.dirty (s : State) (c key : Nat) (a : Attr) (bytes : List (Nat × Byte)) (slot : Nat) (t : Time) (bad : Bool) : State :=
  let l := (s.l1 c key).getD { attr := a }
  let l := bytes.foldl (fun (l : L1Line) e =>
    let x := l.sec (e.1 / 32)
    let x : Sector := { x with
      stamp := if x.dirty = 0 then t else tmax x.stamp t
      slots := if x.dirty = 0 then 1#16 <<< slot else x.slots ||| (1#16 <<< slot)
      dirty := x.dirty ||| (1#32 <<< (e.1 % 32)), dpoison := x.dpoison || bad }
    { l.setSec (e.1 / 32) x with data := lineSet l.data e.1 e.2 }) l
  let l := if bad then l else ((List.range 4).filter (coversSector bytes)).foldl (fun (l : L1Line) k =>
    l.setSec k { l.sec k with poison := false, dpoison := false }) l
  s.setL1 c key l

/-! Requests -/

/-- Does a request hold one of its core's four permits toward the slice (R349)? Permits go in the order of requests. -/
def State.permitted (s : State) (id : Nat) (q : Req) : Bool :=
  let home := s.home (q.line * 128)
  decide ((s.reqs.filter (fun e => e.1 < id && e.2.core = q.core && s.home (e.2.line * 128) == home)).length < 4)

/-- Has the core a permit free toward the home slice of a line (R349)? -/
def State.permitFree (s : State) (core line : Nat) : Bool :=
  let home := s.home (line * 128)
  decide ((s.reqs.filter (fun e => e.2.core = core && s.home (e.2.line * 128) == home)).length < 4)

/-- Does the line come through the requester-side slice of another die (R346)? -/
def State.farLine (s : State) (d line : Nat) : Bool :=
  decide ((s.home (line * 128)).1 ≠ d) && (match s.lineHome line with | .slice .leased _ => true | _ => false)

/-- Is a request of the die on a line on its way to the home and not performed: messages of one class between two sockets arrive in the
order they were sent, and the home takes a line's in the order of arrival (R344, R363)? A read that its requester-side slice may still
answer has not been sent. Of requests by number, those below `id`. -/
def State.lineBefore (s : State) (id die line : Nat) : Bool :=
  s.reqs.any (fun e => decide (e.1 < id) && e.2.line = line && e.2.core / 33 = die && e.2.reply.isNone && !e.2.lost && s.permitted e.1 e.2 &&
    (match e.2.kind with | .read _ _ ordered => e.2.fwd || ordered || !s.farLine die line | _ => true))

/-- Registers a request; its number is `nextReq` before (R349, R350). -/
def State.newReq (s : State) (q : Req) : State :=
  let (d, i) := s.home (q.line * 128)
  let key := 128 * q.core + 16 * d + i
  let seq := s.seqs.get key 0
  { s with
    reqs := s.reqs.set s.nextReq { q with seq := seq, sentAt := s.now, sends := if s.permitFree q.core q.line then 1 else 0 }
    nextReq := s.nextReq + 1
    seqs := s.seqs.set key (seq + 1) }

/-- A request is gone and its permit with it: the requests that take a permit now are sent (R349). -/
def State.endReq (s : State) (id : Nat) : State :=
  let s := { s with reqs := s.reqs.erase id }
  { s with reqs := s.reqs.mapVal (fun k q => if q.sends = 0 && s.permitted k q then { q with sends := 1, sentAt := s.now } else q) }

/-- Accesses of a core's engine or of WAKEA are counted as its requests toward the slices of their lines (R350). -/
def State.countSeqs (s : State) (core : Nat) (lines : List Nat) : State :=
  lines.foldl (fun s l =>
    let (d, i) := s.home (l * 128)
    let key := 128 * core + 16 * d + i
    { s with seqs := s.seqs.set key (s.seqs.get key 0 + 1) }) s

/-- A block of the core that holds one of the warp slots. -/
def State.slotBlock (s : State) (c : Nat) (slots : BitVec 16) : Option (Nat × Block) :=
  s.blocks.find? (fun e => e.2.core = c && e.2.st != .gone && e.2.st != .saved && e.2.warps.any (fun w => slots.getLsbD w.slot))

/-- Starts the write-back of a dirty sector, unless one is under way (R233, R250). -/
def State.startWb (s : State) (c key k : Nat) : State :=
  match s.l1 c key with
  | none => s
  | some l =>
    let x := l.sec k
    if x.dirty = 0 || x.wb ≠ 0 then s
    else
      let bytes := ((List.range 32).filter (fun i => x.dirty.getLsbD i)).map (fun i => (32 * k + i, lineByte l.data (32 * k + i)))
      let who := (s.slotBlock c x.slots).elim ((0, 0) : Nat × BitVec 16) (fun e => (e.2.vi, e.2.tag))
      let blk := (s.slotBlock c x.slots).elim 0 Prod.fst
      let q : Req := { core := c, ref := ⟨blk, 0, 0⟩, line := key / 2, ns := key % 2 = 1, vi := who.1, tag := who.2,
                       kind := .write bytes x.stamp (some k) x.dpoison }
      (s.setL1 c key (l.setSec k { x with wb := x.dirty, wbSlots := x.slots, wbStamp := x.stamp, dirty := 0, slots := 0, stamp := 0 })).newReq q

/-- Sectors of a core's level-one cache with a property: key and sector. -/
def State.sectors (s : State) (c : Nat) (p : L1Line → Sector → Bool) : List (Nat × Nat) :=
  (s.core c).l1.flatMap (fun e => (List.range 4).filterMap (fun k => if p e.2 (e.2.sec k) then some (e.1, k) else none))

/-- Must a release of the slot at this ptime and scope wait for the sector (R237)? A stamp is held against ptime as it stands
at the release, not as the write-backs of the loop raise it (DESIGN CHOICE, unsafe, log 73). -/
def Sector.binds (x : Sector) (a : Attr) (slot : Nat) (ptime : Time) (sc : Scope) : Bool :=
  match sc with
  | .c | .d | .s =>
    (a != .priv && ((x.dirty ≠ 0 && (x.slots.getLsbD slot || tle x.stamp ptime)) || (x.wb ≠ 0 && (x.wbSlots.getLsbD slot || tle x.wbStamp ptime)))) ||
    (sc = .s && a = .priv && ((x.dirty ≠ 0 && x.slots.getLsbD slot) || (x.wb ≠ 0 && x.wbSlots.getLsbD slot)))
  | _ => false

/-- Is the request an access of the fibre that its releases wait for? -/
def Req.isAccess (q : Req) (r : FRef) : Bool :=
  q.ref = r && !q.marked && (match q.kind with | .write _ _ (some _) _ => false | _ => true)

/-- Has the fibre an access outstanding (R237)? -/
def State.accessing (s : State) (r : FRef) : Bool :=
  (s.warp r.blk r.warp).pend.any (fun e => e.2.fib = r.fib && (match e.2.body with | .load _ => true | _ => false)) ||
  s.reqs.any (fun e => e.2.isAccess r) || s.remreds.any (fun e => e.2.ref = r)

/-- Sectors that the fibre's release waits for. -/
def State.binding (s : State) (r : FRef) (sc : Scope) : List (Nat × Nat) :=
  let f := s.fib r
  s.sectors (s.block r.blk).core (fun l x => x.binds l.attr (s.warp r.blk r.warp).slot f.ptime sc)

/-- Has the fibre a push outstanding that a release at .c or wider waits for (R337)? -/
def State.pushing (s : State) (r : FRef) (sc : Scope) : Bool :=
  (sc == .c || sc == .d || sc == .s) &&
  (s.core (s.block r.blk).core).cmds.any (fun e => e.2.ref = r && (e.2.op == .cpyr || e.2.op == .cpym))

/-- Sends the write-backs a release still needs. -/
def State.pumpRelease (s : State) (r : FRef) (sc : Scope) : State :=
  if s.accessing r then s
  else (s.binding r sc).foldl (fun s e => s.startWb (s.block r.blk).core e.1 e.2) s

/-- Is the release complete? -/
def State.releaseDone (s : State) (r : FRef) (sc : Scope) : Bool := !s.accessing r && !s.pushing r sc && (s.binding r sc).isEmpty

/-- Ends a release that is complete: ptime takes the largest w, at .s also BT takes ptime (R237, R421). -/
def State.endRelease (s : State) (r : FRef) (sc : Scope) : State :=
  let s := s.modFib r (fun f => { f with ptime := tmax f.ptime f.relw, rel := none })
  if sc = .s then { s with bridge := { s.bridge with bt := tmax s.bridge.bt (s.fib r).ptime } } else s

/-- A release at scope `sc` before `k` (R237): the instruction stalls until the release is complete. -/
def Ctx.release (c : Ctx) (sc : Scope) (k : State → State) : State :=
  let start (s : State) : State := s.modFib c.r (fun f => { f with rel := some (some c.pc, sc), relw := f.ptime })
  let s := match c.fib.rel with
    | some (some p, _) => if p = c.pc then c.s else start c.s
    | _ => start c.s
  match c.fib.rel, c.fib.arrivals with
  | some (none, _), _ => c.stall c.s
  | _, _ :: _ => c.stall c.s
  | _, [] =>
    let s := s.pumpRelease c.r sc
    if s.releaseDone c.r sc then k (s.endRelease c.r sc) else c.stall s

/-- A release that later loads may pass goes on, and ends when it can (R238). -/
def State.settleRelease (s : State) (r : FRef) : State :=
  match (s.fib r).rel with
  | some (none, sc) =>
    let s := s.pumpRelease r sc
    if s.releaseDone r sc then s.endRelease r sc else s
  | some (some _, sc) => s.pumpRelease r sc
  | none => s

/-- Does a release at the scope write back, and take the times of what it writes (R237)? -/
def writesBack (sc : Scope) : Bool := sc == .c || sc == .d || sc == .s

/-- The w of a write-back of a sector that is not PRIVATE reaches the releases that wait for it (R229, R237, R245, R250). -/
def State.noteW (s : State) (c slotMask : Nat) (stamp w : Time) : State :=
  s.blocks.foldl (fun s e =>
    if e.2.core ≠ c then s
    else (e.2.refs e.1).foldl (fun s r =>
      let f := s.fib r
      if f.rel.any (fun x => writesBack x.2) && (slotMask.testBit (s.warp r.blk r.warp).slot || tle stamp f.ptime) then
        s.modFib r (fun f => { f with relw := tmax f.relw w })
      else s) s) s

/-! Lane accesses of global memory -/

/-- The line, and the offset in it, of an access. -/
def Acc.line (a : Acc) : Nat := a.place / 128
/-- The offset in the line. -/
def Acc.off (a : Acc) : Nat := a.place % 128

/-- Does the fibre wait before a memory access: an acquire or an ordering access of it is outstanding (R238), for
anything but a load a FENCE.rel is, or a barrier arrival (R312). The ordered load inside a WAITA is such an acquire (R359). -/
def State.memHeld (s : State) (r : FRef) (isLoad : Bool) : Bool :=
  (s.warp r.blk r.warp).pend.any (fun e => e.2.fib = r.fib && (match e.2.body with
    | .load l => l.order = .acq || l.order = .ar || l.order = .sc
    | .answer hold => hold
    | _ => false)) ||
  s.reqs.any (fun e => e.2.ref = r && e.2.hold) ||
  (s.fib r).phases.any (fun e => match e.2 with | .waita w => w.stage == .load | _ => false) ||
  (!isLoad && ((match (s.fib r).rel with | some (none, _) => true | _ => false) || !(s.fib r).arrivals.isEmpty))

/-- Does an outstanding access of the fibre name one of the lines (R134)? A load waits for writes and atomics alone. -/
def State.lineBusy (s : State) (r : FRef) (lines : List Nat) (isLoad : Bool) : Bool :=
  s.reqs.any (fun e => e.2.isAccess r && lines.contains e.2.line && (match e.2.kind with
    | .read .. => !isLoad
    | .register => false
    | _ => true)) ||
  (s.warp r.blk r.warp).pend.any (fun e => e.2.fib = r.fib && (match e.2.body with
    | .load l => l.space = .global && l.accs.any (fun a => lines.contains a.line) && (!isLoad || l.op != .ldg)
    | _ => false))

/-- What a load of one lane finds without asking (R235, R245): its bytes, its time, and whether they are poisoned. `t0`
is ptime. -/
def State.l1Read (s : State) (c key off n : Nat) (t0 : Time) : Option (Nat × Time × Bool) :=
  match s.l1 c key with
  | none => none
  | some l =>
    let bad := (List.range n).any (fun i => let x := l.sec ((off + i) / 32); x.badByte x.poison (l.dirtyAt (off + i)))
    if l.attr = .priv then (if l.has off n then some (lineNat l.data off n, t0, bad) else none)
    else
      let t := (List.range n).foldl (fun t i => if l.dirtyAt (off + i) then tmax t (l.sec ((off + i) / 32)).age else t) t0
      if (List.range n).all (fun i => (l.sec ((off + i) / 32)).valid) && within l.wt t l.rt then some (lineNat l.data off n, t, bad) else none

/-- Does the core's level-one cache hold the bytes of a run of a PRIVATE page (R245)? -/
def State.privHeld (s : State) (c key off n : Nat) : Bool :=
  match s.l1 c key with | some l => l.attr == .priv && l.has off n | none => false

/-- The attribute under which the core holds what a plain load at a time, or a plain store, needs: such an access makes no fill and asks
no home for its page (R235, R371, R375). -/
def State.l1Hit (s : State) (c key off n : Nat) (t : Time) (wr : Bool) : Option Attr :=
  match s.l1 c key with
  | some l => if (if wr then l.secs.any (fun e => e.2.valid || e.2.mine ≠ 0) else (s.l1Read c key off n t).isSome) then some l.attr else none
  | none => none

/-- The same from a version brought for the load, with the dirty bytes of the core in its place (R235); none if the
version does not hold at the time the load now has. -/
def State.verRead (s : State) (c key off n : Nat) (t0 : Time) (v : Ver) : Option (Nat × Time × Bool) :=
  let l := (s.l1 c key).getD {}
  let t := (List.range n).foldl (fun t i => if l.dirtyAt (off + i) then tmax t (l.sec ((off + i) / 32)).age else t) t0
  let t := tmax t v.wt
  let data := lineMerge v.data (((List.range n).filter (fun i => l.dirtyAt (off + i))).map (fun i => (off + i, lineByte l.data (off + i))))
  let bad := (List.range n).any (fun i => (l.sec ((off + i) / 32)).badByte (v.poison.getLsbD ((off + i) / 32)) (l.dirtyAt (off + i)))
  if tle t v.rt then some (lineNat data off n, t, bad) else none

/-- Is a plain load's line known stale to the core: a version older than the one its line holds? -/
def State.older (s : State) (c key : Nat) (v : Ver) : Bool :=
  match s.l1 c key with
  | some l => l.attr != .priv && l.secs.any (fun e => e.2.valid) && precedes v.wt l.wt
  | none => false

/-- Read requests of a core on a line whose reply is older than a write just performed there are made again (R235,
R241). -/
def State.againReads (s : State) (c line : Nat) (w : Time) : State :=
  let s := { s with reqs := s.reqs.mapVal (fun _ q =>
    if q.core = c && q.line = line then
      (match q.kind, q.reply with
       | .read .., some x => if precedes x.ver.wt w then { q with reply := none, fwd := true } else q
       | _, _ => q)
    else q) }
  { s with blocks := s.blocks.mapVal (fun _ b => if b.core ≠ c then b else
      { b with warps := b.warps.map (fun w' => { w' with pend := w'.pend.mapVal (fun _ p => match p.body with
          | .load l => { p with body := .load { l with got := l.got.filter (fun g => !(g.1 / 2 = line && precedes g.2.wt w)) } }
          | _ => p) }) }) }

/-- The requester-side copy of a die takes a version, if it holds one of the line (R346). -/
def State.renewCopy (s : State) (d line : Nat) (v : Ver) : State :=
  match (s.die d).copies.find line with
  | some _ => s.setCopy d line v
  | none => s

/-- What the end of a write at the home does at the writing core: its line takes the version, the dirty bytes of a
write-back become clean, releases take w (R233, R236, R240, R250). Where the line holds a later version already, as an access of an
engine can bring it, that one stays, and a sector written back is no longer valid there (R241). -/
def State.wroteBack (s : State) (c : Nat) (key : Nat) (wb : Option Nat) (v : Ver) : State :=
  let line := key / 2
  let s := match s.l1 c key with
    | none => s
    | some l =>
      let x := l.sec (wb.getD 0)
      let late := s.older c key v
      let l' : L1Line := match wb with
        | some k => if late then l.setSec k { x with wb := 0, wbSlots := 0, wbStamp := 0, valid := false, dpoison := x.dpoison && x.dirty ≠ 0 }
          else (l.setSec k { x with wb := 0, wbSlots := 0, wbStamp := 0, dpoison := x.dpoison && x.dirty ≠ 0 }).install v l.attr
        | none => if late then l else l.install v l.attr
      let s := if l.attr == Attr.priv && wb.isNone then s else s.setL1 c key l'
      if wb.isSome && l.attr != Attr.priv then s.noteW c x.wbSlots.toNat x.wbStamp v.wt else s
  (s.againReads c line v.wt).renewCopy (c / 33) line v

end Sys2Proof.Machine
end

