-- ==== Sys2Proof/Machine/Desc.lean ====
section
/-!
DEFINITION. Descriptors, operand maps and parameter blocks of engine commands, and the bytes of scratchpad and accumulator
that a command reads and writes (R135, R254, R262, R264 to R268, R278, R284, R287, R292, R295).
-/

namespace Sys2Proof.Machine

/-! Fields of descriptors -/

/-- An unsigned field of `n` bytes at an offset (R6). -/
def dfld (d : List Byte) (o n : Nat) : Nat := leNat ((d.drop o).take n)

/-- A signed field of `n` bytes at an offset. -/
def dsfld (d : List Byte) (o n : Nat) : Int := sext (8 * n) (dfld d o n)

/-- Is every byte of a run zero? -/
def dzero (d : List Byte) (o n : Nat) : Bool := ((d.drop o).take n).all (fun b => b = 0)

/-- The counter a field names. -/
def ctrNum (o : Operand) : Nat := match o with | .sp (.ctr n) => n.toNat | _ => 0

/-- The store offset of an accumulator offset of a block (R125, R228). -/
def Block.accPlace (b : Block) (a : Nat) : Nat := b.banks.headD 0 * Config.accBank + a

/-! Copy and chain descriptors -/

/-- A copy descriptor (R262). -/
structure CopyDesc where
  sa : Nat
  da : Nat
  len : Nat
  n1 : Nat
  n2 : Nat
  ss : Nat
  ds : Nat
  s1 : Int
  s2 : Int
  d1 : Int
  d2 : Int
  bad : Bool
deriving Repr

/-- The fields of a copy descriptor. -/
def copyDesc (d : List Byte) : CopyDesc :=
  { sa := dfld d 0 8, da := dfld d 8 8, len := dfld d 16 4, n1 := dfld d 20 2, n2 := dfld d 22 2, ss := dfld d 24 1,
    ds := dfld d 25 1, s1 := dsfld d 32 8, s2 := dsfld d 40 8, d1 := dsfld d 48 8, d2 := dsfld d 56 8, bad := !dzero d 26 6 }

/-- Does the command move rows that lanes choose? -/
def isGather (o : Op) : Bool := o == .gath || o == .scat

/-- The rows of a copy in the loop order of R264, or of the lanes of a gather (R265): source and destination. A displacement of a
register pair is a signed number of 64 bits where addresses are exact (DESIGN CHOICE, unsafe, log 74). -/
def copyRows (m : Cmd) (d : CopyDesc) : List (Int × Int) :=
  match m.op with
  | .gath => m.lanes.map (fun e => ((d.sa : Int) + e.2.toNat * d.s1, (d.da : Int) + e.1 * d.d1))
  | .scat => m.lanes.map (fun e => ((d.sa : Int) + e.1 * d.s1, (d.da : Int) + e.2.toNat * d.d1))
  | _ => (List.range (d.n2 + 1)).flatMap (fun (q : Nat) => (List.range (d.n1 + 1)).map (fun (r : Nat) =>
      ((d.sa : Int) + sext 64 m.b.toNat + r * d.s1 + q * d.s2, (d.da : Int) + sext 64 m.c.toNat + r * d.d1 + q * d.d2)))

/-- A chain descriptor (R266). -/
structure ChainDesc where
  sa : Nat
  da : Nat
  nc : Nat
  nr : Nat
  ss : Nat
  ds : Nat
  sstr : Int
  dstr : Int
  sf : Option Ty
  df : Option Ty
  rnd : Option Rnd
  ops : List (Nat × Nat × Nat × Nat)
  bad : Bool
deriving Repr

/-- The element formats of a chain (R266). -/
def chainFmt (n : Nat) : Option Ty :=
  match tyOfCode n with
  | some .f32 => some .f32 | some .f16 => some .f16 | some .bf16 => some .bf16 | some .e4m3 => some .e4m3
  | some .e5m2 => some .e5m2 | _ => none

/-- Rounding codes 0b000 to 0b011. -/
def chainRnd (n : Nat) : Option Rnd := if n < 4 then rndOfCode n else none

/-- The fields of a chain descriptor; counts are whole. -/
def chainDesc (d : List Byte) : ChainDesc :=
  { sa := dfld d 0 8, da := dfld d 8 8, nc := dfld d 16 2 + 1, nr := dfld d 18 2 + 1, ss := dfld d 40 1, ds := dfld d 41 1,
    sstr := dsfld d 24 8, dstr := dsfld d 32 8, sf := chainFmt (dfld d 42 1), df := chainFmt (dfld d 43 1),
    rnd := chainRnd (dfld d 44 1),
    ops := (List.range 8).map (fun i => (dfld d (64 + 16 * i) 1, dfld d (65 + 16 * i) 1, dfld d (72 + 16 * i) 4, dfld d (76 + 16 * i) 4)),
    bad := !(dzero d 20 4 && dzero d 45 19 && (List.range 8).all (fun i => dzero d (66 + 16 * i) 6)) }

/-- The op slots before the end of the list. -/
def ChainDesc.steps (d : ChainDesc) : List (Nat × Nat × Nat × Nat) := d.ops.takeWhile (fun o => o.1 ≠ 0)

/-- Does the list end in a reduction? Its ARG. -/
def ChainDesc.reduce (d : ChainDesc) : Option Nat :=
  match d.steps.getLast? with
  | some (9, arg, _, _) => some arg
  | _ => none

/-- Bytes of a row of the chain's source and destination. -/
def ChainDesc.rowBytes (d : ChainDesc) : Nat × Nat :=
  (d.nc * (d.sf.getD .f32).bytes, (if d.reduce.isSome then 1 else d.nc) * (d.df.getD .f32).bytes)

/-! Operand maps and tiles -/

/-- An operand map (R278). -/
structure OpMap where
  base : Nat
  pitch : Nat
  rows : Nat
  fmt : Option Ty
  cb : Nat
  scaled : Bool
  sbase : Nat
  spitch : Nat
  bad : Bool
deriving Repr

/-- The fields of a map; scale fields that are not zero without SCALED count as reserved bytes. -/
def opMap (d : List Byte) : OpMap :=
  let scaled := dfld d 14 1 % 2 = 1
  { base := dfld d 0 4, pitch := dfld d 4 4, rows := dfld d 8 4, fmt := tyOfCode (dfld d 12 1), cb := dfld d 13 1 % 16,
    scaled := scaled, sbase := dfld d 16 4, spitch := dfld d 20 4,
    bad := decide (16 ≤ dfld d 13 1) || decide (2 ≤ dfld d 14 1) || !dzero d 15 1 || !dzero d 24 8 ||
      (!scaled && !(dzero d 16 8)) }

/-- Bits of an element of a map. -/
def elemBits (t : Ty) : Nat := if t = .cb4 then 4 else t.bits

/-- The format of a map, once checked. -/
def OpMap.ty (m : OpMap) : Ty := m.fmt.getD .bf16

/-- The scratchpad offset of the byte that holds element `k` of row `r`. -/
def OpMap.off (m : OpMap) (r k : Nat) : Nat := m.base + r * m.pitch + k * elemBits m.ty / 8

/-- The scratchpad offset of the scale of element `k` of row `r`. -/
def OpMap.soff (m : OpMap) (r k : Nat) : Nat := m.sbase + r * m.spitch + k / 32

/-- A register of the parameter block. -/
def Cmd.reg (m : Cmd) (i : Nat) : Nat := (m.regs.getD i 0).toNat

/-- N of an MMA (R285). -/
def Cmd.cols (m : Cmd) : Nat := match m.f.x with | .mma nc _ => 32 * 2 ^ nc.toNat | _ => 32

/-- Is the command an MMA or MMAS? -/
def isMma (o : Op) : Bool := o == .mma || o == .mmas

/-- Does the accumulator form name a map? -/
def hasMap (o : Op) : Bool := o == .accld || o == .acccvt

/-- Set bits of a mask of warps. -/
def popWarps (m : Word) : Nat := ((List.range 16).filter (fun i => m.getLsbD i)).length

/-- Rows and row bytes of the tile (R284, R287, R295). -/
def Cmd.tile (m : Cmd) (width : Nat) : Nat × Nat :=
  if isMma m.op then (width * max 1 (popWarps m.c.toNat), 4 * m.cols) else (m.reg 2, 4 * m.reg 3)

/-- Classes of R280: the K-step, and whether the class is integer. -/
def pairClass (a b : Ty) : Option (Nat × Bool) :=
  let f8 (t : Ty) : Bool := t == .e4m3 || t == .e5m2
  let i8 (t : Ty) : Bool := t == .i8 || t == .n8
  if (a == .bf16 && b == .bf16) || (a == .f16 && b == .f16) then some (64, false)
  else if f8 a && f8 b then some (128, false)
  else if i8 a && i8 b then some (128, true)
  else if a == .cb4 && b == .cb4 then some (256, false)
  else none

/-- Rows of a command: member, lane, row index and metadata (R287, R291). -/
def Cmd.rowList (m : Cmd) : List (Member × Nat × Nat × Word) :=
  m.members.flatMap (fun u => (lanesOf u.active).map (fun l =>
    let (i, own) := u.rows.get l (0, 0)
    let sel := match m.f.x with | .mma _ sl => sl.toNat | _ => 0
    (u, l, i.toNat, if sel = 0 then own else if u.active.getLsbD (sel - 1) then (u.rows.get (sel - 1) (0, 0)).2 else 0)))

/-- Logical elements of an MMA's step, and its class (R280, R288). -/
def Cmd.klog (m : Cmd) : Nat × Bool :=
  match pairClass (opMap m.desc).ty (opMap m.desc2).ty with
  | some (k, int) => (if m.op = .mmas then 2 * k else k, int)
  | none => (64, false)

/-- Scratchpad runs that the command reads or, for ACCCVT, writes: offset and length (R278, R291, R292). -/
def Cmd.runsOf (m : Cmd) : List (Nat × Nat) :=
  let a := opMap m.desc
  if isMma m.op then
    let y := opMap m.desc2
    let (kl, _) := m.klog
    let kb := m.reg 2
    let ka := if m.op = .mmas then kb / 2 else kb
    m.rowList.flatMap (fun r => (a.off r.2.2.1 ka, 128) ::
      (if a.scaled then [(a.soff r.2.2.1 kb, kl / 32)] else [])) ++
    (List.range m.cols).flatMap (fun n => (y.off n kb, if m.op = .mmas then 256 else 128) ::
      (if y.scaled then [(y.soff n kb, kl / 32)] else []))
  else if hasMap m.op then
    (List.range (m.reg 2)).flatMap (fun r =>
      (a.off (m.reg 6 + r) (m.reg 7), (m.reg 3 * elemBits a.ty + 7) / 8) ::
      (if a.scaled then [(a.soff (m.reg 6 + r) (m.reg 7), (m.reg 3 + 31) / 32)] else []))
  else []

/-- Accumulator rows of the command: the tile rows of active lanes, or all of them. -/
def Cmd.tileRows (m : Cmd) (width : Nat) : List Nat :=
  if isMma m.op then m.rowList.map (fun r => r.1.rank * width + r.2.1)
  else if m.op = .accscl then (m.lanes.filter (fun e => decide (e.1 < m.reg 2))).map Prod.fst
  else List.range (m.reg 2)

/-! The bytes a command touches -/

/-- A run of bytes of a region: scratchpad or accumulator, its offset in the block's space, its length, read, written. -/
structure Stretch where
  acc : Bool
  off : Int
  n : Nat
  rd : Bool
  wr : Bool
deriving Repr

/-- A stretch in a space of R262; none in the other spaces, which no scoreboard records (R254). -/
def stretchOf (sp : Nat) (off : Int) (n : Nat) (wr : Bool) : List Stretch :=
  if sp = 1 ∨ sp = 2 then [{ acc := sp == 2, off := off, n := n, rd := !wr, wr := wr }] else []

/-- The bytes of scratchpad and accumulator that a sound command reads and writes (R135). -/
def Cmd.stretches (m : Cmd) (width : Nat) : List Stretch :=
  match m.op with
  | .cpy | .gath | .scat =>
    let d := copyDesc m.desc
    (copyRows m d).flatMap (fun r => stretchOf d.ss r.1 d.len false ++ stretchOf d.ds r.2 d.len true)
  | .cpyr | .cpym =>
    let d := copyDesc m.desc
    (copyRows { m with c := 0 } d).flatMap (fun r => stretchOf d.ss r.1 d.len false)
  | .chain =>
    let d := chainDesc m.desc
    let (sn, dn) := d.rowBytes
    (List.range d.nr).flatMap (fun (r : Nat) => stretchOf d.ss ((d.sa : Int) + sext 64 m.b.toNat + r * d.sstr) sn false ++
      stretchOf d.ds ((d.da : Int) + sext 64 m.c.toNat + r * d.dstr) dn true)
  | .tblld => stretchOf 1 m.a.toNat 2080 false
  | .cbld => stretchOf 1 m.a.toNat 32 false
  | .mcst => stretchOf 1 (m.b.toNat % 2 ^ 32 : Nat) (dfld m.desc 2 2) false
  | .pcpy => stretchOf (dfld m.desc 20 1) (dfld m.desc 8 8) (dfld m.desc 16 4) true
  | o =>
    if m.engine == .matrix then
      m.runsOf.flatMap (fun r => stretchOf 1 r.1 r.2 (o == .acccvt)) ++
      (m.tileRows width).map (fun (r : Nat) => { acc := true, off := (m.reg 0 + r * m.reg 1 : Nat), n := (m.tile width).2,
                                                 rd := isMma o || o == .acccvt || o == .accscl, wr := o != .acccvt })
    else []

/-- Is the byte at a store offset in a stretch? -/
def Stretch.has (x : Stretch) (b : Block) (acc : Bool) (place : Nat) : Bool :=
  let at' : Int := (place : Int) - (if acc then b.accPlace 0 else b.sbase : Nat)
  x.acc == acc && decide (x.off ≤ at') && decide (at' < x.off + x.n)

end Sys2Proof.Machine
end

