-- ==== Sys2Proof/Machine/LaneMem.lean ====
section
/-!
DEFINITION. The lane memory instructions (R125 to R143): addresses and checks, the scratchpad, the accumulator windows
and the on-chip map, loads, stores, atomics, PREF and FENCE, and their completion (R235 to R241, R244, R245).
-/

namespace Sys2Proof.Machine

/-! Addresses -/

/-- The displacement of R126 in bytes. -/
def memDisp (f : Ins) (unit : Nat) : Int :=
  match f.b, f.x with
  | .imm x, _ => sext 16 x.toNat
  | _, .mem dh _ _ dl _ => sext 7 (dh.toNat * 16 + dl.toNat) * unit
  | _, _ => 0

/-- Does the form take a displacement beside a lane offset (R126)? -/
def hasDisp (o : Op) : Bool :=
  match o with
  | .ldg | .stg | .lds | .sts | .lda | .sta | .ldo | .sto | .pref => true
  | _ => false

/-- The address of a lane, exact (R126). -/
def Ctx.addrOf (c : Ctx) (unit lane : Nat) : Int :=
  (c.va lane : Int) + (match c.f.b with | .imm _ => 0 | _ => sext 32 (c.vb lane)) +
    (match c.f.b with | .imm _ => memDisp c.f 0 | _ => if hasDisp c.o then memDisp c.f unit else 0)

/-- The bytes of one access. -/
def Ctx.size (c : Ctx) : Nat := c.f.x.ty.bytes

/-- A refusal of step 8: class, lane, the address, and the IA and cause of a fault record. -/
structure Bad where
  cls : Nat
  lane : Nat
  addr : Int
  sp : Bool
  page : Option (Nat × Nat) := none

/-- Does a watchpoint match an access of `n` bytes (R201, R202)? -/
def Fibre.watched (f : Fibre) (va n : Nat) (rd wr : Bool) : Bool :=
  f.wp.any (fun e =>
    let w := e.2
    let sz := 2 ^ bitsOf w.ctl.toNat 4 5
    let lo := w.va.toNat / sz * sz
    w.ctl.getLsbD 0 && ((rd && w.ctl.getLsbD 1) || (wr && w.ctl.getLsbD 2)) && decide (va < lo + sz) && decide (lo < va + n))

/-- The first lane that a check refuses. -/
def firstBad (xs : List (Except Bad Acc)) : Option Bad :=
  xs.findSome? (fun x => match x with | .error b => some b | .ok _ => none)

/-- The accesses that were not refused. -/
def goodAccs (xs : List (Except Bad Acc)) : List Acc := xs.filterMap (fun x => match x with | .ok a => some a | .error _ => none)

/-- The attribute of an access that the level-one cache serves by itself: a plain LDG or STG of what the core holds (R371, R375). -/
def Ctx.heldAttr (c : Ctx) (ia : Nat) (ns : Bool) (n : Nat) : Option Attr :=
  if c.f.x.order == .none && (c.o == .ldg || c.o == .stg) then c.s.l1Hit c.blk.core (l1Key (ia / 128) ns) (ia % 128) n c.fib.ptime (c.o == .stg)
  else none

/-- The attribute of the page of an access, or its refusal (R129, R246, R371). -/
def Ctx.attrAt (c : Ctx) (ia : Nat) (ns : Bool) (n : Nat) : Except (Option Nat) Attr :=
  match c.heldAttr ia ns n with
  | some a => .ok a
  | none => c.s.pageOf c.blk ia

/-- The access of one lane to global memory, or its RNG (R125, R127, R246, R371). -/
def Ctx.globalAcc (c : Ctx) (perm : Range → Bool) (unit lane : Nat) : Except Bad Acc :=
  let a := wrapTo 64 (c.addrOf unit lane)
  let no (p : Option (Nat × Nat)) : Except Bad Acc := .error { cls := cRNG, lane := lane, addr := a, sp := false, page := p }
  if 2 ^ 57 ≤ a then no none
  else match c.blk.translateVa a perm with
    | none => no none
    | some (g, ia) => match c.attrAt ia g.ns unit with
      | .error cause => no (cause.map (fun k => (ia, k)))
      | .ok attr => .ok { lane := lane, addr := BitVec.ofNat 64 a, core := c.blk.core, place := ia, ns := g.ns, attr := attr }

/-- The access of one lane to scratchpad or accumulator windows (R125). Places are store offsets. An access whose first byte lies
in the space and whose last lies beyond its top leaves the space's bounds, and raises RNG whatever its alignment (DESIGN CHOICE,
unsafe, log 70). -/
def Ctx.localAcc (c : Ctx) (acc : Bool) (lane : Nat) : Except Bad Acc :=
  let a := c.addrOf c.size lane
  let b := c.blk
  let top := if acc then b.accBytes else b.sspan
  if a < 0 ∨ (top : Int) < a + c.size then .error { cls := cRNG, lane := lane, addr := a, sp := true }
  else
    let a := a.toNat
    let place := if acc then b.banks.getD (a / Config.accBank) 0 * Config.accBank + a % Config.accBank else b.sbase + a
    .ok { lane := lane, addr := BitVec.ofNat 64 a, core := b.core, place := place }

/-- Does a byte of a core's store belong to a block of the same grid, in a world the block may reach (R129)? -/
def State.mapOwned (s : State) (b : Block) (core win off : Nat) : Bool :=
  s.blocks.any (fun e =>
    let x := e.2
    x.st == .resident && x.core == core && x.task == b.task && x.service == b.service && (!b.ns || x.ns) &&
    (if win = 0 then (decide (x.rbase ≤ off) && decide (off < x.rbase + x.rspan)) || (decide (x.sbase ≤ off) && decide (off < x.sbase + x.sspan))
     else x.banks.contains (off / Config.accBank)))

/-- Core, window and offset of an on-chip-map address that R129 admits; window 2 for a 64-bit lane access alone. -/
def State.mapPlace (s : State) (b : Block) (a : Nat) (page : Bool) : Option (Nat × Nat × Nat) :=
  let core := 33 * bitsOf a 40 4 + bitsOf a 34 6
  let win := bitsOf a 32 2
  let off := a % 2 ^ 32
  if bitsOf a 52 12 ≠ 0 || bitsOf a 44 8 ≠ 0xFF || !(s.boot.dies.getLsbD (bitsOf a 40 4)) || decide (6 ≤ bitsOf a 40 4) then none
  else if 32 < bitsOf a 34 6 ∨ (bitsOf a 34 6 = 32 ∧ !b.service) ∨ !s.coreLive core then none
  else if win = 2 then (if b.service && page && decide (off < 0x10000) then some (core, 2, off) else none)
  else if win = 3 then none
  else if (if win = 0 then Config.storeBytes else 2 * Config.accBank) ≤ off then none
  else if s.mapOwned b core win off then some (core, win, off) else none

/-- The access of one lane through the on-chip map; the window stands above the offset in the place. The first byte decides about RNG:
one that begins in an allocated region and runs beyond it is misaligned, and raises ALN (DESIGN CHOICE, unsafe, log 86). -/
def Ctx.mapAcc (c : Ctx) (lane : Nat) : Except Bad Acc :=
  let a := wrapTo 64 (c.addrOf c.size lane)
  match c.s.mapPlace c.blk a (c.f.x.ty == .b64) with
  | some (core, win, off) => .ok { lane := lane, addr := BitVec.ofNat 64 a, core := core, place := win * 2 ^ 32 + off }
  | none => .error { cls := cRNG, lane := lane, addr := a, sp := true }

/-- The first lane whose address is not a multiple of the size. -/
def firstOdd (sp : Bool) (n : Nat) (as : List Acc) : Option Bad :=
  (as.find? (fun a => a.addr.toNat % n ≠ 0)).map (fun a => { cls := cALN, lane := a.lane, addr := a.addr.toNat, sp := sp })

/-- The checks of step 8 in their order (R61, R140). -/
def Ctx.accesses (c : Ctx) (one : Nat → Except Bad Acc) (sp rd wr : Bool) : Except Bad (List Acc) :=
  let xs := c.lanes.map one
  match firstBad xs with
  | some b => .error b
  | none =>
    let as := goodAccs xs
    match firstOdd sp c.size as with
    | some b => .error b
    | none => match as.find? (fun a => !sp && c.fib.watched a.addr.toNat c.size rd wr) with
      | some a => if c.fib.latches cWCH then .ok as else .error { cls := cWCH, lane := a.lane, addr := a.addr.toNat, sp := false }
      | none => .ok as

/-- The TVAL of a refusal (R141). -/
def Bad.val (b : Bad) : Dword := accessVal b.sp b.lane (wrapTo 57 b.addr)

/-- The fault of a refusal, with the fault record of a refused page. -/
def Ctx.refuse (c : Ctx) (b : Bad) : State :=
  let s := match b.page with
    | some (ia, k) => c.s.pageFault c.blk ia (b.addr.toNat) (some k)
    | none => c.s
  s.raise c.r b.cls b.val c.pc c.path false 0

/-- A watchpoint hit latched in trap mode, where the access goes on (R162, R167). -/
def Ctx.watchLatch (c : Ctx) (s : State) (as : List Acc) (rd wr : Bool) : State :=
  match as.find? (fun a => c.fib.watched a.addr.toNat c.size rd wr) with
  | some a => s.raise c.r cWCH (accessVal false a.lane a.addr.toNat) c.pc c.path false 0
  | none => s

/-! The stores of the cores -/

/-- A byte of a core's store; the window stands above the offset. -/
def State.storeByte (s : State) (core place : Nat) (acc : Bool) : Byte :=
  if acc then (s.core core).acc.read place else (s.core core).uni.read place
/-- Is a word of a core's store poisoned? -/
def State.storePoison (s : State) (core place : Nat) (acc : Bool) : Bool :=
  if acc then (s.core core).accPoison.contains (place / 4) else (s.core core).uniPoison.contains (place / 4)

/-- Poison marks after a write of a run of bytes: whole words clear or take the mark, a part keeps it (R322). -/
def poisonWords (p : List Nat) (a n : Nat) (bad : Bool) : List Nat :=
  (List.range ((a % 4 + n + 3) / 4)).foldl (fun p i =>
    let w := a / 4 + i
    if bad then setAdd p w else if decide (a ≤ 4 * w) && decide (4 * w + 4 ≤ a + n) then setDel p w else p) p

/-- Writes bytes into a core's store. -/
def State.storeWrite (s : State) (core place : Nat) (acc : Bool) (bs : List Byte) (bad : Bool) : State :=
  if acc then s.modCore core (fun c => { c with acc := c.acc.writes place bs, accPoison := poisonWords c.accPoison place bs.length bad })
  else s.modCore core (fun c => { c with uni := c.uni.writes place bs, uniPoison := poisonWords c.uniPoison place bs.length bad })

/-- Does a run of bytes meet a region (R254)? Regions are 32-byte blocks of the scratchpad's or the bank's store. -/
def Region.meetsRun (g : Region) (acc : Bool) (place n : Nat) : Bool :=
  match g with
  | .scratch lo hi => !acc && decide (place < hi) && decide (lo < place + n)
  | .acc lo hi => acc && decide (place < hi) && decide (lo < place + n)
  | _ => false

/-- Is the command on a counter of the fibre? -/
def Cmd.mine (m : Cmd) (r : FRef) : Bool := m.ref == r || m.members.any (fun x => r == ⟨m.ref.blk, x.warp, m.ref.fib⟩)

/-- Are some of the bytes of a run among those that a command reads or writes, of the kind picked (R135)? Its intervals of R254
hold every such byte. -/
def State.cmdTouches (s : State) (m : Cmd) (pick : Stretch → Bool) (place n : Nat) (acc : Bool) : Bool :=
  let b := s.block m.ref.blk
  (m.reads ++ m.writes).any (fun g => g.meetsRun acc place n) &&
    (m.stretches b.width).any (fun x => pick x && (List.range n).any (fun i => x.has b acc (place + i)))

/-- Matrix commands of a core still outstanding that read a region under a run of bytes, or have an accumulator region there
(R294). -/
def State.readingMatrix (s : State) (core place n : Nat) (acc : Bool) : List Nat :=
  ((s.core core).cmds.filter (fun e => e.2.engine == .matrix && s.cmdTouches e.2 (fun x => x.rd || x.acc) place n acc)).map Prod.fst

/-- Commands of the fibre still outstanding that have a region under a run of bytes (R135). -/
def State.overlapping (s : State) (r : FRef) (core place n : Nat) (acc : Bool) : List Nat :=
  ((s.core core).cmds.filter (fun e => e.2.mine r && s.cmdTouches e.2 (fun _ => true) place n acc)).map Prod.fst

/-- A lane store by the fibre marks what the commands it meets leave unpredictable: rows of the accumulator (R294), and bytes that
they write (R135). -/
def State.spoil (s : State) (r : FRef) (core place n : Nat) (acc : Bool) : State :=
  let hit := s.readingMatrix core place n acc
  let mine := s.overlapping r core place n acc
  if hit.isEmpty && mine.isEmpty then s
  else s.modCore core (fun c => { c with cmds := c.cmds.mapVal (fun k m => { m with
    garbled := m.garbled || hit.contains k,
    spoiled := if mine.contains k then
        m.spoiled ++ ((List.range n).filter (fun i => s.cmdTouches m Stretch.wr (place + i) 1 acc)).map (fun i => (place + i, acc))
      else m.spoiled }) })

/-- Would the range scoreboard hold back a read of the run by the block (R215, R254)? -/
def State.readHeld (s : State) (core blk place n : Nat) (acc : Bool) : Bool :=
  (s.core core).cmds.any (fun e => e.2.ref.blk == blk && e.2.writes.any (fun g => g.meetsRun acc place n))

/-- A core's control page (R472). -/
def State.corePage (s : State) (core off : Nat) : Dword :=
  let c := s.core core
  let here := s.blocks.filter (fun e => e.2.core = core && e.2.st == .resident)
  let fibs := here.flatMap (fun e => e.2.warps.flatMap (fun w => w.fibs.filter (fun f => f.st != .ended)))
  let gated := !fibs.isEmpty && fibs.all (fun f => match f.stall with | some x => x.op == .halt | none => false)
  let slots := (here.map (fun e => e.2.warps.length)).sum
  let banks := (here.map (fun e => e.2.banks.length)).sum
  match off with
  | 0x000 => BitVec.ofNat 64 (bit1 (s.coreOpen core) + 2 * bit1 (c.tamper == .quarantined) +
      4 * bit1 (c.tamper == .draining) + 8 * bit1 gated + 256 * slots + 65536 * banks)
  | 0x010 => BitVec.ofNat 64 (bit1 c.latch)
  | 0x018 => BitVec.ofNat 64 (700 - 50 * s.throttle)
  | 0x020 => c.temp.setWidth 64
  | 0x028 => c.power.setWidth 64
  | 0x030 => c.cecnt
  | 0x038 => c.uecnt
  | 0x040 => BitVec.ofNat 64 (c.tlog.length + 2048 * bit1 c.tall)
  | 0x048 => c.tpass
  | _ => 0

/-- A write to a core's control page (R472, R475). -/
def State.corePageWrite (s : State) (core off : Nat) (v : Dword) : State :=
  match off with
  | 0x008 => s.modCore core (fun c => { c with latch := true })
  | 0x030 => if v = 0 then s.modCore core (fun c => { c with cecnt := 0 }) else s
  | 0x038 => if v = 0 then s.modCore core (fun c => { c with uecnt := 0 }) else s
  | _ => s

/-! Performing an access that has one copy (R244) -/

/-- The register pattern of a loaded value (R133). -/
def loadExt (t : Ty) (x : Nat) : Nat := if t.signed then wrapTo 32 (sext t.bits x) else x

/-- Where an access lies: offset, accumulator store or not, control page or not. -/
def Acc.spot (a : Acc) (sp : Space) : Nat × Bool × Bool :=
  match sp with
  | .acc => (a.place, true, false)
  | .map => (a.place % 2 ^ 32, a.place / 2 ^ 32 = 1, a.place / 2 ^ 32 = 2)
  | _ => (a.place, false, false)

/-- The value at an access, and its poison. -/
def State.spotRead (s : State) (a : Acc) (sp : Space) (n : Nat) : Nat × Bool :=
  let (off, acc, page) := a.spot sp
  if page then ((s.corePage a.core off).toNat, false)
  else (leNat ((List.range n).map (fun i => s.storeByte a.core (off + i) acc)),
        (List.range n).any (fun i => s.storePoison a.core (off + i) acc))

/-- Writes a value at an access. Bytes of a region of an outstanding command of the fibre become unpredictable (R135), and so
do the accumulator rows of every outstanding matrix command that reads it (R294). -/
def State.spotWrite (s : State) (r : FRef) (a : Acc) (sp : Space) (n : Nat) (v : Nat) : State :=
  let (off, acc, page) := a.spot sp
  if page then s.corePageWrite a.core off (BitVec.ofNat 64 v)
  else
    let t := if (s.overlapping r a.core off n acc).isEmpty then s.storeWrite a.core off acc (leBytes n v) false
      else { s with free := s.free + n }.storeWrite a.core off acc ((leBytes n v).zipIdx.map (fun (e : Byte × Nat) =>
        if (s.overlapping r a.core (off + e.2) 1 acc).isEmpty then e.1 else Config.freeByte (s.free + e.2))) false
    t.spoil r a.core off n acc

/-- The destination registers of a lane after a load or an atomic. -/
def LoadOp.put (l : LoadOp) (n lane v : Nat) : List Eff := vregEffs l.d n lane v

/-- Registers a result of the access takes. -/
def LoadOp.words (l : LoadOp) : Nat := l.ty.words

/-- An access to scratchpad, accumulator windows or the on-chip map is performed, lane by lane (R134, R137, R142):
changes of registers, and whether poison was read. -/
def State.performLocal (s : State) (r : FRef) (l : LoadOp) : State × List Eff × Bool :=
  let n := l.ty.bytes
  l.accs.foldl (fun st a =>
    let (s, effs, bad) := st
    match l.op with
    | .lds | .lda | .ldo =>
      let (v, p) := s.spotRead a l.space n
      let (off, acc, page) := a.spot l.space
      let hit := !page && !(s.overlapping r a.core off n acc).isEmpty
      let v := if hit then (List.range l.words).foldl (fun x k => x + (Config.freeWord (s.free + k)).toNat * 2 ^ (32 * k)) 0 else loadExt l.ty v
      (if hit then { s with free := s.free + l.words } else s, effs ++ l.put l.words a.lane v, bad || p)
    | .sts | .sta | .sto => (s.spotWrite r a l.space n (a.v.toNat + a.w.toNat * 2 ^ 64), effs, bad)
    | _ =>
      let red := l.op == .reds
      let (m, p) := s.spotRead a l.space n
      let m' := aopApply l.aop l.ty m a.v.toNat a.w.toNat
      let s := if p then s else s.spotWrite r a l.space n m'
      let (off, acc, _) := a.spot l.space
      let hit := !p && !(s.overlapping r a.core off n acc).isEmpty
      let old := if hit then (List.range l.words).foldl (fun x k => x + (Config.freeWord (s.free + k)).toNat * 2 ^ (32 * k)) 0 else m
      (if hit then { s with free := s.free + l.words } else s, if red then effs else effs ++ l.put l.words a.lane old, bad || (p && !red))) (s, [], false)

/-- Ends an access: registers written, poison consumed (R62, R142). -/
def State.landAccess (s : State) (r : FRef) (effs : List Eff) (bad : Bool) (ia : Nat) : State :=
  if bad then
    let s := { s with free := s.free + effs.length }
    (s.applyEffs r (garble (s.free - effs.length) effs)).consumePoison r ia
  else s.applyEffs r effs

/-! Global loads and atomics -/

/-- Is a load renewed at its home every time (R235, R239, R245)? -/
def LoadOp.renews (l : LoadOp) (a : Acc) : Bool :=
  a.attr == .manual || (l.order != .none && (l.scope == .c || l.scope == .d || l.scope == .s) && a.attr != .priv)

/-- What a lane of a global load reads now, if it can (R235, R245). -/
def State.laneRead (s : State) (r : FRef) (l : LoadOp) (a : Acc) : Option (Nat × Time × Bool) :=
  let n := l.ty.bytes
  let t0 := (s.fib r).ptime
  let key := l1Key a.line a.ns
  let brought := match l.got.find key with
    | some v => if s.older a.core key v && !(l.renews a) then none else s.verRead a.core key a.off n t0 v
    | none => none
  if l.renews a then brought
  else match s.l1Read a.core key a.off n t0 with
    | some x => some x
    | none => brought

/-- An outstanding instruction replaced by a changed load. -/
def State.setLoad (s : State) (r : FRef) (id : Nat) (l : LoadOp) : State :=
  s.modWarp r.blk r.warp (fun w => { w with pend := w.pend.mapVal (fun k p => if k = id then { p with body := .load l } else p) })

/-- Has a lane of a load, or of an atomic performed at the core, its bytes (R235, R245)? -/
def State.laneReady (s : State) (r : FRef) (l : LoadOp) (a : Acc) : Bool :=
  if l.op == .ldg then (s.laneRead r l a).isSome
  else a.attr != .priv || (s.l1Read a.core (l1Key a.line a.ns) a.off l.ty.bytes 0).isSome

/-- The time at which a lane of a load is performed, before its line is renewed: ptime, or the stamp of its dirty bytes (R235). -/
def State.laneTime (s : State) (r : FRef) (l : LoadOp) (a : Acc) : Time :=
  match s.l1 a.core (l1Key a.line a.ns) with
  | some x => if x.attr = .priv then (s.fib r).ptime else
      (List.range l.ty.bytes).foldl (fun t i => if x.dirtyAt (a.off + i) then tmax t (x.sec ((a.off + i) / 32)).age else t) (s.fib r).ptime
  | none => (s.fib r).ptime

/-- The TVAL of a refusal at a home: the lowest lane of those that name the line, and its address (R141). -/
def lineVal (as : List Acc) (line : Nat) : Dword :=
  match as.find? (fun a => a.line = line) with
  | some a => accessVal false a.lane (a.addr.toNat % 2 ^ 57)
  | none => 0

/-- Requests the lines that a load cannot read (R235), each at the time of its lanes; versions that no longer serve are
dropped. -/
def State.askLines (s : State) (r : FRef) (id : Nat) (l : LoadOp) : State :=
  let b := s.block r.blk
  let need := (l.accs.filter (fun a => !(s.laneReady r l a))).map (fun a => (a.line, a.ns))
  let need := need.eraseDups.filter (fun k => !l.reqs.any (fun q => match s.reqs.find q with | some x => x.line = k.1 && x.ns = k.2 | none => false))
  let ids := (List.range need.length).map (fun i => s.nextReq + i)
  let ordered := l.order != .none && (l.scope == .c || l.scope == .d || l.scope == .s)
  let s := need.foldl (fun (s : State) (k : Nat × Bool) =>
    s.newReq { core := b.core, ref := r, pend := some id, line := k.1, ns := k.2, vi := b.vi, tag := b.tag,
               tval := lineVal l.accs k.1
               kind := .read ((l.accs.filter (fun a => a.line = k.1 && a.ns = k.2)).foldl (fun t a => tmax t (s.laneTime r l a)) (s.fib r).ptime) l.lease ordered }) s
  s.setLoad r id { l with reqs := l.reqs ++ ids, got := l.got.filter (fun g => !need.any (fun k => l1Key k.1 k.2 = g.1)) }

/-- The same for the outstanding access with a number. -/
def State.askFor (s : State) (r : FRef) (id : Nat) : State :=
  match ((s.warp r.blk r.warp).pend.find id).map Pend.body with
  | some (.load l) => s.askLines r id l
  | _ => s

/-- The largest time among lane results. -/
def maxTime (t : Time) (ts : List Time) : Time := ts.foldl tmax t

/-- Distinct numbers in order of first appearance. -/
def distinct (l : List Nat) : List Nat := l.foldl (fun a x => if a.contains x then a else a ++ [x]) []

/-- An atomic or CAS on a PRIVATE page, at the level-one cache (R245): the line is there. -/
def State.privAtomic (s : State) (r : FRef) (l : LoadOp) : State × List (Nat × Nat) × Bool :=
  let n := l.ty.bytes
  let b := s.block r.blk
  (l.accs.filter (fun a => a.attr == .priv)).foldl (fun st a =>
    let (s, olds, bad) := st
    let key := l1Key a.line a.ns
    match s.l1Read b.core key a.off n 0 with
    | some (m, _, p) =>
      if p then (s, olds ++ [(a.lane, 0)], true)
      else
        let m' := aopApply l.aop l.ty m a.v.toNat a.w.toNat
        let bytes := (leBytes n m').zipIdx.map (fun e => (a.off + e.2, e.1))
        (s.dirty b.core key .priv bytes (s.warp r.blk r.warp).slot (s.fib r).ptime false, olds ++ [(a.lane, m)], bad)
    | none => (s, olds, bad)) (s, [], false)

/-- A load has everything, or an atomic its replies: the instruction completes (R235, R240, R142). -/
def State.landLoad (s : State) (r : FRef) (id : Nat) (l : LoadOp) : State :=
  let drop (s : State) : State := s.modWarp r.blk r.warp (fun w => { w with pend := w.pend.erase id })
  let ia := (l.accs.headD { lane := 0, addr := 0, place := 0 }).place
  let dest (v : Acc → Nat) : List Eff := l.accs.flatMap (fun a => l.put l.words a.lane (v a))
  let ending (s : State) : State :=
    if (s.fib r).ra.any (fun e => e.trigger = id) then s.modFib r Fibre.endRunahead else s
  if let some v := l.refused then
    let b := s.block r.blk
    (drop s).endTask b.task b.vi b.tag cRNG v (s.faultRec r cRNG cRNG v l.pc 0).mid
  else if l.failed then
    ending ((drop s).landEffs r (l.accs.flatMap (fun a => (List.range l.words).map (fun k => .vpoison (l.d + k) a.lane))))
  else if l.space != .global then
    let (s, effs, bad) := s.performLocal r l
    (drop s).landAccess r effs (bad || l.poisoned) 0
  else if l.op == .ldg then
    let rs := l.accs.map (fun a => (a, (s.laneRead r l a).getD (0, 0, false)))
    let t := maxTime (s.fib r).ptime (rs.filterMap (fun e => if e.1.attr = .priv then none else some e.2.2.1))
    let s := (drop s).modFib r (fun f => { f with ptime := t })
    ending (s.landAccess r (rs.flatMap (fun e => l.put l.words e.1.lane (loadExt l.ty e.2.1))) (l.poisoned || rs.any (fun e => e.2.2.2)) (if rs.any (fun e => e.2.2.2) then ia else 0))
  else
    let (s, olds, bad) := s.privAtomic r l
    let old (a : Acc) : Nat := if a.attr == .priv then ((olds.find? (fun e => e.1 = a.lane)).map Prod.snd).getD 0 else (l.olds.get a.lane 0).toNat
    let s := (drop s).modFib r (fun f => if l.order = .rlx || l.t = 0 then f else { f with ptime := tmax f.ptime l.t })
    s.landAccess r (if l.op = .redg then [] else dest old) ((bad || l.poisoned) && l.op != .redg) (if bad || l.poisoned then ia else 0)

/-- Has an outstanding access all it needs now? -/
def State.loadReady (s : State) (r : FRef) (id : Nat) (l : LoadOp) : Bool :=
  if l.refused.isSome || l.failed then l.reqs.isEmpty
  else if l.space != .global then true
  else
    l.reqs.isEmpty && l.accs.all (s.laneReady r l) &&
    !(l.op == .ldg && (s.warp r.blk r.warp).pend.any (fun e => e.1 < id && e.2.fib = r.fib && (match e.2.body with | .load k => k.space = .global | _ => false)))

/-- LOAD_COMPLETION of one outstanding access: it lands, or asks again for what its time no longer fits (R235). -/
def State.completeLoad (s : State) (r : FRef) (id : Nat) : State :=
  match ((s.warp r.blk r.warp).pend.find id).map Pend.body with
  | some (.load l) =>
    if s.loadReady r id l then s.landLoad r id l
    else if l.space = .global && l.refused.isNone && !l.failed then s.askLines r id l
    else s
  | _ => s

/-- The event LOAD_COMPLETION (R235): the access named by `arg`. -/
def execLoadCompletion (s : State) : Host.Outcome State Fault Refusal := .next (s.completeLoad s.arg.ref s.arg.id)

/-! Issue of the lane memory forms -/

/-- The window index of the destination. -/
def Ctx.dreg (c : Ctx) : Nat := match c.d with | .v i _ _ => i | _ => 0

/-- The access as an outstanding instruction: its number is the slot's next. -/
def Ctx.pending (c : Ctx) (s : State) (l : LoadOp) (writes : Bool) : State :=
  let dv := if writes then (List.range c.dw).map (fun k => (c.dreg + k, c.act)) else []
  s.addPend c.r { fib := c.r.fib, dv := dv, entries := if writes then 1 else 0, since := s.now, body := .load l }

/-- The outstanding access of a form. -/
def Ctx.loadOp (c : Ctx) (space : Space) (accs : List Acc) (aop : Nat) : LoadOp :=
  { op := c.o, ty := c.f.x.ty, space := space, order := c.f.x.order, scope := c.f.x.scope, lease := c.f.hnt.lease, d := c.dreg,
    accs := accs, aop := aop, pc := c.pc }

/-- The operands of D, lane by lane: data of a store, operand of an atomic, compare and new value of a CAS (R130). Where a
source is poisoned in an active lane, what the instruction stores is free in every lane (R62). -/
def Ctx.withData (c : Ctx) (cas : Bool) (as : List Acc) : List Acc :=
  as.map (fun a =>
    let x := if c.poisoned then
        (List.range 4).foldl (fun v k => v + (Config.freeWord (c.s.free + 4 * a.lane + k)).toNat * 2 ^ (32 * k)) 0
      else c.vd a.lane
    if cas then { a with v := BitVec.ofNat 64 (x % 2 ^ c.f.x.ty.bits), w := BitVec.ofNat 64 (x / 2 ^ c.f.x.ty.bits) }
    else { a with v := BitVec.ofNat 64 x, w := BitVec.ofNat 64 (x / 2 ^ 64) })

/-- An access with the ordering its ORDER asks for before it (R236, R238 to R240): `.sc` first as FENCE.ar, `.rel` and
`.ar` a release. -/
def Ctx.ordered (c : Ctx) (k : State → State) : State :=
  match c.f.x.order with
  | .rel | .ar | .sc => c.release c.f.x.scope k
  | _ => k c.s

/-- Free values that poisoned data operands took. -/
def Ctx.skip (c : Ctx) (s : State) : State := if c.poisoned then { s with free := s.free + 256 } else s

/-- A store or reduction whose data or offset register is poisoned raises POI: R322 gives it to every lane instruction that reads
a poisoned register word, and R142's 'stores and reductions raise no POI' is taken to speak of the memory they reach (DESIGN
CHOICE, unsafe, log 67). `withData` has put free values in the place of the data (R62). -/
def Ctx.poisonedData (c : Ctx) (k : State) : State :=
  if c.poisoned then k.raise c.r cPOI 0 c.pc c.path false 0 else k

/-- Do two accesses to the stores of cores meet in a byte, whatever the space each goes through? -/
def Acc.meetsLocal (a : Acc) (sp : Space) (n : Nat) (x : Acc) (sx : Space) (m : Nat) : Bool :=
  let (p, pa, pc) := a.spot sp
  let (q, qa, qc) := x.spot sx
  a.core == x.core && pa == qa && pc == qc && decide (p < q + m) && decide (q < p + n)

/-- Do local accesses of the fibre still outstanding meet these (R134)? -/
def State.localBusy (s : State) (r : FRef) (space : Space) (as : List Acc) (n : Nat) : Bool :=
  (s.warp r.blk r.warp).pend.any (fun e => e.2.fib = r.fib && (match e.2.body with
    | .load l => l.space != .global && l.accs.any (fun x => as.any (fun a => a.meetsLocal space n x l.space l.ty.bytes))
    | _ => false)) ||
  s.remreds.any (fun e => e.2.ref = r && as.any (fun a =>
    let x := s.block e.2.blk
    a.meetsLocal space n { lane := 0, addr := 0, core := x.core, place := x.sbase + e.2.off } .scratch e.2.ty.bytes))

/-- A form on scratchpad, accumulator windows or the on-chip map: performed at once, or left outstanding. -/
def Ctx.localForm (c : Ctx) (space : Space) (one : Nat → Except Bad Acc) (isLoad : Bool) : State :=
  match c.accesses one true false false with
  | .error b => c.refuse b
  | .ok as =>
    let as := if isLoad then as else c.withData (c.o == .cass) as
    if c.s.memHeld c.r isLoad || c.s.localBusy c.r space as c.size then c.stall c.s
    else c.ordered (fun s =>
      let writes := !c.o.dOnlySrc
      let l : LoadOp := { c.loadOp space as (if c.o = .cass then 9 else c.f.x.aop) with poisoned := writes && c.poisoned }
      let s := c.skip (c.retire s)
      let id := (s.warp c.r.blk c.r.warp).nextPend
      let s := c.pending s l writes
      let s := if c.late then s else s.completeLoad c.r id
      if writes then s else c.poisonedData s)

/-- A form with no effect in runahead (R215): where a check of step 8 would refuse a valid lane, the episode ends (R64). -/
def Ctx.raStore (c : Ctx) (e : Episode) (ok : Ctx → Bool) : State := if ok (c.valid e) then c.raDrop e else c.raEnd

/-- Do the step 8 checks of a local form pass? -/
def Ctx.localOk (one : Ctx → Nat → Except Bad Acc) (c : Ctx) : Bool :=
  match c.accesses (one c) true false false with | .ok _ => true | .error _ => false

/-- A local form that has no effect in runahead. -/
def raLocalOp (o : Op) (f : Ins) (s : State) (one : Ctx → Nat → Except Bad Acc) (k : Ctx → State) : Host.Outcome State Fault Refusal :=
  issueWith o f s (fun c e => c.raStore e (Ctx.localOk one)) k

/-- A local load in runahead: its value goes into the shadow, poison or a fault ends the episode (R215). -/
def Ctx.raLocal (c : Ctx) (e : Episode) (space : Space) (one : Nat → Except Bad Acc) : State :=
  let good := c.lanes.filter (fun l => !c.srcInvalid e l)
  let c' : Ctx := { c with act := laneSet good }
  match c'.accesses one true false false with
  | .error _ => c.raEnd
  | .ok as =>
    let n := c.size
    let reads := as.map (fun a => (a, c.s.spotRead a space n))
    let held (a : Acc) : Bool := let (off, acc, _) := a.spot space; c.s.readHeld a.core c.r.blk off n acc
    if reads.any (fun x => x.2.2 && !held x.1) then c.raEnd
    else
      let w := c.f.x.ty.words
      let badLanes := laneSet ((c.lanes.filter (fun l => !good.contains l)) ++ (as.filter held).map Acc.lane)
      let effs := reads.flatMap (fun x => vregEffs c.dreg w x.1.lane (loadExt c.f.x.ty x.2.1)) ++
        (c.lanes.filter (fun l => !good.contains l)).flatMap (fun l => vregEffs c.dreg w l 0)
      c.raFinish e { effs := effs, inv := badLanes } false

/-- LDS. -/
def execLds (f : Ins) (s : State) := issueWith .lds f s (fun c e => c.raLocal e .scratch (c.localAcc false))
  (fun c => c.localForm .scratch (c.localAcc false) true)
/-- LDA. -/
def execLda (f : Ins) (s : State) := issueWith .lda f s (fun c e => c.raLocal e .acc (c.localAcc true))
  (fun c => c.localForm .acc (c.localAcc true) true)
/-- LDO. -/
def execLdo (f : Ins) (s : State) := raLocalOp .ldo f s Ctx.mapAcc (fun c => c.localForm .map c.mapAcc true)
/-- STS. -/
def execSts (f : Ins) (s : State) := raLocalOp .sts f s (fun c => c.localAcc false) (fun c => c.localForm .scratch (c.localAcc false) false)
/-- STA. -/
def execSta (f : Ins) (s : State) := raLocalOp .sta f s (fun c => c.localAcc true) (fun c => c.localForm .acc (c.localAcc true) false)
/-- STO. -/
def execSto (f : Ins) (s : State) := raLocalOp .sto f s Ctx.mapAcc (fun c => c.localForm .map c.mapAcc false)
/-- ATOMS. -/
def execAtoms (f : Ins) (s : State) := raLocalOp .atoms f s (fun c => c.localAcc false) (fun c => c.localForm .scratch (c.localAcc false) false)
/-- REDS. -/
def execReds (f : Ins) (s : State) := raLocalOp .reds f s (fun c => c.localAcc false) (fun c => c.localForm .scratch (c.localAcc false) false)
/-- CASS. -/
def execCass (f : Ins) (s : State) := raLocalOp .cass f s (fun c => c.localAcc false) (fun c => c.localForm .scratch (c.localAcc false) false)

/-! Global forms -/

/-- What every global form does before its effect: the checks, the waits, the ordering, the watchpoint latch. -/
def Ctx.globalForm (c : Ctx) (perm : Range → Bool) (rd wr : Bool) (k : State → List Acc → State) : State :=
  match c.accesses (c.globalAcc perm c.size) false rd wr with
  | .error b => c.refuse b
  | .ok as =>
    let isLoad := c.o == .ldg && c.f.x.order != .sc
    if c.s.memHeld c.r isLoad || c.s.lineBusy c.r (as.map Acc.line) (c.o == .ldg) then c.stall c.s
    else
      let go (s : State) : State := k (c.watchLatch (c.skip (c.retire s)) as rd wr) as
      match c.o, c.f.x.order with
      | .ldg, .sc => c.release c.f.x.scope go
      | .ldg, _ => go c.s
      | _, _ => c.ordered go

/-- A form that returns a value: left outstanding, and landed at once where it can be. -/
def Ctx.awaited (c : Ctx) (s : State) (l : LoadOp) (ask : State → Nat → State) : State :=
  let id := (s.warp c.r.blk c.r.warp).nextPend
  let s := c.pending s l true
  let s := ask s id
  if c.late then s
  else match ((s.warp c.r.blk c.r.warp).pend.find id).map Pend.body with
    | some (.load l) => if s.loadReady c.r id l then s.landLoad c.r id l else s
    | _ => s

/-- A lane of a global form in runahead: none where a check of step 8 refuses it; no access where its page does, since a marked
request is dropped there (R64, R216, R218, R371). -/
def Ctx.raGlobal (c : Ctx) (perm : Range → Bool) (rd wr : Bool) (lane : Nat) : Option (Option Acc) :=
  let a := wrapTo 64 (c.addrOf c.size lane)
  if decide (2 ^ 57 ≤ a) || a % c.size ≠ 0 || c.fib.watched a c.size rd wr then none
  else match c.blk.translateVa a perm with
    | none => none
    | some (_, ia) =>
      if isMapIa ia || (isIdentity ia && !c.blk.service) then none
      else match c.globalAcc perm c.size lane with | .ok x => some (some x) | .error _ => some none

/-- Do the step 8 checks of a global form pass in every active lane, in runahead? -/
def Ctx.raGlobalOk (perm : Range → Bool) (rd wr : Bool) (c : Ctx) : Bool := c.lanes.all (fun l => (c.raGlobal perm rd wr l).isSome)

/-- A global form that has no effect in runahead. -/
def raGlobalOp (o : Op) (f : Ins) (s : State) (perm : Range → Bool) (rd : Bool) (k : Ctx → State) : Host.Outcome State Fault Refusal :=
  issueWith o f s (fun c e => c.raStore e (Ctx.raGlobalOk perm rd true)) k

/-- LDG in runahead (R216): a valid hit is read, everything else is prefetched and invalid. -/
def Ctx.raLdg (c : Ctx) (e : Episode) (prefetch : State → List Acc → State) : State :=
  let v := c.valid e
  if !Ctx.raGlobalOk Range.r true false v then c.raEnd
  else
    let as := v.lanes.filterMap (fun l => (c.raGlobal Range.r true false l).join)
    let plain := c.f.x.order == .none || c.f.x.order == .rlx
    let rd (a : Acc) : Option (Nat × Time × Bool) :=
      if !plain || a.attr == .manual then none
      else match c.s.l1Read a.core (l1Key a.line a.ns) a.off c.size c.fib.ptime with
        | some (v, t, p) => if a.attr == .priv || t == c.fib.ptime then some (v, t, p) else none
        | none => none
    let rs := as.map (fun a => (a, rd a))
    if rs.any (fun x => x.2.any (fun y => y.2.2)) then c.raEnd
    else
      let hits := rs.filter (fun x => x.2.isSome)
      let bad := c.lanes.filter (fun l => !hits.any (fun x => x.1.lane = l))
      let w := c.f.x.ty.words
      let effs := hits.flatMap (fun x => vregEffs c.dreg w x.1.lane (loadExt c.f.x.ty ((x.2.map Prod.fst).getD 0))) ++
        bad.flatMap (fun l => vregEffs c.dreg w l 0)
      let s := c.raFinish e { effs := effs, inv := laneSet bad } false
      if c.raGoesOn s then prefetch s ((rs.filter (fun x => x.2.isNone)).map Prod.fst) else s

/-- Requests lines as PREF does (R138, R218): marked, at most one toward a slice in runahead, never for a line that is
there or on its way. One for which R218 leaves room waits for its permit while all four are held (R349; DESIGN CHOICE, safe, log 90). -/
def Ctx.prefetch (c : Ctx) (ra : Bool) (s : State) (as : List Acc) : State :=
  let lines := (as.map (fun a => (a.line, a.ns))).eraseDups
  lines.foldl (fun (s : State) (k : Nat × Bool) =>
    let core := c.blk.core
    let there := match s.l1 core (l1Key k.1 k.2) with | some l => l.secs.any (fun e => e.2.valid) && within l.wt c.fib.ptime l.rt | none => false
    let asked := s.reqs.any (fun e => e.2.core = core && e.2.marked && e.2.line = k.1)
    let full := ra && s.reqs.any (fun e => e.2.core = core && e.2.ra && s.home (e.2.line * 128) == s.home (k.1 * 128))
    if there || asked || full then s
    else s.newReq { core := core, ref := c.r, line := k.1, ns := k.2, vi := c.blk.vi, tag := c.blk.tag, marked := true, ra := ra,
                    kind := .read c.fib.ptime c.f.hnt.lease false }) s

/-- LDG (R133, R235, R239, R245). -/
def execLdg (f : Ins) (s : State) := issueWith .ldg f s (fun c e => c.raLdg e (c.prefetch true))
  (fun c => c.globalForm Range.r true false (fun s as =>
    c.awaited s { c.loadOp .global as 0 with poisoned := c.poisoned } (fun s id => s.askFor c.r id)))

/-- Bytes of accesses by line and world, in lane order. -/
def storeLines (as : List Acc) (n : Nat) : List ((Nat × Bool × Attr) × List (Nat × Byte)) :=
  let keys := (as.map (fun a => (a.line, a.ns, a.attr))).eraseDups
  keys.map (fun k => (k, (as.filter (fun a => a.line = k.1 && a.ns = k.2.1)).flatMap (fun a =>
    (leBytes n (a.v.toNat + a.w.toNat * 2 ^ 64)).zipIdx.map (fun e => (a.off + e.2, e.1)))))

/-- Is a store to the page written through (R236, R245)? -/
def throughStore (f : Ins) (a : Attr) : Bool :=
  a == .manual || (a == .leased && f.x.order != .none && (f.x.scope == .c || f.x.scope == .d || f.x.scope == .s))

/-- STG (R134, R233, R236, R245). A write-through of bytes that are dirty in the core's cache first writes them back. -/
def execStg (f : Ins) (s : State) := raGlobalOp .stg f s Range.w false
  (fun c => c.globalForm Range.w false true (fun s as =>
    let b := c.blk
    let lines := storeLines (c.withData false as) c.size
    let busy := lines.filter (fun x => throughStore f x.1.2.2 && (match c.s.l1 b.core (l1Key x.1.1 x.1.2.1) with
      | some l => x.2.any (fun e => l.dirtyAt e.1)
      | none => false))
    if !busy.isEmpty then
      c.stall (busy.foldl (fun (s : State) x => (List.range 4).foldl (fun s k =>
        if touchesSector x.2 k then s.startWb b.core (l1Key x.1.1 x.1.2.1) k else s) s) c.s)
    else
      let s := lines.foldl (fun (s : State) x =>
        if throughStore f x.1.2.2 then
          s.newReq { core := b.core, ref := c.r, line := x.1.1, ns := x.1.2.1, vi := b.vi, tag := b.tag,
                     tval := lineVal as x.1.1
                     kind := .write x.2 (s.fib c.r).ptime none false, raise := f.x.order == .sc && x.1.2.2 == .leased, hold := f.x.order == .sc }
        else s.dirty b.core (l1Key x.1.1 x.1.2.1) x.1.2.2 x.2 (s.warp c.r.blk c.r.warp).slot (s.fib c.r).ptime false) s
      c.poisonedData s))

/-- Requests for the distinct addresses of an atomic (R137, R240). -/
def Ctx.atomReqs (c : Ctx) (s : State) (as : List Acc) (aop : Nat) (pend : Option Nat) (ret : Bool) : State :=
  let b := c.blk
  (distinct (as.map Acc.place)).foldl (fun (s : State) p =>
    let mine := as.filter (fun a => a.place = p)
    match mine.head? with
    | some a =>
      s.newReq { core := b.core, ref := c.r, pend := pend, line := a.line, ns := a.ns, vi := b.vi, tag := b.tag,
                 tval := accessVal false a.lane (a.addr.toNat % 2 ^ 57)
                 kind := .atomic a.off aop c.f.x.ty (mine.map (fun x => (x.lane, x.v, x.w))) (s.fib c.r).ptime ret,
                 raise := !ret && c.f.x.order != .rlx }
    | none => s) s

/-- ATOMG, REDG and CASG: PRIVATE pages at the level-one cache, others at the home (R137, R240, R245). -/
def Ctx.atomic (c : Ctx) (aop : Nat) (cas ret : Bool) : State :=
  c.globalForm Range.a ret true (fun s as =>
    let as := c.withData cas as
    let priv := as.filter (fun a => a.attr == .priv)
    let far := as.filter (fun a => a.attr != .priv)
    let id := (s.warp c.r.blk c.r.warp).nextPend
    if ret then
      let n := (distinct (far.map Acc.place)).length
      let l : LoadOp := { c.loadOp .global as aop with poisoned := c.poisoned, reqs := (List.range n).map (fun i => s.nextReq + i) }
      let s := c.atomReqs (c.pending s l true) far aop (some id) true
      if priv.isEmpty then s
      else if c.late then s.askFor c.r id
      else s.completeLoad c.r id
    else
      let s := c.atomReqs s far aop none false
      c.poisonedData (if priv.isEmpty then s
        else (s.addPend c.r { fib := c.r.fib, entries := 0, since := s.now, body := .load (c.loadOp .global priv aop) }).completeLoad c.r id))

/-- ATOMG. -/
def execAtomg (f : Ins) (s : State) := raGlobalOp .atomg f s Range.a true (fun c => c.atomic f.x.aop false true)
/-- REDG. -/
def execRedg (f : Ins) (s : State) := raGlobalOp .redg f s Range.a false (fun c => c.atomic f.x.aop false false)
/-- CASG. -/
def execCasg (f : Ins) (s : State) := raGlobalOp .casg f s Range.a true (fun c => c.atomic 9 true true)

/-- Accesses of PREF that are not dropped (R138). -/
def Ctx.prefAccs (c : Ctx) : List Acc := goodAccs (c.lanes.map (c.globalAcc Range.r 128))

/-- PREF (R138). It raises no POI; in runahead a poisoned offset register ends the episode (R64, R215, R322; DESIGN CHOICE, unsafe,
log 85). -/
def execPref (f : Ins) (s : State) := issueWith .pref f s
  (fun c e =>
    let s := c.raFinish e {} false
    if c.raGoesOn s then c.prefetch true s (c.valid e).prefAccs else s)
  (fun c => c.prefetch false (c.retire c.s) c.prefAccs)

/-- FENCE (R139, R238): `.rel` goes on while later loads may pass, the others hold the fibre. -/
def execFence (f : Ins) (s : State) := issueWith .fence f s (fun c e => c.raFinish e {} false)
  (fun c =>
    match f.x.order with
    | .rel =>
      if c.s.memHeld c.r false then c.stall c.s
      else (c.retire (c.s.modFib c.r (fun x => { x with rel := some (none, f.x.scope), relw := x.ptime }))).settleRelease c.r
    | .acq =>
      if (c.s.warp c.r.blk c.r.warp).pend.any (fun e => e.2.fib = c.r.fib && (match e.2.body with | .load _ => true | _ => false))
      then c.stall c.s else c.retire c.s
    | _ => c.release f.x.scope c.retire)

end Sys2Proof.Machine
end

