-- ==== Sys2Proof/Machine/FibreOps.lean ====
section
/-!
DEFINITION. The instructions of the fibre: switches, fibre barriers, FIBQ and FRESUME, special registers, the index
register, TRAP, BPT, TRET, NOP, YIELD, RACTL, NPB and NPE (R160, R161, R173, R193 to R208, R317, R318).
-/

namespace Sys2Proof.Machine

/-- FIBSW (R156, R193). -/
def execFibsw (f : Ins) (s : State) := issueWith .fibsw f s (fun c e => c.raFinish e {} false) (fun c =>
  let s := c.retire c.s
  if s.otherReady c.r then s.modFib c.r (fun x => { x with st := .ready }) else s)

/-- The fibre barrier that field A names. -/
def fbNum (f : Ins) : Nat := match f.a with | .imm x => x.toNat % 4 | _ => 0

/-- A fibre barrier of a warp. -/
def Warp.fbar (w : Warp) (b : Nat) : FBar := w.fbs.get b {}

/-- The fibres of the layout that have ended, and the indices outside it, as a mask (R160, R194). -/
def Warp.endedMask (w : Warp) : BitVec 4 :=
  (List.range 4).foldl (fun m i => if w.fibs.length ≤ i || (w.fibs.getD i {}).st = .ended then m ||| (1#4 <<< i) else m) 0

/-- Is a phase of a fibre barrier that has arrivals complete (R160)? -/
def Warp.fbComplete (w : Warp) (b : Nat) : Bool :=
  let x := w.fbar b
  x.part ≠ 0 && x.part &&& ~~~(x.arr ||| w.endedMask) = 0 && x.waits.isEmpty

/-- Completes the phases of a warp's fibre barriers that are complete; a fibre in Barrier-wait for one becomes Ready. -/
def Warp.settleFb (w : Warp) (b : Nat) : Warp :=
  if w.fbComplete b then
    let x := w.fbar b
    let x' : FBar := { part := 0, arr := 0, phase := x.phase + 1, waits := [], pmax := 0,
                       lasts := x.lasts.set x.phase.toNat x.pmax }
    { w with
      fbs := w.fbs.set b x'
      fibs := w.fibs.map (fun f => if f.st = .barrierWait && f.tok.find b = some x.phase then { f with st := .ready, stall := none } else f) }
  else w

/-- Asynchronous transfers of a fibre that are outstanding at its core (R160, R243, R256, R337, R444, R459). -/
def State.transferCmds (s : State) (r : FRef) : Map Cmd :=
  (s.core (s.block r.blk).core).cmds.filter (fun e => e.2.ref = r &&
    (match e.2.op with | .cpy | .gath | .scat | .chain | .cpyr | .cpym | .mcst | .mred | .pcpy => true | _ => false))
/-- Their numbers. -/
def State.transfers (s : State) (r : FRef) : List Nat := (s.transferCmds r).map Prod.fst

/-- The arrival time of a fibre: the Max of ptime and the times of all its counters (R243, R256, R312). -/
def Fibre.arrival (f : Fibre) : Time := f.k.foldl (fun t e => tmax t e.2.kt) f.ptime

/-- FBARA (R160, R161, R194, R243, R256): a release at warp scope, then the arrival. -/
def execFbara (f : Ins) (s : State) := sysOp .fbara f s (fun c =>
  c.release .w (fun s =>
    let b := fbNum f
    let m : BitVec 4 := BitVec.ofNat 4 (c.vb 0)
    let me : BitVec 4 := 1#4 <<< c.r.fib
    let s := c.retire s
    let w := s.warp c.r.blk c.r.warp
    let x := w.fbar b
    let pt := (s.fib c.r).arrival
    let x' : FBar := { x with part := x.part ||| m ||| me, arr := x.arr ||| me,
                              pmax := if x.arr = 0 then pt else tmax x.pmax pt,
                              waits := (x.waits ++ (s.transferCmds c.r).map (fun e => (e.1, c.r.fib, e.2.k))).eraseDups }
    let s := s.modFib c.r (fun y => { y with tok := y.tok.set b x.phase })
    s.modWarp c.r.blk c.r.warp (fun w => ({ w with fbs := w.fbs.set b x' }).settleFb b)))

/-- FBARW (R160, R161): a fibre with no token goes on; a complete phase is left as an acquire, ptime taking the arrivals'. -/
def execFbarw (f : Ins) (s : State) := sysOp .fbarw f s (fun c =>
  let b := fbNum f
  let x := (c.s.warp c.r.blk c.r.warp).fbar b
  match c.fib.tok.find b with
  | none => c.retire c.s
  | some t =>
    if t = x.phase then c.s.modFib c.r (fun y => { y with st := .barrierWait, stall := some ⟨c.pc, c.o, c.f⟩ })
    else (c.retire c.s).modFib c.r (fun y =>
      { y with tok := y.tok.erase b, ptime := match x.lasts.find t.toNat with | some p => tmax y.ptime p | none => y.ptime }))

/-- The code of a fibre's state (R195). -/
def FState.code (st : FState) : Nat :=
  match st with
  | .active => 0 | .ready => 1 | .waiting => 2 | .barrierWait => 3 | .frozen => 4 | .ended => 5

/-- FIBQ.state (R195). -/
def execFibqState (f : Ins) (s : State) := sysOp .fibqState f s (fun c =>
  let w := c.va 0 % 16
  let b := c.blk
  let code (i : Nat) : Nat :=
    if b.warps.length ≤ w || b.nf ≤ i then 7
    else let x := c.s.fib ⟨c.r.blk, w, i⟩; x.st.code + 8 * bit1 x.trap
  c.finish { effs := destEffs c.d 1 0 (code 0 + 16 * code 1 + 256 * code 2 + 4096 * code 3) })

/-- FIBQ.rec (R195): the fault record as the save area holds it. -/
def execFibqRec (f : Ins) (s : State) := sysOp .fibqRec f s (fun c =>
  let w := c.va 0 / 4 % 16
  let i := c.va 0 % 4
  let v := if c.blk.warps.length ≤ w || c.blk.nf ≤ i then 0 else leNat (c.s.fib ⟨c.r.blk, w, i⟩).frec.bytes
  c.finish { effs := destEffs c.d 8 0 v })

/-- The phase of a FRESUME whose release is under way, kept while it is (R196, R197). -/
def Ctx.resuming (c : Ctx) (q : Nat) (s : State) : State :=
  match (s.fib c.r).rel with
  | some (some p, _) => if p = c.pc then s.modFib c.r (fun x => { x with phases := x.phases.set c.pc.toNat (.resuming q) }) else s
  | _ => s

/-- FRESUME (R173, R196): a release at block scope, then the resume. -/
def execFresume (f : Ins) (s : State) := sysOp .fresume f s (fun c => c.resuming (upredDest f.d) <|
  c.release .b (fun s =>
    let s := s.modFib c.r (fun x => { x with phases := x.phases.erase c.pc.toNat })
    let w := c.va 0 / 4 % 16
    let i := c.va 0 % 4
    let t := c.vb 0
    let r : FRef := ⟨c.r.blk, w, i⟩
    let x := s.fib r
    let ok := w < c.blk.warps.length && i < c.blk.nf && x.st = .frozen && x.frec.rc.toNat ≠ cDBL &&
      !(f.x.fn = 1 && (decide (2 ^ 57 ≤ t) || t % 4 ≠ 0)) && !(s.block c.r.blk).ending
    let s := (c.retire s).applyEff c.r (.upred (upredDest f.d) ok)
    if ok then
      let target : VA := if f.x.fn = 1 then BitVec.ofNat 57 t else x.frec.pc
      s.modFib r (fun y => { (y.modLanes x.frec.lanes (fun _ l => if l.exited then l else { l with pc := target })) with
        st := .ready, frozenFor := 0 })
    else s))

/-! Special registers -/

/-- The value of a special register in a lane (R198, R199). -/
def Ctx.sreg (c : Ctx) (n lane : Nat) : Nat :=
  let b := c.blk
  let f := c.fib
  match n with
  | 0x000 => lane
  | 0x001 => b.width
  | 0x002 => c.r.fib
  | 0x003 => b.nf
  | 0x004 => c.r.warp
  | 0x005 => b.warps.length
  | 0x006 => (c.s.warp c.r.blk c.r.warp).slot
  | 0x008 => b.ix
  | 0x009 => b.iy
  | 0x00A => b.iz
  | 0x00B => b.gx
  | 0x00C => b.gy
  | 0x00D => b.gz
  | 0x00E => b.rank
  | 0x00F => b.csize
  | 0x010 => b.core % 33
  | 0x011 => b.core / 33
  | 0x012 => b.vi
  | 0x013 => b.tag.toNat
  | 0x018 => f.ptime.toNat
  | 0x019 => c.s.now % 2 ^ 64
  | 0x01A => c.act.toNat
  | 0x01B => 2 ^ lane - 1
  | 0x020 => f.fpcs.toNat
  | 0x021 => (f.lane lane).sr.toNat
  | 0x028 => f.tpc.toNat
  | 0x029 => f.tcause.toNat
  | 0x02A => f.tval.toNat
  | 0x02B => f.tpend.toNat
  | 0x02C => f.tpval.toNat
  | _ => if 0x030 ≤ n && n ≤ 0x033 then (f.wp.get (n - 0x030) {}).va.toNat
         else if 0x034 ≤ n && n ≤ 0x037 then (f.wp.get (n - 0x034) {}).ctl.toNat else 0

/-- The special register an operand names. -/
def sregNum (o : Operand) : Nat := match o with | .sp (.sreg n) => n.toNat | _ => 0

/-- RSR (R199). -/
def execRsr (f : Ins) (s : State) := regOp .rsr f s (fun c =>
  { effs := c.lanes.flatMap (fun l => destEffs c.d c.dw l (c.sreg (sregNum f.a) l)) })

/-- The watchpoint registers with one changed (R201). -/
def setWatch (wp : Map Watch) (n : Nat) (g : Watch → Watch) : Map Watch := wp.set n (g (wp.get n {}))

/-- What a write of a watchpoint control stores (R201). -/
def watchCtl (v : Word) : Word :=
  (v &&& 7) ||| (BitVec.ofNat 32 (min 16 (bitsOf v.toNat 4 5)) <<< 4)

/-- A generator state as it is stored (R35). -/
def srStore (v : Word) : Word := if v = 0 then 1 else v

/-- A write of a fibre-scope special register (R166, R167, R200, R201). -/
def Fibre.writeSreg (f : Fibre) (n v : Nat) : Fibre :=
  match n with
  | 0x020 => { f with fpcs := fpcsStore (BitVec.ofNat 32 v) }
  | 0x028 => { f with tpc := BitVec.ofNat 57 (v % 2 ^ 57 / 4 * 4) }
  | 0x02B =>
    let left := f.tpend &&& ~~~(BitVec.ofNat 12 (v % 16))
    { f with tpend := left }
  | _ => if 0x030 ≤ n && n ≤ 0x033 then { f with wp := setWatch f.wp (n - 0x030) (fun w => { w with va := BitVec.ofNat 64 (v % 2 ^ 57) }) }
         else if 0x034 ≤ n && n ≤ 0x037 then { f with wp := setWatch f.wp (n - 0x034) (fun w => { w with ctl := watchCtl (BitVec.ofNat 32 v) }) }
         else f

/-- WSR (R35, R200): lane by lane for the generators, else the value of the lowest active lane. -/
def execWsr (f : Ins) (s : State) := sysOp .wsr f s (fun c =>
  let n := sregNum f.d
  let s := c.skip (c.finish {})
  let v (l : Nat) : Nat := if c.poisoned then (Config.freeWord (c.s.free + 2 * l)).toNat + (Config.freeWord (c.s.free + 2 * l + 1)).toNat * 2 ^ 32 else c.va l
  if n = 0x021 then s.stepSr c.r (c.lanes.map (fun l => (l, srStore (BitVec.ofNat 32 (v l)))))
  else if n = 0x022 then s.stepSr c.r (c.lanes.map (fun l =>
    (l, srStore (BitVec.ofNat 32 (v l) ^^^ BitVec.ofNat 32 (0x9E3779B9 * (l + 1))))))
  else s.modFib c.r (fun x => x.writeSreg n (v (c.lanes.headD 0))))

/-! The index register, traps, issue and section control -/

/-- SETX (R203). -/
def execSetx (f : Ins) (s : State) := regOp .setx f s (fun c => { x := some (BitVec.ofNat 32 (c.vb 0)) })
/-- ADDX (R203). -/
def execAddx (f : Ins) (s : State) := regOp .addx f s (fun c => { x := some (c.fib.x + BitVec.ofNat 32 (c.vb 0)) })

/-- TRAP and BPT (R204): the fault, or in trap mode the latch and a no-op. -/
def Ctx.breakpoint (c : Ctx) (sw : Bool) (v : Nat) : State :=
  let s := c.s.raise c.r cBPT (BitVec.ofNat 64 v) c.pc c.path sw 0
  if c.fib.latches cBPT then c.retire s else s
/-- TRAP. -/
def execTrap (f : Ins) (s : State) := sysOp .trap f s (fun c => c.breakpoint true (match f.b with | .imm x => x.toNat | _ => 0))
/-- BPT. -/
def execBpt (f : Ins) (s : State) := sysOp .bpt f s (fun c => c.breakpoint false 0)
/-- TRET (R168, R205). -/
def execTret (f : Ins) (s : State) := sysOp .tret f s (fun c =>
  if !c.fib.trap then c.ill
  else (c.retire c.s).modFib c.r (fun x => x.tret (c.blk.trapEntry.getD 0)))
/-- NOP. -/
def execNop (f : Ins) (s : State) := regOp .nop f s (fun _ => {})
/-- YIELD: the slot is held out of selection for B cycles (R206). -/
def execYield (f : Ins) (s : State) := issueWith .yield f s (fun c e => c.raFinish e {} false) (fun c =>
  (c.retire c.s).modWarp c.r.blk c.r.warp (fun w => { w with yieldUntil := c.s.now + (match f.b with | .imm x => x.toNat | _ => 0) }))
/-- RACTL.off (R207). -/
def execRactlOff (f : Ins) (s : State) := sysOp .ractlOff f s (fun c => (c.retire c.s).modFib c.r (fun x => { x with raOn := false }))
/-- RACTL.on: no effect without a checkpoint reservation, or where the feature is withheld (R207, R468). -/
def execRactlOn (f : Ins) (s : State) := sysOp .ractlOn f s (fun c =>
  (c.retire c.s).modFib c.r (fun x => { x with raOn := x.raOn || (x.raC ≠ 0 && c.s.feature c.blk.service 3) }))
/-- RACTL.thr (R207). -/
def execRactlThr (f : Ins) (s : State) := sysOp .ractlThr f s (fun c =>
  (c.retire c.s).modFib c.r (fun x => { x with raThr := max 64 (min 4095 (c.vb 0)) }))
/-- NPB (R208, R317): stalls while a forced save is asked for (R318). -/
def execNpb (f : Ins) (s : State) := sysOp .npb f s (fun c =>
  if c.fib.sec.isSome then c.ill
  else if c.blk.stopping then c.stall c.s
  else (c.retire c.s).modFib c.r (fun x => { x with sec := some (c.pc, c.s.now) }))
/-- NPE (R208). -/
def execNpe (f : Ins) (s : State) := sysOp .npe f s (fun c =>
  if c.fib.sec.isNone then c.ill else (c.retire c.s).modFib c.r (fun x => { x with sec := none }))

end Sys2Proof.Machine
end

