-- ==== Sys2Proof/Machine/Engines.lean ====
section
/-!
DEFINITION. The copy engine, the gather unit and the chain engine: commands, counters, the range scoreboard, what a
command reads and writes, and the counter and table forms (R251 to R272).
-/

namespace Sys2Proof.Machine

/-! Where a command's bytes lie -/

/-- A run of bytes of a command: global memory (`kind` 0, `place` an IA), the unified store (1) or the accumulator
store (2) of a core. A global run stays within one line. -/
structure Piece where
  kind : Nat
  core : Nat
  place : Nat
  n : Nat
  ns : Bool := true
  attr : Attr := .leased
  /-- The VA of its first byte, of global memory. -/
  va : Nat := 0
deriving DecidableEq, Repr, Inhabited

/-- What refuses an access of a command (R258): the address, global or not, and the page with the cause of its record. -/
structure EngBad where
  addr : Nat
  sp : Bool
  page : Option (Nat × Option Nat) := none
deriving DecidableEq, Repr, Inhabited

/-- The pieces of a list, or the first refusal. -/
def gatherPieces (xs : List (Except EngBad Piece)) : Except EngBad (List Piece) :=
  xs.foldr (fun x acc => match x, acc with
    | .ok p, .ok ps => .ok (p :: ps)
    | .error e, _ => .error e
    | _, e => e) (.ok [])

/-- Splits `n` bytes from `a` where a multiple of `unit` is passed. -/
def splitAt' (fuel unit a n : Nat) : List (Nat × Nat) :=
  match fuel with
  | 0 => []
  | k + 1 => if n = 0 then [] else
      let here := min n (unit - a % unit)
      (a, here) :: splitAt' k unit (a + here) (n - here)

/-- One piece of global memory by VA (R125, R127, R246, R371); of a PRIVATE page whose bytes the owner's level-one cache holds, no
home is asked. -/
def State.vaPiece (s : State) (b : Block) (perm : Range → Bool) (va n : Nat) : Except EngBad Piece :=
  if 2 ^ 57 ≤ va then .error { addr := va, sp := false }
  else match b.translateVa va perm with
    | none => .error { addr := va, sp := false }
    | some (g, ia) =>
      if s.privHeld b.core (l1Key (ia / 128) g.ns) (ia % 128) n then .ok { kind := 0, core := b.core, place := ia, n := n, ns := g.ns, attr := .priv, va := va }
      else match s.pageOf b ia with
      | .error cause => .error { addr := va, sp := false, page := some (ia, cause) }
      | .ok attr => .ok { kind := 0, core := b.core, place := ia, n := n, ns := g.ns, attr := attr, va := va }

/-- The first byte of a run from `a` that lies outside a space of `span` bytes. -/
def firstOut (a : Int) (span : Nat) : Int := if a < 0 then a else max a span

/-- The pieces of `n` bytes at an address of a space of R262; global and on-chip-map addresses wrap (R264). -/
def State.enginePieces (s : State) (b : Block) (sp : Nat) (a : Int) (n : Nat) (perm : Range → Bool) : Except EngBad (List Piece) :=
  match sp with
  | 0 =>
    let va := wrapTo 64 a
    gatherPieces ((splitAt' (n / 128 + 2) 128 va n).map (fun e => s.vaPiece b perm (e.1 % 2 ^ 64) e.2))
  | 1 => if a < 0 ∨ (b.sspan : Int) < a + n then .error { addr := wrapTo 57 (firstOut a b.sspan), sp := true }
         else .ok [{ kind := 1, core := b.core, place := b.sbase + a.toNat, n := n }]
  | 2 => if a < 0 ∨ (b.accBytes : Int) < a + n then .error { addr := wrapTo 57 (firstOut a b.accBytes), sp := true }
         else .ok [{ kind := 2, core := b.core, place := b.accPlace a.toNat, n := n }]
  | _ =>
    let va := wrapTo 64 a
    gatherPieces ((splitAt' (n / 4 + 2) 4 va n).map (fun e =>
      match s.mapPlace b (e.1 % 2 ^ 64) false with
      | some (core, win, off) => .ok { kind := win + 1, core := core, place := off, n := e.2 }
      | none => .error { addr := wrapTo 57 (e.1 : Int), sp := true }))

/-- Do two pieces share a byte? -/
def Piece.meets (p q : Piece) : Bool :=
  p.kind == q.kind && (p.kind == 0 || p.core == q.core) && decide (p.place < q.place + q.n) && decide (q.place < p.place + p.n)

/-- Sectors of the core's level-one cache that are dirty under the piece (R255); none on PRIVATE pages. -/
def State.dirtyUnder (s : State) (core : Nat) (p : Piece) : List (Nat × Nat) :=
  if p.kind ≠ 0 || p.attr == .priv then []
  else [false, true].flatMap (fun ns =>
    let key := l1Key (p.place / 128) ns
    match s.l1 core key with
    | some l => ((List.range 4).filter (fun k => (l.sec k).mine ≠ 0 && decide (p.place % 128 < 32 * k + 32) && decide (32 * k < p.place % 128 + p.n))).map (fun k => (key, k))
    | none => [])

/-- Does the core's level-one cache hold the bytes of a PRIVATE piece (R245)? -/
def State.privHit (s : State) (core : Nat) (p : Piece) : Bool :=
  p.attr == .priv && s.privHeld core (l1Key (p.place / 128) p.ns) (p.place % 128) p.n

/-- Does the access to a piece go to its home: not where the owner's level-one cache takes it (R245, R255)? -/
def State.goesHome (s : State) (core : Nat) (wr : Bool) (p : Piece) : Bool :=
  p.kind == 0 && !(p.attr == .priv && (wr || s.privHit core p))

/-- What must happen before the command's access can be made at a time `t`: write-backs of dirty sectors, what the host must send or a
way of its set that all others pin (R348), earlier requests of the die on the line (R363), a permit toward each home, which the access
takes and returns in this step (R349), and a step of the horizon (R380). None when the way is free. -/
def State.clearing (s : State) (core : Nat) (t : Time) (ps : List Piece) (wr : Bool) : Option State :=
  let d := ps.flatMap (s.dirtyUnder core)
  let asks := ps.filter (s.goesHome core wr)
  let far := asks.filter (fun p => !s.homeReady (p.place / 128) wr)
  if !d.isEmpty then some (d.foldl (fun s e => s.startWb core e.1 e.2) s)
  else if !far.isEmpty then some (far.foldl (fun s p => s.homeAsk (p.place / 128) wr) s)
  else if asks.any (fun p => !s.permitFree core (p.place / 128) || s.lineBefore s.nextReq (core / 33) (p.place / 128)) then some s
  else asks.findSome? (fun p => if wr then s.heldAt (p.place / 128) t else s.heldRead (p.place / 128) t .predicted)

/-- Is a byte range of a line poisoned, by byte? -/
def verBytes (v : Ver) (off n : Nat) : List (Byte × Bool) :=
  (List.range n).map (fun i => (lineByte v.data (off + i), v.poison.getLsbD ((off + i) / 32)))

/-- An engine's read of a line at its home, through the requester-side copy of the core's die where one is valid at `t`
(R255, R345, R346): the version read. -/
def State.engGrant (s : State) (core line : Nat) (t : Time) (attr : Attr) : State × Ver :=
  let s := s.countSeqs core [line]
  let d := core / 33
  let far := attr == .leased && (s.home (line * 128)).1 ≠ d && (match s.lineHome line with | .slice _ _ => true | _ => false)
  match (s.die d).copies.find line with
  | some c => if far && within c.ver.wt t c.ver.rt then (s.setCopy d line c.ver, c.ver)
      else
        let (s, v) := s.grant line t .predicted (some d)
        (s.setCopy d line v, v)
  | none =>
    let (s, v) := s.grant line t .predicted (if far then some d else none)
    (if far then s.setCopy d line v else s, v)

/-- A PRIVATE line in the owner's level-one cache, filled if a byte of the run is missing (R245, R255). -/
def State.privLine (s : State) (core : Nat) (p : Piece) : State × L1Line :=
  let key := l1Key (p.place / 128) p.ns
  let l := (s.l1 core key).getD { attr := .priv }
  if l.has (p.place % 128) p.n then (s, l)
  else
    let (s, v) := (s.countSeqs core [p.place / 128]).grant (p.place / 128) 0 .predicted none
    let l := l.install v .priv
    (s.setL1 core key l, l)

/-- Reads a piece at a time not before `t`: bytes with their poison, and the time, 0 where the read carries none (R255). -/
def State.readPiece (s : State) (core : Nat) (t : Time) (p : Piece) : State × List (Byte × Bool) × Time :=
  match p.kind with
  | 0 =>
    let off := p.place % 128
    if p.attr == .priv then
      let (s, l) := s.privLine core p
      (s, (List.range p.n).map (fun i => (lineByte l.data (off + i),
        let x := l.sec ((off + i) / 32)
        x.badByte x.poison (l.dirtyAt (off + i)))), 0)
    else
      let (s, v) := s.engGrant core (p.place / 128) t p.attr
      (s, verBytes v off p.n, tmax t v.wt)
  | k => (s, (List.range p.n).map (fun i => (s.storeByte p.core (p.place + i) (k == 2), s.storePoison p.core (p.place + i) (k == 2))), 0)

/-- Reads pieces in order; the time is the largest that a read carries. -/
def State.readPieces (s : State) (core : Nat) (t : Time) (ps : List Piece) : State × List (Byte × Bool) × Time :=
  ps.foldl (fun acc p =>
    let (s, bs, u) := acc.1.readPiece core t p
    (s, acc.2.1 ++ bs, tmax acc.2.2 u)) (s, [], 0)

/-- Cuts bytes into runs of one poison mark. -/
def markRuns (fuel : Nat) (p : Piece) (bs : List (Byte × Bool)) : List WriteRun :=
  match fuel, bs with
  | 0, _ => []
  | _, [] => []
  | k + 1, (b, bad) :: rest =>
    let same := rest.takeWhile (fun e => e.2 = bad)
    let n := same.length + 1
    { kind := p.kind, core := p.core, addr := p.place, va := p.va, ns := p.ns, attr := p.attr, bytes := b :: same.map Prod.fst, poison := bad } ::
      markRuns k { p with place := p.place + n, va := p.va + n, n := p.n - n } (rest.drop same.length)

/-- One run for each sector of a global piece: a sector takes one HomeWrite (R255). -/
def sectorRuns (p : Piece) (bs : List (Byte × Bool)) : List WriteRun :=
  ((splitAt' (p.n / 32 + 2) 32 p.place p.n).foldl (fun acc e =>
    (acc.1 ++ [({ kind := 0, core := p.core, addr := e.1, va := p.va + (e.1 - p.place), ns := p.ns, attr := p.attr, bytes := (acc.2.take e.2).map Prod.fst,
                  poison := (acc.2.take e.2).any Prod.snd } : WriteRun)], acc.2.drop e.2)) (([] : List WriteRun), bs)).1

/-- The runs of a piece. -/
def runsOf (fuel : Nat) (p : Piece) (bs : List (Byte × Bool)) : List WriteRun :=
  if p.kind = 0 then sectorRuns p bs else markRuns fuel p bs

/-- The runs of bytes laid over pieces in order. -/
def layRuns (ps : List Piece) (bs : List (Byte × Bool)) : List WriteRun :=
  (ps.foldl (fun acc p => (acc.1 ++ runsOf (p.n + 1) p (acc.2.take p.n), acc.2.drop p.n)) (([] : List WriteRun), bs)).1

/-- Performs a run of a command: the largest time made (R255). -/
def State.writeRun (s : State) (m : Cmd) (r : WriteRun) : State × Time :=
  match r.kind with
  | 0 =>
    let core := (s.block m.ref.blk).core
    let bytes := r.bytes.zipIdx.map (fun e => (r.addr % 128 + e.2, e.1))
    let key := l1Key (r.addr / 128) r.ns
    if r.attr == .priv then
      (s.dirty core key .priv bytes (s.warp m.ref.blk m.ref.warp).slot m.ti r.poison, 0)
    else
      let (s, v) := s.homeWrite (r.addr / 128) bytes m.ti r.poison (m.vi, m.tag)
      (s.wroteBack core key none v, v.wt)
  | k => (s.storeWrite r.core r.addr (k == 2) r.bytes r.poison, 0)

/-- Does a run of global memory carry a time: its page is not PRIVATE (R255)? -/
def WriteRun.timed (r : WriteRun) : Bool := r.kind == 0 && r.attr != .priv
/-- The sector of global memory a run lies in. -/
def WriteRun.sector (r : WriteRun) : Nat × Bool := (r.addr / 32, r.ns)

/-- Performs the runs of one sector with a single HomeWrite, the bytes of a later run over those of an earlier (R255, R264). -/
def State.writeSector (s : State) (m : Cmd) (rs : List WriteRun) : State × Time :=
  match rs.head? with
  | none => (s, 0)
  | some r =>
    let bytes := rs.flatMap (fun r => r.bytes.zipIdx.map (fun e => (r.addr % 128 + e.2, e.1)))
    let core := (s.block m.ref.blk).core
    let bad := rs.any WriteRun.poison || m.badData.contains (r.addr / 32)
    let (s, v) := (s.countSeqs core [r.addr / 128]).homeWrite (r.addr / 128) bytes m.ti bad (m.vi, m.tag)
    (s.wroteBack (s.block m.ref.blk).core (l1Key (r.addr / 128) r.ns) none v, v.wt)

/-- The piece a run covers. -/
def WriteRun.piece (r : WriteRun) : Piece := { kind := r.kind, core := r.core, place := r.addr, n := r.bytes.length, ns := r.ns, attr := r.attr }

/-! Commands in flight -/

/-- Two intervals meet. -/
def spanMeet (a b c d : Nat) : Bool := decide (a < d) && decide (c < b)

/-- Two regions meet (R254). -/
def Region.meets (x y : Region) : Bool :=
  match x, y with
  | .scratch a b, .scratch c d => spanMeet a b c d
  | .acc a b, .acc c d => spanMeet a b c d
  | .atab m, .atab n => m == n
  | .book m, .book n => m == n
  | _, _ => false

/-- A later command conflicts with an earlier one (R254). -/
def Cmd.conflicts (new old : Cmd) : Bool :=
  old.writes.any (fun x => (new.reads ++ new.writes).any x.meets) || old.reads.any (fun x => new.writes.any x.meets)

/-- The region of a span of exact addresses of scratchpad or accumulator (R254). -/
def Block.regionOf (b : Block) (sp : Nat) (lo hi : Int) : List Region :=
  let lo := lo.toNat / 32 * 32
  let hi := (hi.toNat + 31) / 32 * 32
  match sp with
  | 1 => [.scratch (b.sbase + lo) (b.sbase + hi)]
  | 2 => [.acc (b.accPlace lo) (b.accPlace hi)]
  | _ => []

/-- FORM of R257. -/
def opForm (o : Op) : Nat :=
  match o with
  | .gath => 1 | .scat => 2 | .chain => 3 | .tblld => 4 | .cbld => 5 | .mma | .mmas => 6
  | .accz | .accld | .acccvt | .accscl => 7 | .notify => 8 | .mcst => 9 | .mred => 10 | _ => 0

/-- A command as its form issues it. -/
def Ctx.command (c : Ctx) (e : Engine) : Cmd :=
  let b := c.blk
  { ref := c.r, engine := e, op := c.o, f := c.f, k := ctrNum c.f.d, ti := c.fib.ptime, vi := b.vi, tag := b.tag, ns := b.ns,
    service := b.service }

/-- The queue of its core takes a command (R251, R253). Its number is `nextCmd` before. -/
def State.queueCmd (s : State) (m : Cmd) : State :=
  s.modCore (s.block m.ref.blk).core (fun c => { c with cmds := c.cmds.set c.nextCmd m, nextCmd := c.nextCmd + 1 })
/-- A command is accepted: the counter counts it, the queue takes it (R251, R253). -/
def State.accept (s : State) (m : Cmd) : State :=
  (s.modFib m.ref (fun f => f.modCtr m.k (fun c => { c with val := c.val + 1 }))).queueCmd m

/-- The counter counts an instruction before the release that the instruction performs, once however often it is tried (R354, R427). -/
def Ctx.counting (c : Ctx) (k : Nat) : Ctx :=
  if (c.fib.phases.find c.pc.toNat).isSome then c
  else { c with s := c.s.modFib c.r (fun f => { f.modCtr k (fun z => { z with val := z.val + 1 }) with phases := f.phases.set c.pc.toNat .counted }) }
/-- Such an instruction retires. -/
def Ctx.countedRetire (c : Ctx) (s : State) : State :=
  (c.retire s).modFib c.r (fun f => { f with phases := f.phases.erase c.pc.toNat })

/-- Commands of an engine in its queue (R251): a started one takes an entry until it completes (DESIGN CHOICE, safe, log 91). -/
def Core.queued (c : Core) (e : Engine) : Nat := (c.cmds.filter (fun x => x.2.engine == e)).length

/-- Has the fibre an access to scratchpad, accumulator or the on-chip map outstanding, a lane of a REDR among them (R253, R337)? -/
def State.localPending (s : State) (r : FRef) : Bool :=
  (s.warp r.blk r.warp).pend.any (fun e => e.2.fib = r.fib && (match e.2.body with | .load l => l.space != .global | _ => false)) ||
    s.remreds.any (fun e => e.2.ref == r)

/-- May a copy or chain command issue now (R251, R253, R238)? -/
def Ctx.mayCommand (c : Ctx) (e : Engine) : Bool :=
  decide ((c.s.core c.blk.core).queued e < Config.engineQueue) && !c.s.localPending c.r && !c.s.memHeld c.r false

/-- RNG of a command's own address at issue, with the record of a refused page (R261). -/
def Ctx.vaRefused (c : Ctx) (va : Nat) (page : Option (Nat × Option Nat)) : State :=
  let s := match page with | some (ia, cause) => c.s.pageFault c.blk ia va cause | none => c.s
  s.raise c.r cRNG (accessVal false 0 (va % 2 ^ 57)) c.pc c.path false 0

/-- A descriptor, image or map of `n` bytes read at issue (R255, R261): RNG, then ALN, then the read. -/
def Ctx.withDesc (c : Ctx) (va n : Nat) (k : State → List (Byte × Bool) → Time → State) : State :=
  match c.s.enginePieces c.blk 0 va 1 Range.r with
  | .error e => c.vaRefused va e.page
  | .ok _ =>
    if va % 32 ≠ 0 then c.raise cALN (accessVal false 0 (va % 2 ^ 57))
    else match c.s.enginePieces c.blk 0 va n Range.r with
      | .error e => c.vaRefused va e.page
      | .ok ps => match c.s.clearing c.blk.core c.fib.ptime ps false with
        | some s => c.stall s
        | none =>
          let (s, bs, t) := c.s.readPieces c.blk.core c.fib.ptime ps
          k s bs t

/-- The bytes of a run that was read. -/
def justBytes (bs : List (Byte × Bool)) : List Byte := bs.map Prod.fst
/-- Was a byte of it poisoned? -/
def anyPoison (bs : List (Byte × Bool)) : Bool := bs.any Prod.snd

/-! Copy, gather and scatter -/

/-- The first failure of a copy descriptor (R257, R262, R265); 0 if it is sound. -/
def copyCheck (o : Op) (d : CopyDesc) (sd dd : Int) : Nat :=
  let g := isGather o
  let odd (x : Int) : Bool := x % 4 ≠ 0
  let strict := d.ss == 2 || d.ss == 3 || d.ds == 2 || d.ds == 3
  if d.bad || decide (4 < d.ss) || decide (3 < d.ds) || (g && (decide (2 < d.ss) || decide (2 < d.ds))) then 1
  else if d.len = 0 || decide (2 ^ 24 < d.len) || (g && (d.n1 ≠ 0 || d.n2 ≠ 0 || d.s2 ≠ 0 || d.d2 ≠ 0)) then 2
  else if strict && ((d.ss ≠ 4 && odd (d.sa + sd)) || odd (d.da + dd) || odd d.len || odd d.s1 || odd d.s2 || odd d.d1 || odd d.d2) then 3
  else 0

/-- The least and the greatest of two integers and zero, for spans. -/
def spanLo (base : Int) (n1 : Nat) (s1 : Int) (n2 : Nat) (s2 : Int) : Int := base + min 0 (n1 * s1) + min 0 (n2 * s2)
/-- The upper end of a span. -/
def spanHi (base : Int) (n1 : Nat) (s1 : Int) (n2 : Nat) (s2 : Int) : Int := base + max 0 (n1 * s1) + max 0 (n2 * s2)

/-- Read and write sets of a copy command (R254, R265). -/
def copyRegions (b : Block) (m : Cmd) (d : CopyDesc) : List Region × List Region :=
  if isGather m.op then
    let rows := copyRows m d
    (rows.flatMap (fun r => b.regionOf d.ss r.1 (r.1 + d.len)), rows.flatMap (fun r => b.regionOf d.ds r.2 (r.2 + d.len)))
  else
    let sa := (d.sa : Int) + sext 64 m.b.toNat
    let da := (d.da : Int) + sext 64 m.c.toNat
    (b.regionOf d.ss (spanLo sa d.n1 d.s1 d.n2 d.s2) (spanHi sa d.n1 d.s1 d.n2 d.s2 + d.len),
     b.regionOf d.ds (spanLo da d.n1 d.d1 d.n2 d.d2) (spanHi da d.n1 d.d1 d.n2 d.d2 + d.len))

/-- A command with its regions. -/
def Cmd.withRegions (m : Cmd) (x : List Region × List Region) : Cmd := { m with reads := x.1, writes := x.2 }

/-- A poisoned descriptor is consumed by the issuing request (log 16). -/
def State.descPoison (s : State) (c : Ctx) (bad : Bool) : State := if bad then s.consumePoison c.r 0 else s

/-- Issues a copy or chain command with its descriptor of `n` bytes at the VA in A. -/
def Ctx.issueDesc (c : Ctx) (e : Engine) (n : Nat) (lanes : Map Word) (k : Ctx → Cmd → Cmd) : State :=
  if !c.mayCommand e then c.stall c.s
  else
    let va := c.va 0
    c.withDesc va n (fun s bs t =>
      let m := c.command e
      let m : Cmd := { m with a := BitVec.ofNat 64 va, b := BitVec.ofNat 64 (c.vb 0), c := BitVec.ofNat 64 (c.vc 0), lanes := lanes,
                              desc := justBytes bs, descPoison := anyPoison bs, kt := t }
      let s := (c.retire s).accept (k c m)
      s.descPoison c m.descPoison)

/-- CPY (R255, R260, R262 to R264). -/
def execCpy (f : Ins) (s : State) := sysOp .cpy f s (fun c =>
  c.issueDesc .copy 64 [] (fun c m => m.withRegions (
    let d := copyDesc m.desc
    if copyCheck .cpy d (sext 64 m.b.toNat) (sext 64 m.c.toNat) = 0 then copyRegions c.blk m d else ([], []))))

/-- The row index of each active lane; a poisoned one is free (R322). -/
def Ctx.indices (c : Ctx) : Map Word :=
  c.lanes.map (fun l => (l, if c.s.opPoison c.r c.b (c.o.roles c.f).2.2.1 l then Config.freeWord (c.s.free + 4 * l) else BitVec.ofNat 32 (c.vb l)))

/-- GATH and SCAT (R265). -/
def Ctx.gather (c : Ctx) : State :=
  let c' : Ctx := { c with b := .no }
  let t := c'.issueDesc .copy 64 c.indices (fun c m => m.withRegions (
    let d := copyDesc m.desc
    if copyCheck m.op d 0 0 = 0 then copyRegions c.blk m d else ([], [])))
  let issued := (t.core c.blk.core).nextCmd ≠ (c.s.core c.blk.core).nextCmd
  if c.poisoned && issued then c.poisonedData (c.skip t) else t

/-- GATH. -/
def execGath (f : Ins) (s : State) := sysOp .gath f s Ctx.gather
/-- SCAT. -/
def execScat (f : Ins) (s : State) := sysOp .scat f s Ctx.gather

/-! The chain engine -/

/-- Is ARG of an op slot admitted (R267)? Where its column says 0, the terminator's too, any other ARG is a code outside its list
(DESIGN CHOICE, unsafe, log 75). -/
def chainArg (code arg : Nat) : Bool :=
  match code with
  | 7 => (match chainFmt (arg % 32) with | some t => t != .f32 | none => false) && decide (arg / 32 < 4)
  | 8 => decide (arg < 4)
  | 9 => decide (arg < 2)
  | _ => arg == 0

/-- Is an op slot all zero? -/
def slotZero (o : Nat × Nat × Nat × Nat) : Bool := o == (0, 0, 0, 0)

/-- Does an address or stride of elements of `size` bytes break the alignment rule (R266)? `many` if a row has several. -/
def chainOdd (sp size : Nat) (a stride : Int) (many : Bool) : Bool :=
  a % size ≠ 0 || stride % size ≠ 0 || (sp == 2 && (a % 4 ≠ 0 || stride % 4 ≠ 0 || (many && size % 4 ≠ 0)))

/-- The first failure of a chain descriptor (R257, R266); 0 if it is sound. The slots after the terminating one must be zero. -/
def chainCheck (d : ChainDesc) (sd dd : Int) : Nat :=
  match d.sf, d.df, d.rnd with
  | some sf, some df, some _ =>
    if d.bad || decide (2 < d.ss) || decide (2 < d.ds) || d.ops.any (fun o => decide (9 < o.1) || !chainArg o.1 o.2.1) then 1
    else if (d.ops.drop (d.steps.length + 1)).any (fun o => !slotZero o) ||
        d.ops.zipIdx.any (fun e => e.1.1 = 9 && (d.ops.drop (e.2 + 1)).any (fun o => !slotZero o)) then 2
    else if chainOdd d.ss sf.bytes (d.sa + sd) d.sstr (decide (1 < d.nc)) ||
        chainOdd d.ds df.bytes (d.da + dd) d.dstr (decide (1 < d.nc) && d.reduce.isNone) then 3
    else 0
  | _, _, _ => 1

/-- Read and write sets of a chain command: memory, and the table slots of its act steps (R254). -/
def chainRegions (b : Block) (m : Cmd) (d : ChainDesc) : List Region × List Region :=
  let sa := (d.sa : Int) + sext 64 m.b.toNat
  let da := (d.da : Int) + sext 64 m.c.toNat
  let (sn, dn) := d.rowBytes
  (b.regionOf d.ss (spanLo sa (d.nr - 1) d.sstr 0 0) (spanHi sa (d.nr - 1) d.sstr 0 0 + sn) ++
     (d.steps.filter (fun o => o.1 = 8)).map (fun o => .atab o.2.1),
   b.regionOf d.ds (spanLo da (d.nr - 1) d.dstr 0 0) (spanHi da (d.nr - 1) d.dstr 0 0 + dn))

/-- CHAIN (R266 to R268); the live tables of its act steps are captured (R271). -/
def execChain (f : Ins) (s : State) := sysOp .chain f s (fun c =>
  c.issueDesc .chain 192 [] (fun c m =>
    let d := chainDesc m.desc
    let x := if chainCheck d (sext 64 m.b.toNat) (sext 64 m.c.toNat) = 0 then chainRegions c.blk m d else ([], [])
    { m.withRegions x with tables := (d.ops.zipIdx.filter (fun e => e.1.1 = 8)).map (fun e => (e.2, c.s.tableOf c.r.blk e.1.2.1)) }))

/-- One step of the chain on an FP32 pattern (R267). -/
def chainOp (tables : Map (BitVec 16640)) (i code arg k k2 x : Nat) : Nat :=
  let xv := decodeF .f32 x
  let kv := decodeF .f32 k
  let rnd (v : Val) : Nat := (roundTo .f32 v .rne).1
  match code with
  | 1 => rnd (vadd false xv kv).1
  | 2 => rnd (vmul xv kv).1
  | 3 => rnd (gFma .rne [xv, kv, decodeF .f32 k2]).1
  | 4 => fminPat .f32 x k
  | 5 => fmaxPat .f32 x k
  | 6 =>
    let n := sext 32 k
    let n := max (-1000) (min 1000 n)
    (match xv with | .fin s m e => rnd (.fin s m (e + n)) | v => rnd v)
  | 7 =>
    let t := (chainFmt (arg % 32)).getD .f16
    rnd (decodeF t (roundTo t xv ((chainRnd (arg / 32)).getD .rne)).1)
  | 8 => (tblevAt (tables.get i 0) x).1
  | _ => x

/-- The steps of a chain on one element given as a pattern of the source format. -/
def chainElem (m : Cmd) (d : ChainDesc) (x : Nat) : Nat :=
  let sf := d.sf.getD .f32
  let x := if sf = .f32 then x else (roundTo .f32 (decodeF sf x) .rne).1
  d.steps.zipIdx.foldl (fun x e => if e.1.1 = 9 then x else chainOp m.tables e.2 e.1.1 e.1.2.1 e.1.2.2.1 e.1.2.2.2 x) x

/-- The reduction of a row (R268). -/
def chainReduce (arg : Nat) (ys : List Nat) : Nat :=
  match ys with
  | [] => 0
  | y :: rest => rest.foldl (fun a x =>
      if arg = 0 then (roundTo .f32 (vadd false (decodeF .f32 a) (decodeF .f32 x)).1 .rne).1 else fmaxPat .f32 a x) y

/-- A row of the chain: its destination bytes from its source bytes. -/
def chainRow (m : Cmd) (d : ChainDesc) (bs : List Byte) : List Byte :=
  let sf := d.sf.getD .f32
  let df := d.df.getD .f32
  let ys := (List.range d.nc).map (fun c => chainElem m d (dfld bs (c * sf.bytes) sf.bytes))
  let ys := match d.reduce with | some arg => [chainReduce arg ys] | none => ys
  ys.flatMap (fun y => leBytes df.bytes (roundTo df (decodeF .f32 y) (d.rnd.getD .rne)).1)

/-! Starting a command -/

/-- Does an earlier command of the block hold the command back (R254)? -/
def State.cmdHeld (s : State) (core id : Nat) (m : Cmd) : Bool :=
  (s.core core).cmds.any (fun e => decide (e.1 < id) && e.2.ref.blk = m.ref.blk && m.conflicts e.2)

/-- A command changed in its core. -/
def State.setCmd (s : State) (core id : Nat) (m : Cmd) : State := s.modCore core (fun c => { c with cmds := c.cmds.set id m })
/-- A command leaves its core. -/
def State.dropCmd (s : State) (core id : Nat) : State := s.modCore core (fun c => { c with cmds := c.cmds.erase id })

/-- The task of a command ends with RNG (R258). -/
def State.cmdRng (s : State) (core id : Nat) (m : Cmd) (e : EngBad) : State :=
  let b := s.block m.ref.blk
  let val := accessVal e.sp 0 (e.addr % 2 ^ 57)
  let s := match e.page with | some (ia, cause) => s.pageFault b ia (e.addr % 2 ^ 57) cause | none => s
  (s.dropCmd core id).endTask b.task b.vi b.tag cRNG val (s.faultRec m.ref cRNG cRNG val 0 0).mid

/-- A command that failed a check completes with its record (R257). -/
def State.failCmd (s : State) (core id : Nat) (m : Cmd) (code addr : Nat) : State :=
  s.setCmd core id { m with started := true, err := ecRecord (opForm m.op) code addr, runs := [] }

/-- Pins the lines that a copy engine of a die reads: the requester-side copy where there is one, else the home copy (R348). -/
def State.pinLines (s : State) (d : Nat) (lines : List Nat) : State :=
  let side := lines.filter (fun l => ((s.die d).copies.find l).isSome)
  let s := { s with homes := s.homes.mapVal (fun k h => if lines.contains k && !side.contains k then { h with pins := h.pins + 1 } else h) }
  if side.isEmpty then s
  else s.modDie d (fun x => { x with copies := x.copies.mapVal (fun k c => if side.contains k then { c with pins := c.pins + 1 } else c) })

/-- The home lines of pieces. -/
def pieceLines (ps : List Piece) : List Nat := ((ps.filter (fun p => p.kind = 0)).map (fun p => p.place / 128)).eraseDups

/-- Byte `i` of a row of pieces. -/
def byteAt (ps : List Piece) (i : Nat) : Option Piece :=
  match ps with
  | [] => none
  | p :: ps => if i < p.n then some { p with place := p.place + i, n := 1 } else byteAt ps (i - p.n)

/-- Is byte `i` of a row among the bytes of some pieces? -/
def byteIn (ps : List Piece) (i : Nat) (qs : List Piece) : Bool :=
  match byteAt ps i with | some p => qs.any p.meets | none => false

/-- The bytes that a command reads, as they arrive: of some sectors with an uncorrectable error (R363, R385). -/
def Cmd.arrived (m : Cmd) (ps : List Piece) (bs : List (Byte × Bool)) : List (Byte × Bool) :=
  if m.badData.isEmpty then bs
  else bs.zipIdx.map (fun e => match byteAt ps e.2 with
    | some p => (e.1.1, e.1.2 || (p.kind == 0 && m.badData.contains (p.place / 32)))
    | none => e.1)

/-- Bytes that a test names are free values, clean (R9); `n` is the first free number. -/
def freeWhere (n : Nat) (bad : Nat → Bool) (bs : List (Byte × Bool)) : List (Byte × Bool) :=
  bs.zipIdx.map (fun e => if bad e.2 then (Config.freeByte (n + e.2), false) else e.1)

/-- Do any pieces of two lists share a byte? -/
def piecesMeet (ps qs : List Piece) : Bool := ps.any (fun p => qs.any p.meets)

/-- The destination bytes affected by an overlap of a command's sources with its destinations (R264): those that are source bytes,
and those whose source byte is a destination byte (DESIGN CHOICE, safe, log 87). -/
def overlapFree (all dsts src dst : List Piece) (i : Nat) : Bool := byteIn dst i all || byteIn src i dsts

/-- The pieces of the other rows that may leave their bytes over row `i`; for SCAT a row of the same bytes is left out, since of such
rows the higher lane's remains, whole (R265). -/
def otherRows (same : Bool) (rows : List (List Piece)) (i : Nat) : List Piece :=
  (rows.zipIdx.filter (fun q => q.2 ≠ i && !(same && q.1 == rows.getD i []))).flatMap Prod.fst

/-- The destination bytes that two lanes of a GATH or SCAT leave in no stated order: free values (DESIGN CHOICE, safe, log 88). CPY
keeps the later iteration's (R264). -/
def rowClash (o : Op) (rows : List (List Piece)) (i : Nat) (k : Nat) : Bool :=
  isGather o && byteIn (rows.getD i []) k (otherRows (o == .scat) rows i)

/-- Rows with their places resolved. -/
def resolveRows (xs : List (Except EngBad (List Piece))) : Except EngBad (List (List Piece)) :=
  xs.foldr (fun x acc => match x, acc with
    | .ok p, .ok ps => .ok (p :: ps)
    | .error e, _ => .error e
    | _, e => e) (.ok [])

/-- Starts a CPY, GATH or SCAT: every source is read, and what it will write is laid out (R255, R264, R265). -/
def State.startCopy (s : State) (core id : Nat) (m : Cmd) : State :=
  let b := s.block m.ref.blk
  let d := copyDesc m.desc
  let code := copyCheck m.op d (sext 64 m.b.toNat) (sext 64 m.c.toNat)
  if code ≠ 0 then s.failCmd core id m code m.a.toNat
  else
    let rows := copyRows m d
    match resolveRows (rows.map (fun r => if d.ss = 4 then .ok [] else s.enginePieces b d.ss r.1 d.len Range.r)),
          resolveRows (rows.map (fun r => s.enginePieces b d.ds r.2 d.len Range.w)) with
    | .error e, _ => s.cmdRng core id m e
    | _, .error e => s.cmdRng core id m e
    | .ok src, .ok dst =>
      match s.clearing core m.ti (src.flatten ++ dst.flatten) false with
      | some s => s
      | none =>
        let all := src.flatten
        let into := dst.flatten
        let plain := !piecesMeet all into && !isGather m.op
        let pat := leBytes 4 (wrapTo 32 ((d.sa : Int) + sext 64 m.b.toNat))
        let (s, runs, t, _) := (src.zip dst).zipIdx.foldl (fun acc x =>
          let (s, runs, t, n) := acc
          let r := x.1
          let (s, bs, u) := if d.ss = 4 then (s, (List.range d.len).map (fun i => (pat.getD (i % 4) 0, false)), t)
            else s.readPieces core m.ti r.1
          let bs := m.arrived r.1 bs
          let bs := if plain then bs else freeWhere (s.free + n) (fun k => overlapFree all into r.1 r.2 k || rowClash m.op dst x.2 k) bs
          (s, runs ++ layRuns r.2 bs, tmax t u, n + d.len)) (s, ([] : List WriteRun), m.kt, 0)
        let lines := pieceLines all
        let s := { s.pinLines (core / 33) lines with free := s.free + rows.length * d.len }
        s.setCmd core id { m with started := true, runs := runs, kt := t, pinned := lines }

/-- Pieces of the elements of a row, in order. -/
def elemPieces (s : State) (b : Block) (sp : Nat) (a : Int) (size n : Nat) (perm : Range → Bool) : List (List Piece) :=
  (List.range n).map (fun (c : Nat) => match s.enginePieces b sp (a + c * size) size perm with | .ok ps => ps | .error _ => [])

/-- Starts a CHAIN (R268). A poisoned element is consumed, and its row's results are free (R258). A destination byte that several
rows write is free: rows have no defined order (DESIGN CHOICE, safe, log 88). -/
def State.startChain (s : State) (core id : Nat) (m : Cmd) : State :=
  let b := s.block m.ref.blk
  let d := chainDesc m.desc
  let sd := sext 64 m.b.toNat
  let dd := sext 64 m.c.toNat
  let code := chainCheck d sd dd
  if code ≠ 0 then s.failCmd core id m code m.a.toNat
  else
    let (sn, dn) := d.rowBytes
    let rows := (List.range d.nr).map (fun (r : Nat) => ((d.sa : Int) + sd + r * d.sstr, (d.da : Int) + dd + r * d.dstr))
    match resolveRows (rows.map (fun r => s.enginePieces b d.ss r.1 sn Range.r)),
          resolveRows (rows.map (fun r => s.enginePieces b d.ds r.2 dn Range.w)) with
    | .error e, _ => s.cmdRng core id m e
    | _, .error e => s.cmdRng core id m e
    | .ok src, .ok dst =>
      match s.clearing core m.ti (src.flatten ++ dst.flatten) false with
      | some s => s
      | none =>
        let sz := (d.sf.getD .f32).bytes
        let dz := (d.df.getD .f32).bytes
        let all := src.flatten
        let meet := dst.flatten.any (fun p => all.any p.meets)
        let srcE := if meet then (rows.zipIdx.flatMap (fun r => (elemPieces s b d.ss r.1.1 sz d.nc Range.r).zipIdx.map (fun e => (r.2, e.2, e.1)))) else []
        let own := (d.reduce.isNone || d.nc == 1) && sz == dz
        let clash := (dst.zipIdx.any (fun x => piecesMeet x.1 (otherRows false dst x.2)))
        let (s, runs, t, bad, _) := ((src.zip dst).zip rows).zipIdx.foldl (fun acc x =>
          let (s, runs, t, bad, n) := acc
          let r := x.1.1
          let (s, bs, u) := s.readPieces core m.ti r.1
          let bs := m.arrived r.1 bs
          let poisoned := anyPoison bs
          let out := chainRow m d (justBytes bs)
          let out := if poisoned then (List.range out.length).map (fun i => Config.freeByte (s.free + n + i)) else out
          let out := out.map (fun y => (y, false))
          let doubled := otherRows false dst x.2
          let mine := if meet || clash then
              (elemPieces s b d.ds x.1.2.2 dz (if d.reduce.isSome then 1 else d.nc) Range.w).zipIdx.flatMap (fun e =>
                let others := (srcE.filter (fun q => !(own && q.1 = x.2 && q.2.1 = e.2 && q.2.2 == e.1))).flatMap (fun q => q.2.2)
                layRuns e.1 (freeWhere (s.free + n + dn + e.2 * dz) (fun k => byteIn e.1 k others || byteIn e.1 k doubled)
                  ((out.drop (e.2 * dz)).take dz)))
            else layRuns r.2 out
          let ia := match (r.1.zip [()]).head? with | some (p, _) => if p.kind = 0 then p.place else 0 | none => 0
          (s, runs ++ mine, tmax t u, if poisoned && bad.isNone then some ia else bad, n + 2 * dn)) (s, ([] : List WriteRun), m.kt, (none : Option Nat), 0)
        let s := { s with free := s.free + 2 * d.nr * dn }
        let s := s.setCmd core id { m with started := true, runs := runs, kt := t }
        match bad with
        | some ia => s.consumePoison m.ref ia
        | none => s

/-- Starts a TBLLD or CBLD (R270): its image, read here from scratchpad, at issue from global memory. -/
def State.startImage (s : State) (core id : Nat) (m : Cmd) : State :=
  let b := s.block m.ref.blk
  let n := if m.op = .tblld then 2080 else 32
  let (s, bytes, bad) := if m.f.x.fn = 1 then
      let (s, bs, _) := s.readPieces core m.ti [{ kind := 1, core := core, place := b.sbase + m.a.toNat, n := n }]
      (s, justBytes bs, anyPoison bs)
    else (s, m.desc, false)
  if m.op = .tblld && !dzero bytes 8 24 then s.failCmd core id m 1 m.a.toNat
  else
    let k := match m.f.b with | .sp (.atab x) => x.toNat | .sp (.cbook x) => x.toNat | _ => 0
    let s := s.setCmd core id { m with started := true, image := some (k, BitVec.ofNat 16640 (leNat bytes)) }
    if bad then s.consumePoison m.ref 0 else s

/-! Completing a command -/

/-- Writes what a command has computed, each sector of global memory once (R255). -/
def State.applyRuns (s : State) (m : Cmd) : State × Time :=
  let far := m.runs.filter WriteRun.timed
  let s := (m.runs.filter (fun r => !r.timed)).foldl (fun s r => (s.writeRun m r).1) s
  ((far.map WriteRun.sector).eraseDups).foldl (fun acc k =>
    let (s, w) := acc.1.writeSector m (far.filter (fun r => r.sector == k))
    (s, tmax acc.2 w)) (s, m.kt)

/-- The runs with their pages' attributes as they stand now (R375), or the first that its page refuses (R371). -/
def State.currentRuns (s : State) (m : Cmd) : Except EngBad (List WriteRun) :=
  m.runs.foldr (fun r acc => match acc with
    | .error e => .error e
    | .ok rs => if r.kind ≠ 0 then .ok (r :: rs) else match s.pageOf (s.block m.ref.blk) r.addr with
      | .error cause => .error { addr := r.va, sp := false, page := some (r.addr, cause) }
      | .ok attr => .ok ({ r with attr := attr } :: rs)) (.ok [])

/-- Table and codebook slots take an image (R270). -/
def State.putImage (s : State) (core : Nat) (m : Cmd) : State :=
  match m.image with
  | some (k, x) =>
    if m.op = .tblld then s.modCore core (fun c => { c with tabs := c.tabs.set k ((c.tabs.get k (0, 0)).1, x) })
    else s.modCore core (fun c => { c with books := c.books.set k (x.extractLsb' 0 256) })
  | none => s

/-- Bytes that unfenced stores of the fibre touched in what the command writes end unpredictable (R135). -/
def State.freeSpoiled (s : State) (core : Nat) (m : Cmd) : State :=
  m.spoiled.foldl (fun s e => { s with free := s.free + 1 }.storeWrite core e.1 e.2 [Config.freeByte s.free] false) s

/-- Completes a command of the copy or chain engine: writes, the counter, its end (R251, R252, R255); a destination whose page
is refused by now ends the task with RNG (R258, R371). -/
def State.completeCmd (s : State) (core id : Nat) (m : Cmd) : State :=
  match s.currentRuns m with
  | .error e => s.cmdRng core id m e
  | .ok runs =>
    let m : Cmd := { m with runs := runs }
    match s.clearing core m.ti ((runs.filter WriteRun.timed).map WriteRun.piece) true with
    | some s => s
    | none =>
      let (s, t) := s.applyRuns m
      let s := (s.putImage core m).freeSpoiled core m
      (s.dropCmd core id).counterDone m.ref m.k t m.err

/-- A run of a command that stops under purge: reached or not, and if so its bytes are unpredictable (R258). -/
def scrambleRun (n : Nat) (r : WriteRun) : WriteRun :=
  { r with bytes := (List.range r.bytes.length).map (fun i => Config.freeByte (n + i)), poison := false }

/-- A started command stops under purge (R258): what it writes is performed under the page's attribute as it stands (R375). -/
def State.stopRuns (s : State) (m : Cmd) : State :=
  m.runs.foldl (fun s r =>
    let reached := Config.freeBool s.free
    let n := s.free + 1
    let s := { s with free := n + r.bytes.length }
    if !reached then s
    else if r.kind ≠ 0 then (s.writeRun m (scrambleRun n r)).1
    else match s.pageOf (s.block m.ref.blk) r.addr with
      | .ok attr => if s.homeReady (r.addr / 128) true then (s.writeRun m (scrambleRun n { r with attr := attr })).1 else s
      | .error _ => s) s

/-! Table and codebook slots, counters -/

/-- The checks of the source, then the command; of a global codebook image the new entries are known at issue (R118). -/
def Ctx.slotLoad (c : Ctx) (n : Nat) (take : Core → Core) (reg : Region) : State :=
  let go (s : State) (a : Nat) (bs : List (Byte × Bool)) (t : Time) : State :=
    let m := c.command .copy
    let m : Cmd := { m with a := BitVec.ofNat 64 a, desc := justBytes bs, descPoison := anyPoison bs, kt := t, writes := [reg],
                            reads := if c.f.x.fn = 1 then c.blk.regionOf 1 a (a + n) else []
                            image := if c.o = .cbld ∧ c.f.x.fn ≠ 1 then some (bookSlot c.f.b, BitVec.ofNat 16640 (leNat (justBytes bs))) else none }
    let s := ((c.retire s).modCore c.blk.core take).accept m
    s.descPoison c m.descPoison
  if !c.mayCommand .copy then c.stall c.s
  else if c.f.x.fn = 1 then
    let a := c.va 0
    if c.blk.sspan < a + n then c.raise cRNG (accessVal true 0 a)
    else if a % 32 ≠ 0 then c.raise cALN (accessVal true 0 a)
    else go c.s a [] 0
  else c.withDesc (c.va 0) n (fun s bs t => go s (c.va 0) bs t)

/-- TBLLD and CBLD (R261, R269, R270): the slot is taken at issue. -/
def Ctx.loadSlot (c : Ctx) (n : Nat) (owner : Core → Option Nat) (take : Core → Core) (reg : Region) : State :=
  let core := c.blk.core
  match owner (c.s.core core) with
  | some b => if b = c.r.blk then c.slotLoad n take reg else c.ill
  | none => c.slotLoad n take reg
/-- TBLLD. -/
def execTblld (f : Ins) (s : State) := sysOp .tblld f s (fun c =>
  let k := tabSlot f.b
  c.loadSlot 2080 (fun x => x.tabOwner.find k) (fun x => { x with tabOwner := x.tabOwner.set k c.r.blk }) (.atab k))
/-- CBLD. -/
def execCbld (f : Ins) (s : State) := sysOp .cbld f s (fun c =>
  let k := bookSlot f.b
  c.loadSlot 32 (fun x => x.bookOwner.find k) (fun x => { x with bookOwner := x.bookOwner.set k c.r.blk }) (.book k))
/-- TBLSWP (R124, R271): waits for TBLLD commands to its slot. -/
def execTblswp (f : Ins) (s : State) := sysOp .tblswp f s (fun c =>
  let k := tabSlot f.b
  let x := c.s.core c.blk.core
  if x.tabOwner.find k ≠ some c.r.blk then c.ill
  else if x.cmds.any (fun e => e.2.op == .tblld && tabSlot e.2.f.b == k) then c.stall c.s
  else (c.retire c.s).modCore c.blk.core (fun y => { y with tabs := y.tabs.set k (let t := y.tabs.get k (0, 0); (t.2, t.1)) }))

/-- KWAIT (R256, R272). -/
def execKwait (f : Ins) (s : State) := sysOp .kwait f s (fun c =>
  let k := ctrNum f.a
  let x := c.fib.ctr k
  if sext 32 (c.vb 0) < sext 32 x.val.toNat then c.stall c.s
  else if x.ec ≠ 0 then
    (c.s.modFib c.r (fun y => y.modCtr k (fun z => { z with ec := 0 }))).raise c.r cILL x.ec c.pc c.path false 0
  else (c.retire c.s).modFib c.r (fun y => { y with ptime := tmax y.ptime x.kt }))
/-- KADJ (R272). -/
def execKadj (f : Ins) (s : State) := sysOp .kadj f s (fun c =>
  (c.retire c.s).modFib c.r (fun y => y.modCtr (ctrNum f.a) (fun z => { z with val := z.val + BitVec.ofNat 32 (c.vb 0) })))
/-- KRD (R272). -/
def execKrd (f : Ins) (s : State) := sysOp .krd f s (fun c =>
  c.finish { effs := destEffs c.d 1 0 (c.fib.ctr (ctrNum f.a)).val.toNat })

end Sys2Proof.Machine
end

