-- ==== Sys2Proof/Machine/Matrix.lean ====
section
/-!
DEFINITION. The matrix engine: operand maps, gangs and their rendezvous, MMA and MMAS, and the accumulator forms (R274
to R300). A matrix command checks its parameters when it starts and computes when it completes.
-/

namespace Sys2Proof.Machine

/-! Operand maps -/

/-- The first failure of a map by itself (R279); 0 if it is sound. `on` says that CB4 and block scales are accepted (R468). -/
def mapCheck (on : Bool) (types : List Ty) (m : OpMap) : Nat :=
  match m.fmt with
  | none => 1
  | some t =>
    if m.bad || !types.contains t || (!on && (t == .cb4 || m.scaled)) then 1
    else if m.scaled && t != .e4m3 && t != .e5m2 && t != .cb4 then 1
    else if m.rows = 0 || decide (65536 < m.rows) then 2
    else if m.base % 32 ≠ 0 || m.pitch % 32 ≠ 0 || m.sbase % 32 ≠ 0 || m.spitch % 32 ≠ 0 then 3
    else 0

/-- What an operand is read from: the store of the core, its poison, and the codebook of the map. -/
structure MapSrc where
  s : State
  core : Nat
  sbase : Nat
  m : OpMap
  ents : List Nat

/-- The source of a map for a block. -/
def State.mapSrc (s : State) (blk : Nat) (m : OpMap) : MapSrc :=
  let b := s.block blk
  { s := s, core := b.core, sbase := b.sbase, m := m, ents := (List.range 16).map (bookEntry (s.bookOf blk m.cb)) }

/-- The pattern of an element. -/
def MapSrc.pat (x : MapSrc) (r k : Nat) : Nat :=
  let o := x.sbase + x.m.off r k
  let t := x.m.ty
  if t = .cb4 then (x.s.storeByte x.core o false).toNat / (if k % 2 = 0 then 1 else 16) % 16
  else leNat ((List.range t.bytes).map (fun i => x.s.storeByte x.core (o + i) false))
/-- The value of a float or codebook element. -/
def MapSrc.val (x : MapSrc) (r k : Nat) : Val :=
  if x.m.ty = .cb4 then decodeF .bf16 (x.ents.getD (x.pat r k) 0) else decodeF x.m.ty (x.pat r k)
/-- The value of an integer element. -/
def MapSrc.int (x : MapSrc) (r k : Nat) : Int := intVal x.m.ty (x.pat r k)
/-- The E8M0 scale of an element's group; none is NaN (R29). -/
def MapSrc.scale (x : MapSrc) (r k : Nat) : Option Int :=
  if x.m.scaled then
    let e := (x.s.storeByte x.core (x.sbase + x.m.soff r k) false).toNat
    if e = 255 then none else some ((e : Int) - 127)
  else some 0
/-- Is an element, or its scale, poisoned? -/
def MapSrc.poison (x : MapSrc) (r k : Nat) : Bool :=
  x.s.storePoison x.core (x.sbase + x.m.off r k) false ||
  (x.m.scaled && x.s.storePoison x.core (x.sbase + x.m.soff r k) false)

/-- A value times a power of two. -/
def scaleVal (v : Val) (e : Int) : Val := match v with | .fin s m k => .fin s m (k + e) | v => v

/-! Parameters -/

/-- The map VAs of a parameter block. -/
def Cmd.mapA (m : Cmd) : Nat := m.reg 4 + m.reg 5 * 2 ^ 32
/-- The VA of the B map. -/
def Cmd.mapB (m : Cmd) : Nat := m.reg 6 + m.reg 7 * 2 ^ 32

/-- The tile's first accumulator address and the end of its last byte. -/
def Cmd.tileSpan (m : Cmd) (width : Nat) : Nat × Nat :=
  let (rows, bytes) := m.tile width
  (m.reg 0, m.reg 0 + (rows - 1) * m.reg 1 + bytes)

/-- The physical bank of the tile, which is the engine's context (R276). -/
def Block.context (b : Block) (m : Cmd) : Nat := b.banks.getD (m.reg 0 / Config.accBank) (b.banks.headD 0)

/-- Formats that MMA and MMAS admit. -/
def mmaFmts : List Ty := [.bf16, .f16, .e4m3, .e5m2, .i8, .n8, .cb4]
/-- Formats that suit a TYPE of ACCLD or ACCCVT (R297, R298). -/
def accFmts (o : Op) (t : Ty) : List Ty :=
  if t = .f32 then [.f32, .bf16, .f16, .e4m3, .e5m2, .cb4]
  else if o = .accld then [.i32, .i8, .n8] else [.i32, .i8, .n8, .f32, .bf16, .f16, .e4m3, .e5m2]

/-- The first failure in a list of pairs of a condition and what it records. -/
def firstFail (xs : List (Bool × Nat × Nat)) : Nat × Nat := ((xs.find? (fun x => x.1)).map Prod.snd).getD (0, 0)

/-- Does the tile lie in the block's space? -/
def Cmd.tileIn (m : Cmd) (b : Block) : Bool := decide ((m.tileSpan b.width).2 ≤ b.accBytes)
/-- Does the tile lie within one bank? -/
def Cmd.tileOne (m : Cmd) (b : Block) : Bool :=
  let (lo, hi) := m.tileSpan b.width
  lo / Config.accBank == (hi - 1) / Config.accBank

/-- The checks of an MMA or MMAS (R274, R284, R286, R287): code and address; 0 if all hold. -/
def mmaCheck (on : Bool) (b : Block) (m : Cmd) : Nat × Nat :=
  let a := opMap m.desc
  let y := opMap m.desc2
  let n := m.cols
  let ka := mapCheck on mmaFmts a
  let kb := mapCheck on mmaFmts y
  firstFail [
    (m.reg 3 ≠ 0, 1, 0),
    (decide (m.reg 1 < 4 * n), 2, 0),
    (m.reg 0 % 4 ≠ 0 || m.reg 1 % 4 ≠ 0 || m.reg 2 % (if m.op = .mmas then 128 else 64) ≠ 0, 3, 0),
    (ka ≠ 0, ka, m.mapA),
    (kb ≠ 0, kb, m.mapB),
    ((pairClass a.ty y.ty).isNone, 1, m.mapB),
    (decide (y.rows < n), 2, m.mapB),
    (m.rowList.any (fun r => decide (a.rows ≤ r.2.2.1)), 2, m.mapA),
    (m.tileIn b && !m.tileOne b, 2, 0)]

/-- Does an ACCCVT scale its groups? -/
def Cmd.scales (m : Cmd) : Bool := m.op == .acccvt && (opMap m.desc).scaled

/-- The checks of an accumulator form (R274, R295, R297, R298). -/
def accCheck (on : Bool) (b : Block) (m : Cmd) : Nat × Nat :=
  let a := opMap m.desc
  let ka := if hasMap m.op then mapCheck on [.f32, .bf16, .f16, .e4m3, .e5m2, .cb4, .i32, .i8, .n8] a else 0
  let rows := m.reg 2
  let cols := m.reg 3
  firstFail [
    (rows = 0 || decide (512 < rows) || cols = 0 || decide (256 < cols) || decide (m.reg 1 < 4 * cols), 2, 0),
    (m.reg 0 % 4 ≠ 0 || m.reg 1 % 4 ≠ 0, 3, 0),
    (ka ≠ 0, ka, m.mapA),
    (hasMap m.op && !(accFmts m.op m.f.x.ty).contains a.ty, 1, m.mapA),
    (hasMap m.op && decide (a.rows < m.reg 6 + rows), 2, 0),
    (m.tileIn b && !m.tileOne b, 2, 0),
    (hasMap m.op && m.reg 7 % 64 ≠ 0, 3, 0),
    (m.scales && (m.reg 7 % 32 ≠ 0 || cols % 32 ≠ 0), 3, 0)]

/-- The checks of a matrix command; a gang whose members disagree carries its record already. -/
def Cmd.check (on : Bool) (m : Cmd) (b : Block) : Nat × Nat := if isMma m.op then mmaCheck on b m else accCheck on b m

/-- Regions of a sound command (R292). -/
def Cmd.matrixRegions (m : Cmd) (b : Block) : List Region × List Region :=
  let scr := m.runsOf.flatMap (fun r => b.regionOf 1 r.1 (r.1 + r.2))
  let acc := (m.tileRows b.width).flatMap (fun (r : Nat) => b.regionOf 2 (m.reg 0 + r * m.reg 1) (m.reg 0 + r * m.reg 1 + (m.tile b.width).2))
  let book (x : OpMap) : List Region := if x.ty = .cb4 then [.book x.cb] else []
  let books := if isMma m.op then book (opMap m.desc) ++ book (opMap m.desc2) else if hasMap m.op then book (opMap m.desc) else []
  if m.op = .acccvt then (acc ++ books, scr)
  else if m.op = .accld then (scr ++ books, acc)
  else if m.op = .accz then ([], acc)
  else (scr ++ books ++ acc, acc)

/-! Acceptance, gangs -/

/-- Is there room for a command of the context (R251, R276)? -/
def State.matrixRoom (s : State) (b : Block) (m : Cmd) : Bool :=
  let c := s.core b.core
  let x := b.context m
  decide (c.queued .matrix < Config.engineQueue) &&
  decide ((c.cmds.filter (fun e => e.2.engine == .matrix && (s.block e.2.ref.blk).context e.2 == x)).length < 16)

/-- A matrix command is accepted: every member's counter counts it (R282). -/
def State.acceptMatrix (s : State) (m : Cmd) : State :=
  let s := m.members.foldl (fun s u => s.modFib ⟨m.ref.blk, u.warp, m.ref.fib⟩ (fun f => f.modCtr u.k (fun c => { c with val := c.val + 1 }))) s
  s.modCore (s.block m.ref.blk).core (fun c => { c with cmds := c.cmds.set c.nextCmd m, nextCmd := c.nextCmd + 1 })

/-- The command with its regions, if it is sound. -/
def Cmd.ranged (m : Cmd) (b : Block) : Cmd :=
  if m.err = 0 && (m.check true b).1 = 0 then m.withRegions (m.matrixRegions b) else m

/-- Local accesses issued before the fibre's last OPF that are not performed yet (R293). -/
def State.opfWaits (s : State) (r : FRef) : Bool :=
  (s.fib r).opf.any (fun id => ((s.warp r.blk r.warp).pend.find id).isSome)

/-- Fires a presentation group whose members are complete (R282): the command is accepted and every member retires. The
answer says whether it fired; what stands in the way is set going. Members that present different forms disagree as those whose X
fields differ do (DESIGN CHOICE, unsafe, log 76). -/
def State.fire (s : State) (core : Nat) (g : Latch) : State × Bool :=
  match g.members.head? with
  | none => (s, true)
  | some (u, st, regs, _) =>
    let b := s.block g.blk
    let refs := g.members.map (fun x => (⟨g.blk, x.1.warp, g.fib⟩ : FRef))
    let ti := refs.foldl (fun t r => tmax t (s.fib r).ptime) (s.fib (refs.headD ⟨0, 0, 0⟩)).ptime
    let differ := g.members.any (fun x => x.2.1.f.x != st.f.x || x.2.1.op != st.op || x.2.2.1 != regs)
    let m : Cmd := { ref := ⟨g.blk, u.warp, g.fib⟩, engine := .matrix, op := st.op, f := st.f, k := u.k, ti := ti, regs := regs,
                     c := g.mask.setWidth 64, members := g.members.map Prod.fst, vi := b.vi, tag := b.tag, ns := b.ns,
                     service := b.service }
    let done (s : State) (m : Cmd) : State × Bool :=
      let s := s.acceptMatrix m
      (g.members.foldl (fun s x => s.landAdvance ⟨g.blk, x.1.warp, g.fib⟩ x.2.2.2 x.2.1.pc) s, true)
    if !s.matrixRoom b m then (s, false)
    else if differ then done s { m with err := ecRecord 6 4 0 }
    else match s.enginePieces b 0 m.mapA 32 Range.r, s.enginePieces b 0 m.mapB 32 Range.r with
      | .ok pa, .ok pb =>
        match s.clearing core m.ti (pa ++ pb) false with
        | some s => (s, false)
        | none =>
          let (s, ba, ta) := s.readPieces core ti pa
          let (s, bb, tb) := s.readPieces core ti pb
          let m : Cmd := { m with desc := justBytes ba, desc2 := justBytes bb, kt := tmax ta tb, descPoison := anyPoison ba || anyPoison bb }
          let (s, ok) := done s (m.ranged b)
          (if m.descPoison then s.consumePoison m.ref 0 else s, ok)
      | _, _ => (s.endTask b.task b.vi b.tag cRNG (accessVal false 0 (m.mapA % 2 ^ 57)) (s.faultRec m.ref cRNG cRNG 0 0 0).mid, true)

/-- Ended members of a group count as present (R282). -/
def State.groupComplete (s : State) (g : Latch) : Bool :=
  (List.range 16).all (fun w => !g.mask.getLsbD w || g.members.any (fun x => x.1.warp = w) || (s.fib ⟨g.blk, w, g.fib⟩).st == .ended)

/-- Fires the complete groups of a core. -/
def State.settleLatches (s : State) (core : Nat) : State :=
  (s.core core).latches.foldl (fun s g =>
    if (s.core core).latches.contains g && s.groupComplete g then
      let (s, ok) := s.fire core g
      if ok then s.modCore core (fun c => { c with latches := c.latches.filter (· != g) }) else s
    else s) s

/-- The words of the parameter block. -/
def Ctx.params (c : Ctx) (n : Nat) : List Word :=
  match c.b with
  | .u e _ _ => (List.range n).map (fun i => c.fib.ureg (e + i))
  | _ => []

/-- A map VA of the parameter block at step 8 (R284): RNG where the VA lies in no range with R, then ALN. -/
def Ctx.mapRefused (c : Ctx) (vas : List Nat) : Option State :=
  let rng := vas.findSome? (fun (va : Nat) => match c.s.enginePieces c.blk 0 va 1 Range.r with
    | .error e => some (c.vaRefused va e.page)
    | .ok _ => none)
  match rng with
  | some s => some s
  | none => (vas.find? (fun va => va % 32 ≠ 0)).map (fun va => c.raise cALN (accessVal false 0 (va % 2 ^ 57)))

/-- Row indices and metadata of the active lanes (R287); poisoned ones are free. -/
def Ctx.memberRows (c : Ctx) : Map (Word × Word) :=
  let ro := (c.o.roles c.f).2.1
  c.lanes.map (fun l =>
    if c.s.opPoison c.r c.a ro l then (l, (Config.freeWord (c.s.free + 4 * l), Config.freeWord (c.s.free + 4 * l + 1)))
    else (l, (BitVec.ofNat 32 (c.va l), BitVec.ofNat 32 (c.va l / 2 ^ 32))))

/-- MMA and MMAS (R282): alone, or presented at the rendezvous; a path that comes while an earlier presentation of its fibre is
pending is withheld. -/
def Ctx.present (c : Ctx) : State :=
  let core := c.blk.core
  let regs := c.params 8
  let va (i : Nat) : Nat := (regs.getD i 0).toNat + (regs.getD (i + 1) 0).toNat * 2 ^ 32
  let mask : Word := c.fib.g.setWidth 16 |>.setWidth 32
  let waiting := (c.s.core core).latches.any (fun g => g.blk = c.r.blk && g.fib = c.r.fib && g.members.any (fun x => x.1.warp = c.r.warp))
  if waiting then c.stall c.s
  else match c.mapRefused [va 4, va 6] with
  | some s => s
  | none =>
    if c.s.opfWaits c.r || c.s.memHeld c.r true then c.stall c.s
    else
      let rank := ((List.range c.r.warp).filter (fun i => mask.getLsbD i)).length
      let u : Member := { warp := c.r.warp, rank := rank, k := ctrNum c.f.d, active := c.act, rows := c.memberRows }
      let entry := (u, (⟨c.pc, c.o, c.f⟩ : Stall), regs, c.path)
      let after (s : State) : State := if c.poisoned then c.poisonedData (c.skip s) else s
      if mask = 0 then
        let (s, ok) := c.s.fire core { blk := c.r.blk, fib := c.r.fib, mask := 0, members := [entry] }
        if ok then after s else c.stall s
      else
        let old := (c.s.core core).latches.find? (fun g => g.blk = c.r.blk && g.fib = c.r.fib && g.mask = mask)
        let ms := match old with | some g => g.members | none => []
        let lo := ms.filter (fun x => decide (x.1.warp < c.r.warp))
        let hi := ms.filter (fun x => decide (c.r.warp < x.1.warp))
        let g : Latch := { blk := c.r.blk, fib := c.r.fib, mask := mask, members := lo ++ [entry] ++ hi }
        let s := c.s.modCore core (fun x => { x with latches := x.latches.filter (fun y => some y != old) ++ [g] })
        (after (c.stall s)).settleLatches core

/-- MMA. -/
def execMma (f : Ins) (s : State) := sysOp .mma f s Ctx.present
/-- MMAS. -/
def execMmas (f : Ins) (s : State) := sysOp .mmas f s Ctx.present

/-- GANG (R281). -/
def execGang (f : Ins) (s : State) := sysOp .gang f s (fun c =>
  let m : Word := BitVec.ofNat 32 (c.vb 0 % 65536)
  let n := popWarps m
  if m ≠ 0 && (!m.getLsbD c.r.warp || n < 2 || 6 < n || decide (2 ^ c.blk.warps.length ≤ m.toNat)) then c.ill
  else (c.retire c.s).modFib c.r (fun x => { x with g := m }))

/-- OPF (R293): later matrix commands of the fibre wait for the local accesses that are outstanding now. -/
def execOpf (f : Ins) (s : State) := sysOp .opf f s (fun c =>
  let ids := ((c.s.warp c.r.blk c.r.warp).pend.filter (fun e => e.2.fib = c.r.fib && (match e.2.body with | .load l => l.space != .global | _ => false))).map Prod.fst
  (c.retire c.s).modFib c.r (fun x => { x with opf := ids }))

/-- Issues an accumulator form (R295): parameters, the map where there is one, the command. -/
def Ctx.accForm (c : Ctx) (n : Nat) : State :=
  let regs := c.params n
  let m0 : Cmd := { c.command .matrix with
    regs := regs, lanes := if c.o = .accscl then c.memberRows.map (fun e => (e.1, e.2.1)) else [],
    members := [{ warp := c.r.warp, rank := 0, k := ctrNum c.f.d, active := c.act, rows := [] }] }
  let issue (s : State) (m : Cmd) : State :=
    let s := (c.retire s).acceptMatrix (m.ranged c.blk)
    let s := s.descPoison c m.descPoison
    if c.poisoned then c.poisonedData (c.skip s) else s
  let vas := if hasMap c.o then [m0.mapA] else []
  match c.mapRefused vas with
  | some s => s
  | none =>
    if c.s.opfWaits c.r || c.s.memHeld c.r true || !c.s.matrixRoom c.blk m0 then c.stall c.s
    else if hasMap c.o then
      c.withDesc m0.mapA 32 (fun s bs t => issue s { m0 with desc := justBytes bs, descPoison := anyPoison bs, kt := t })
    else issue c.s m0

/-- ACCZ (R296). -/
def execAccz (f : Ins) (s : State) := sysOp .accz f s (fun c => c.accForm 4)
/-- ACCLD (R297). -/
def execAccld (f : Ins) (s : State) := sysOp .accld f s (fun c => c.accForm 8)
/-- ACCCVT (R298). -/
def execAcccvt (f : Ins) (s : State) := sysOp .acccvt f s (fun c => c.accForm 8)
/-- ACCSCL (R299). -/
def execAccscl (f : Ins) (s : State) := sysOp .accscl f s (fun c => c.accForm 4)

/-- The bank a field names, among the block's owned banks. -/
def bankNum (o : Operand) : Nat := match o with | .sp (.accb n) => n.toNat | _ => 0

/-- ACCZ.st (R296). -/
def execAcczSt (f : Ins) (s : State) := sysOp .acczSt f s (fun c =>
  let core := c.blk.core
  match c.blk.banks[bankNum f.a]? with
  | none => c.ill
  | some bank =>
    if (c.s.core core).cmds.any (fun e => e.2.engine == .matrix && (c.s.block e.2.ref.blk).context e.2 == bank) then c.stall c.s
    else
      let v := (c.s.core core).iovf.getD bank false
      (c.finish { effs := destEffs c.d 1 0 (bit1 v) }).modCore core (fun x => { x with iovf := x.iovf.set bank false }))

/-! What a matrix command computes -/

/-- The sum of a group's products (R288, R289), or NaN for a NaN scale. -/
def groupVal (x y : MapSrc) (i n : Nat) (ks : List (Nat × Nat)) (k0 : Nat) : Val :=
  match x.scale i k0, y.scale n k0 with
  | some ea, some eb =>
    let ps := ks.map (fun k => (vmul (scaleVal (x.val i k.1) ea) (scaleVal (y.val n k.2) eb)).1)
    match ps with
    | [] => .fin false 0 0
    | p :: rest => rest.foldl (fun a q => (vadd false a q).1) p
  | _, _ => .nan false

/-- The same in the integer class (R290). -/
def groupInt (x y : MapSrc) (i n : Nat) (ks : List (Nat × Nat)) : Int :=
  ks.foldl (fun a k => a + x.int i k.1 * y.int n k.2) 0

/-- Pairs of a stored A element and a B element that carry a product in the group of 32 logical elements from `k0`
(R288, R291). -/
def productPairs (sparse : Bool) (kb k0 : Nat) (md : Word) : List (Nat × Nat) :=
  if sparse then
    (List.range 8).flatMap (fun q =>
      let g := (k0 - kb) / 4 + q
      let e := md.toNat / 2 ^ (4 * (g % 8)) % 16
      [(kb / 2 + 2 * g, kb + 4 * g + e % 4), (kb / 2 + 2 * g + 1, kb + 4 * g + e / 4)])
  else (List.range 32).map (fun k => (k0 + k, k0 + k))

/-- The scale of A goes by logical group (R291). -/
def MapSrc.scaleAt (x : MapSrc) (i k0 : Nat) : Option Int := x.scale i k0

/-- One element of the product: the new accumulator word, whether an addition overflowed, and poison (R288 to R290). -/
def mmaElem (x y : MapSrc) (m : Cmd) (i n : Nat) (md : Word) (acc : Word) : Word × Bool :=
  let (kl, int) := m.klog
  let kb := m.reg 2
  (List.range (kl / 32)).foldl (fun st q =>
    let k0 := kb + 32 * q
    let ks := productPairs (m.op == .mmas) kb k0 md
    if int then
      let z := st.1.toInt + groupInt x y i n ks
      (BitVec.ofNat 32 (wrapTo 32 z), st.2 || decide (z < -2 ^ 31) || decide (2 ^ 31 - 1 < z))
    else
      let g := (roundTo .f32 (groupVal x y i n ks k0) .rne).1
      (BitVec.ofNat 32 (roundTo .f32 (vadd false (decodeF .f32 st.1.toNat) (decodeF .f32 g)).1 .rne).1, st.2)) (acc, false)

/-- Is some operand byte of row `r` of a map in the step poisoned? -/
def MapSrc.rowPoison (x : MapSrc) (r k n : Nat) : Bool := (List.range n).any (fun i => x.poison r (k + i))

/-- An accumulator word by block address. -/
def State.accWord (s : State) (b : Block) (a : Nat) : Word := (s.core b.core).acc.word (b.accPlace a)
/-- Its poison. -/
def State.accBad (s : State) (b : Block) (a : Nat) : Bool := s.storePoison b.core (b.accPlace a) true

/-- Writes an accumulator word. -/
def State.setAcc (s : State) (b : Block) (a : Nat) (v : Word) (bad : Bool) : State :=
  s.storeWrite b.core (b.accPlace a) true (wordBytes v) bad

/-- MMA and MMAS (R288). -/
def State.runMma (s : State) (m : Cmd) : State :=
  let b := s.block m.ref.blk
  let x := s.mapSrc m.ref.blk (opMap m.desc)
  let y := s.mapSrc m.ref.blk (opMap m.desc2)
  let kb := m.reg 2
  let (kl, _) := m.klog
  let sparse := m.op == .mmas
  let colBad := (List.range m.cols).map (fun n => y.rowPoison n kb kl)
  m.rowList.foldl (fun t r =>
    let row := r.1.rank * b.width + r.2.1
    let rowBad := x.rowPoison r.2.2.1 (if sparse then kb / 2 else kb) (if sparse then kl / 2 else kl)
    (List.range m.cols).foldl (fun t n =>
      let a := m.reg 0 + row * m.reg 1 + 4 * n
      let (v, ov) := mmaElem x y m r.2.2.1 n r.2.2.2 (s.accWord b a)
      let t := t.setAcc b a v (rowBad || colBad.getD n false || s.accBad b a)
      if ov then t.modCore b.core (fun c => { c with iovf := c.iovf.set (b.context m) true }) else t) t) s

/-- ACCZ. -/
def State.runAccz (s : State) (m : Cmd) : State :=
  let b := s.block m.ref.blk
  (List.range (m.reg 2)).foldl (fun s r => (List.range (m.reg 3)).foldl (fun s c => s.setAcc b (m.reg 0 + r * m.reg 1 + 4 * c) 0 false) s) s

/-- ACCLD (R297). -/
def State.runAccld (s : State) (m : Cmd) : State :=
  let b := s.block m.ref.blk
  let x := s.mapSrc m.ref.blk (opMap m.desc)
  (List.range (m.reg 2)).foldl (fun t r => (List.range (m.reg 3)).foldl (fun t c =>
    let i := m.reg 6 + r
    let k := m.reg 7 + c
    let v : Nat := if m.f.x.ty = .f32 then
        (match x.scale i k with
         | some e => (roundTo .f32 (scaleVal (x.val i k) e) .rne).1
         | none => canonNaN .f32)
      else wrapTo 32 (x.int i k)
    t.setAcc b (m.reg 0 + r * m.reg 1 + 4 * c) (BitVec.ofNat 32 v) (x.poison i k)) t) s

/-- ACCSCL (R299). -/
def State.runAccscl (s : State) (m : Cmd) : State :=
  let b := s.block m.ref.blk
  (m.lanes.filter (fun e => decide (e.1 < m.reg 2))).foldl (fun t e => (List.range (m.reg 3)).foldl (fun t c =>
    let a := m.reg 0 + e.1 * m.reg 1 + 4 * c
    let v := (roundTo .f32 (vmul (decodeF .f32 (s.accWord b a).toNat) (decodeF .f32 e.2.toNat)).1 .rne).1
    t.setAcc b a (BitVec.ofNat 32 v) (s.accBad b a)) t) s

/-- Floor of the base-2 logarithm of a finite value's magnitude; none for zero. -/
def log2Floor (v : Val) : Option Int := match v with | .fin _ m e => if m = 0 then none else some (leadExp m e) | _ => none
/-- The greatest of some logarithms. -/
def maxLog (xs : List (Option Int)) : Option Int :=
  xs.foldl (fun a x => match a, x with | some i, some j => some (max i j) | none, y => y | y, none => y) none

/-- EL of R298. -/
def scaleEl (t : Ty) (ents : List Nat) : Int :=
  if t = .e4m3 then 8 else if t = .e5m2 then 15 else (maxLog (ents.map (fun e => log2Floor (decodeF .bf16 e)))).getD 0

/-- The scale byte of a group of values (R298). -/
def groupScale (t : Ty) (ents : List Nat) (vs : List Val) : Nat :=
  if vs.any (fun v => !v.isFin) then 255
  else match maxLog (vs.map log2Floor) with
    | none => 127
    | some g => (max 0 (min 254 (g - scaleEl t ents + 127))).toNat

/-- The pattern of one converted element (R298). -/
def acccvtElem (m : Cmd) (t : Ty) (ents : List Nat) (scale : Option Nat) (v : Val) (w : Word) : Nat :=
  if t.isInt then (if m.f.x.ty = .i32 then deliverInt m.f.x.sat t w.toInt else 0)
  else
    let nan := scale == some 255
    let v := match scale with | some e => scaleVal v (127 - e) | none => v
    if t = .cb4 then (if nan then 0 else (quantVal ents v).1)
    else if nan then canonNaN t
    else (satFloat m.f.x.sat t v (roundTo t v m.f.x.rnd)).1

/-- Writes the pattern of an element of a map. -/
def State.putElem (s : State) (b : Block) (x : OpMap) (r k v : Nat) (bad : Bool) : State :=
  let o := b.sbase + x.off r k
  if x.ty = .cb4 then
    let old := (s.storeByte b.core o false).toNat
    let new := if k % 2 = 0 then old / 16 * 16 + v % 16 else old % 16 + v % 16 * 16
    let s' := s.storeWrite b.core o false [BitVec.ofNat 8 new] bad
    s'
  else s.storeWrite b.core o false (leBytes x.ty.bytes v) bad

/-- The words of a core's unified store that a run of bytes covers whole lose their mark, before the run is written (R322). -/
def State.clearWords (s : State) (core a n : Nat) : State :=
  s.modCore core (fun c => { c with uniPoison := poisonWords c.uniPoison a n false })

/-- ACCCVT (R298), row by row and group by group. A word that a row covers whole is poisoned if one of its own elements is (R322). -/
def State.runAcccvt (s : State) (m : Cmd) : State :=
  let b := s.block m.ref.blk
  let x := opMap m.desc
  let ents := (List.range 16).map (bookEntry (s.bookOf m.ref.blk x.cb))
  let cols := m.reg 3
  let addr (r c : Nat) : Nat := m.reg 0 + r * m.reg 1 + 4 * c
  let val (r c : Nat) : Val := let w := s.accWord b (addr r c); if m.f.x.ty = .f32 then decodeF .f32 w.toNat else ofIntV w.toInt
  (List.range (m.reg 2)).foldl (fun t r =>
    let lo := (m.reg 7 * elemBits x.ty + 7) / 8
    let t := t.clearWords b.core (b.sbase + x.base + (m.reg 6 + r) * x.pitch + lo) ((m.reg 7 + cols) * elemBits x.ty / 8 - lo)
    let t := if x.scaled then t.clearWords b.core (b.sbase + x.soff (m.reg 6 + r) (m.reg 7)) ((cols + 31) / 32) else t
    (List.range ((cols + 31) / 32)).foldl (fun t g =>
      let cs := (List.range (min 32 (cols - 32 * g))).map (32 * g + ·)
      let bad := cs.any (fun c => s.accBad b (addr r c))
      let scale := if x.scaled then some (groupScale x.ty ents (cs.map (val r))) else none
      let t := match scale with
        | some e => t.storeWrite b.core (b.sbase + x.soff (m.reg 6 + r) (m.reg 7 + 32 * g)) false [BitVec.ofNat 8 e] bad
        | none => t
      cs.foldl (fun t c =>
        t.putElem b x (m.reg 6 + r) (m.reg 7 + c) (acccvtElem m x.ty ents scale (val r c) (s.accWord b (addr r c)))
          (s.accBad b (addr r c) || (x.scaled && bad))) t) t) s

/-- Bytes of a region replaced by free values. -/
def State.freeRegion (s : State) (core : Nat) (g : Region) : State :=
  let go (acc : Bool) (lo hi : Nat) : State :=
    let s' := { s with free := s.free + (hi - lo) }
    s'.storeWrite core lo acc ((List.range (hi - lo)).map (fun i => Config.freeByte (s.free + i))) false
  match g with
  | .scratch lo hi => go false lo hi
  | .acc lo hi => go true lo hi
  | _ => s

/-- Accumulator rows of a command replaced by free values. -/
def State.freeRows (s : State) (m : Cmd) (rows : List Nat) : State :=
  let b := s.block m.ref.blk
  rows.foldl (fun s r => s.freeRegion b.core
    (.acc (b.accPlace (m.reg 0 + r * m.reg 1)) (b.accPlace (m.reg 0 + r * m.reg 1 + (m.tile b.width).2)))) s

/-- A started command that a purge stops leaves every byte of its tile unpredictable, or of the map rows of ACCCVT (R300). -/
def State.freeTile (s : State) (m : Cmd) : State :=
  let b := s.block m.ref.blk
  if m.op = .acccvt then m.runsOf.foldl (fun s r => s.freeRegion b.core (.scratch (b.sbase + r.1) (b.sbase + r.1 + r.2))) s
  else s.freeRows m (List.range (m.tile b.width).1)

/-- Does an earlier command hold a matrix command back (R254, R276, R292)? -/
def State.matrixBlocked (s : State) (core id : Nat) (m : Cmd) : Bool :=
  let b := s.block m.ref.blk
  let noAcc (g : Region) : Bool := match g with | .acc _ _ => false | _ => true
  (s.core core).cmds.any (fun e =>
    let o := e.2
    let same := o.engine == .matrix && (s.block o.ref.blk).context o == b.context m
    decide (e.1 < id) &&
      ((same && !o.started) ||
       (o.ref.blk = m.ref.blk &&
         (if same && isMma o.op && isMma m.op then
            ({ m with reads := m.reads.filter noAcc, writes := m.writes.filter noAcc } : Cmd).conflicts
              { o with reads := o.reads.filter noAcc, writes := o.writes.filter noAcc }
          else m.conflicts o))))

/-- Is it the other context's turn (R276)? Where both contexts hold a command ready to start, they alternate. -/
def State.otherTurn (s : State) (core : Nat) (m : Cmd) : Bool :=
  let x := (s.block m.ref.blk).context m
  (s.core core).lastCtx == some x && (s.core core).cmds.any (fun e =>
    e.2.engine == .matrix && !e.2.started && (s.block e.2.ref.blk).context e.2 != x && !s.matrixBlocked core e.1 e.2)

/-- May a matrix command not start yet? -/
def State.matrixHeld (s : State) (core id : Nat) (m : Cmd) : Bool := s.matrixBlocked core id m || s.otherTurn core m

/-- Starts a matrix command: its checks, and RNG for a tile or a map byte outside the block's space (R274, R279). -/
def State.startMatrix (s : State) (core id : Nat) (m : Cmd) : State :=
  let b := s.block m.ref.blk
  if m.err ≠ 0 then s.setCmd core id { m with started := true }
  else
    let (code, addr) := m.check (s.feature b.service 2) b
    if code ≠ 0 then s.failCmd core id m code addr
    else if !m.tileIn b then s.cmdRng core id m { addr := m.reg 0, sp := true }
    else match m.runsOf.find? (fun r => decide (b.sspan < r.1 + r.2)) with
      | some r => s.cmdRng core id m { addr := r.1, sp := true }
      | none => s.setCmd core id { m with started := true }

/-- Completes a matrix command: it computes, and every member's counter is done (R251, R274, R288). Unfenced stores into a region
it reads have left its accumulator rows unpredictable, which ACCCVT then reads (R294). -/
def State.completeMatrix (s : State) (core id : Nat) (m : Cmd) : State :=
  let b := s.block m.ref.blk
  let s := if m.err ≠ 0 then s
    else if m.garbled then (if m.op = .acccvt then (s.freeRows m (m.tileRows b.width)).runAcccvt m else s.freeRows m (m.tileRows b.width))
    else match m.op with
      | .mma | .mmas => s.runMma m
      | .accz => s.runAccz m
      | .accld => s.runAccld m
      | .accscl => s.runAccscl m
      | _ => s.runAcccvt m
  let s := s.freeSpoiled core m
  m.members.foldl (fun s u => s.counterDone ⟨m.ref.blk, u.warp, m.ref.fib⟩ u.k m.kt m.err) (s.dropCmd core id)

end Sys2Proof.Machine
end

