-- ==== Sys2Proof/Machine/Barriers.lean ====
section
/-!
DEFINITION. Named barriers at block, cluster and device scope (R309 to R316, R340, R478): arrivals, waits, completion.
-/

namespace Sys2Proof.Machine

/-- The record a barrier form names (R478). -/
def State.bar (s : State) (blk : Nat) (sc : Scope) (n : Nat) : Bar :=
  let b := s.block blk
  match sc with
  | .c => s.cbars.get (b.clusterKey * 16 + n) {}
  | .d => s.dbars.get (b.task * 4 + n) {}
  | _ => b.bars.get n {}
/-- The record replaced. -/
def State.setBar (s : State) (blk : Nat) (sc : Scope) (n : Nat) (x : Bar) : State :=
  let b := s.block blk
  match sc with
  | .c => { s with cbars := s.cbars.set (b.clusterKey * 16 + n) x }
  | .d => { s with dbars := s.dbars.set (b.task * 4 + n) x }
  | _ => s.modBlock blk (fun y => { y with bars := y.bars.set n x })

/-- A fibre as a record names it. -/
def barMember (blk w f : Nat) : Nat := blk * 64 + 4 * w + f

/-- Has every fibre of a block arrived, left or ended (R312)? -/
def Block.arrived (b : Block) (blk : Nat) (x : Bar) : Bool :=
  (b.refs blk).all (fun r =>
    let m := barMember blk r.warp r.fib
    x.arr.contains m || x.drop.contains m || ((b.warps.getD r.warp {}).fibs.getD r.fib {}).st == .ended)

/-- Blocks that a phase covers (R315): the block itself, its cluster, or its grid. -/
def State.barBlocks (s : State) (blk : Nat) (sc : Scope) : List (Nat × Block) :=
  let b := s.block blk
  match sc with
  | .c => s.blocks.filter (fun e => e.2.sameCluster b)
  | .d => s.blocks.filter (fun e => e.2.task = b.task && e.2.service = b.service)
  | _ => [(blk, b)]

/-- Has every block of the grid been handed out? -/
def State.gridOut (s : State) (task : Nat) : Bool :=
  match s.tasks.find task with
  | some t => decide (t.tr.gx * t.tr.gy * t.tr.gz ≤ t.next)
  | none => true

/-- Is the open phase of a record complete (R312, R315)? -/
def State.barComplete (s : State) (blk : Nat) (sc : Scope) (x : Bar) : Bool :=
  x.scp != .none &&
  (if x.exp ≠ 0 then x.cnt == x.exp
   else (sc != .d || s.gridOut (s.block blk).task) &&
     (s.barBlocks blk sc).all (fun e => e.2.st == .gone || e.2.arrived e.1 x))

/-- The phase ends (R312). -/
def Bar.complete (x : Bar) : Bar :=
  { x with last := x.pmax, lscp := x.scp, ph := x.ph + 1, scp := .none, exp := 0, cnt := 0, arr := [], pmax := 0 }

/-- An arrival counted in a record (R312): the fibre, its time, and DROP of BARX. -/
def Bar.count (x : Bar) (sc : Scope) (cnt me : Nat) (drop : Bool) (a : Time) : Bar :=
  let x : Bar := if x.scp = .none then { x with scp := sc, exp := cnt, pmax := a } else { x with pmax := tmax x.pmax a }
  let x : Bar := if cnt = 0 then { x with arr := setAdd x.arr me } else { x with cnt := x.cnt + 1 }
  if drop then { x with drop := setAdd x.drop me } else x

/-- Completes the phase of a record if it is complete. -/
def State.tryBar (s : State) (blk : Nat) (sc : Scope) (n : Nat) : State :=
  let x := s.bar blk sc n
  if s.barComplete blk sc x then s.setBar blk sc n x.complete else s

/-- Completes every phase that is complete, for changes that are no arrival: a fibre or a block that ended (R312, R320). -/
def State.settleBars (s : State) : State :=
  let live := s.blocks.filter (fun e => e.2.st != .gone)
  live.foldl (fun s e =>
    let s := e.2.bars.foldl (fun s b => s.tryBar e.1 .b b.1) s
    let s := (List.range 16).foldl (fun s n => if (s.cbars.find (e.2.clusterKey * 16 + n)).isSome then s.tryBar e.1 .c n else s) s
    (List.range 4).foldl (fun s n => if (s.dbars.find (e.2.task * 4 + n)).isSome then s.tryBar e.1 .d n else s) s) s

/-- The barrier a field names. -/
def barNum (o : Operand) : Nat := match o with | .sp (.bar n) => n.toNat | _ => 0

/-- The checks of R311 on the form, its barrier number and count. -/
def Ctx.barIll (c : Ctx) (n cnt : Nat) : Bool :=
  let sc := c.f.x.scope
  (sc == .b && decide (4 * c.blk.warps.length ≤ n)) || (sc == .c && decide (16 ≤ n)) ||
  (sc == .d && (decide (4 ≤ n) || !c.blk.coop)) || decide (1023 < cnt) || (sc != .b && cnt ≠ 0)

/-- The checks of R311 on an arrival at a record. -/
def Ctx.arriveIll (c : Ctx) (x : Bar) (cnt : Nat) : Bool :=
  x.scp != .none && (x.scp != c.f.x.scope || x.exp ≠ cnt)

/-- An arrival is counted (R312); `drop` for BARX. -/
def State.arrive (s : State) (r : FRef) (sc : Scope) (n cnt : Nat) (drop : Bool) : State :=
  let x := (s.bar r.blk sc n).count sc cnt (barMember r.blk r.warp r.fib) drop (s.fib r).arrival
  (s.setBar r.blk sc n x).tryBar r.blk sc n

/-- An arrival in its place by cycle of issue. -/
def insertArrival (x : FRef × Arrival) (l : List (FRef × Arrival)) : List (FRef × Arrival) :=
  match l with
  | [] => [x]
  | y :: rest => if x.2.at' < y.2.at' then x :: y :: rest else y :: insertArrival x rest

/-- Arrivals of a block at a record that have issued and are not counted, in order of issue (R311). -/
def State.arrivalsAt (s : State) (blk : Nat) (sc : Scope) (n : Nat) : List (FRef × Arrival) :=
  let all := ((s.block blk).refs blk).flatMap (fun r => ((s.fib r).arrivals.filter (fun a => a.sc = sc && a.n = n)).map (fun a => (r, a)))
  all.foldl (fun l x => insertArrival x l) []

/-- A record as it stands after every arrival of the block that issued earlier, counted or not (R311). -/
def State.barAhead (s : State) (blk : Nat) (sc : Scope) (n : Nat) : Bar :=
  (s.arrivalsAt blk sc n).foldl (fun x e =>
    let y := x.count sc e.2.cnt (barMember blk e.1.warp e.1.fib) e.2.drop 0
    if s.barComplete blk sc y then y.complete else y) (s.bar blk sc n)

/-- The arrival is counted: its token is written, or kept for a BARS (R312, R314). -/
def State.countArrival (s : State) (r : FRef) (a : Arrival) (rest : List Arrival) : State :=
  let t := (s.bar r.blk a.sc a.n).ph
  let s := (s.modFib r (fun f => { f with arrivals := rest })).arrive r a.sc a.n a.cnt a.drop
  let s := match a.tok with
    | some (u, p) => (s.modWarp r.blk r.warp (fun w => { w with pend := w.pend.erase p })).landEff r (.ureg u t)
    | none => s
  match a.bars with
  | some pc => s.modFib r (fun f => { f with phases := f.phases.set pc (.bars (some t)) })
  | none => s

/-- The oldest arrival of the fibre goes on: its release begins, and once that and its transfers are complete it is counted. -/
def State.stepArrival (s : State) (r : FRef) : State :=
  match (s.fib r).arrivals with
  | [] => s
  | a :: rest =>
    let s := if !a.begun && (s.fib r).rel.isNone then
        (s.modFib r (fun f => { f with rel := some (none, a.sc), relw := f.ptime, arrivals := { a with begun := true } :: rest })).settleRelease r
      else s
    let begun := a.begun || (s.fib r).arrivals.any (fun x => x.begun)
    let live := s.transfers r
    if begun && (s.fib r).rel.isNone && !a.cmds.any live.contains then s.countArrival r a rest else s

/-- The fibre's arrivals, in their order. -/
def State.settleArrivals (s : State) (r : FRef) : State := (s.fib r).arrivals.foldl (fun s _ => s.stepArrival r) s

/-- Nothing holds the arrival back: it is counted as it issues. -/
def Ctx.arrivesNow (c : Ctx) (sc : Scope) : Bool :=
  c.fib.arrivals.isEmpty && c.fib.rel.isNone && (c.s.transfers c.r).isEmpty && c.s.releaseDone c.r sc

/-- An arrival (R311, R312): its checks; then it is counted, and `now` follows with the phase named, or it is left to be counted
and `later` follows with its record. -/
def Ctx.arriving (c : Ctx) (cnt : Nat) (drop : Bool) (now : State → Word → State) (later : Arrival → State) : State :=
  let sc := c.f.x.scope
  let n := barNum c.f.a
  if c.barIll n cnt || c.arriveIll (c.s.barAhead c.r.blk sc n) cnt then c.ill
  else if c.arrivesNow sc then c.release sc (fun s => now (s.arrive c.r sc n cnt drop) (s.bar c.r.blk sc n).ph)
  else later { sc := sc, n := n, cnt := cnt, drop := drop, at' := c.s.now, cmds := c.s.transfers c.r }

/-- The state with an arrival of the fibre left to be counted. -/
def State.addArrival (s : State) (r : FRef) (a : Arrival) : State :=
  (s.modFib r (fun f => { f with arrivals := f.arrivals ++ [a] })).settleArrivals r

/-- Is phase `t` complete? SInt32(PH − t) > 0 (R313). -/
def phasePast (ph t : Word) : Bool := decide (0 < (ph - t).toInt)

/-- A wait on phase `t` of a record (R313). -/
def Ctx.waitPhase (c : Ctx) (s : State) (t : Word) : State :=
  let x := s.bar c.r.blk c.f.x.scope (barNum c.f.a)
  if phasePast x.ph t then
    (c.retire s).modFib c.r (fun f => { f with ptime := tmax f.ptime x.last, phases := f.phases.erase c.pc.toNat })
  else c.stall s

/-- BARA (R312): it retires as it issues; the token names the phase of the arrival. -/
def execBara (f : Ins) (s : State) := sysOp .bara f s (fun c =>
  c.arriving (c.vb 0) false (fun s t => (c.retire s).applyEffs c.r (destEffs c.d 1 0 t.toNat))
    (fun a =>
      let s := c.retire c.s
      let id := (s.warp c.r.blk c.r.warp).nextPend
      let u := (c.d.us 1).headD 0
      (s.addPend c.r { fib := c.r.fib, du := [u], since := s.now, body := .answer false }).addArrival c.r { a with tok := some (u, id) }))

/-- The checks of R311 on a token, against a record. -/
def Bar.tokenIll (x : Bar) (sc : Scope) (t : Word) : Bool :=
  phasePast t x.ph || (t == x.ph && x.scp != .none && x.scp != sc) || (t == x.ph - 1 && x.lscp != .none && x.lscp != sc)

/-- BARW (R311, R313). -/
def execBarw (f : Ins) (s : State) := sysOp .barw f s (fun c =>
  let t := BitVec.ofNat 32 (c.vb 0)
  if c.barIll (barNum f.a) 0 || (c.s.barAhead c.r.blk f.x.scope (barNum f.a)).tokenIll f.x.scope t then c.ill
  else c.waitPhase c.s t)

/-- BARS (R314): the arrival, then the wait on its hidden token, which a fibre that comes again resumes (R316). -/
def execBars (f : Ins) (s : State) := sysOp .bars f s (fun c =>
  match c.fib.phases.find c.pc.toNat with
  | some (.bars (some t)) => c.waitPhase c.s t
  | some (.bars none) => c.stall c.s
  | _ => c.arriving (c.vb 0) false (fun s t =>
      c.waitPhase (s.modFib c.r (fun y => { y with phases := y.phases.set c.pc.toNat (.bars (some t)) })) t)
      (fun a => c.stall ((c.s.modFib c.r (fun y => { y with phases := y.phases.set c.pc.toNat (.bars none) })).addArrival c.r
        { a with bars := some c.pc.toNat })))

/-- BARX (R314). -/
def execBarx (f : Ins) (s : State) := sysOp .barx f s (fun c => c.arriving 0 true (fun s _ => c.retire s)
  (fun a => (c.retire c.s).addArrival c.r a))

end Sys2Proof.Machine
end

