-- ==== Sys2Proof/Machine/Cluster.lean ====
section
/-!
DEFINITION. The cluster: pushes CPYR and CPYM, and remote reductions REDR (R328 to R339).
-/

namespace Sys2Proof.Machine

/-- The member of a rank of a block's cluster. -/
def State.member (s : State) (b : Block) (rank : Nat) : Option (Nat × Block) :=
  s.blocks.find? (fun e => e.2.sameCluster b && e.2.rank = rank && e.2.st != .gone)

/-- May a member still receive a push or a reduction (R327, R333)? -/
def Block.receives (b : Block) : Bool := b.st == .resident && !b.ending && !b.failed

/-- Where a push goes (R330): the exact base E, the base offset and the ranks. -/
def pushTarget (m : Cmd) (d : CopyDesc) : Int × Int × List Nat :=
  if m.op = .cpym then
    let e := (d.da : Int) + sext 32 m.c.toNat
    (e, e, (List.range 8).filter (fun i => m.c.toNat.testBit (32 + i)))
  else
    let e := (d.da : Int) + sext 64 m.c.toNat
    (e, e % 2 ^ 21, [(e / 2 ^ 21).toNat])

/-- The first failure of a push by its descriptor (R257, R262, R330); 0 if it is sound. -/
def pushCheck (m : Cmd) (d : CopyDesc) (csize : Nat) : Nat :=
  let odd (x : Int) : Bool := x % 4 ≠ 0
  let (e, _, ranks) := pushTarget m d
  let dd : Int := if m.op = .cpym then sext 32 m.c.toNat else sext 64 m.c.toNat
  if d.bad || (d.ss ≠ 0 && d.ss ≠ 1 && d.ss ≠ 2 && d.ss ≠ 4) || d.ds ≠ 1 then 1
  else if d.len = 0 || decide (2 ^ 24 < d.len) then 2
  else if d.ss = 2 && (odd (d.sa + sext 64 m.b.toNat) || odd (d.da + dd) || odd d.len || odd d.s1 || odd d.s2 || odd d.d1 || odd d.d2) then 3
  else if m.op = .cpym then
    (if e < 0 || decide (2 ^ 21 ≤ e) || ranks.isEmpty || ranks.any (fun i => decide (csize ≤ i)) then 5 else 0)
  else (if e < 0 || decide (2 ^ 24 ≤ e) || ranks.any (fun i => decide (csize ≤ i)) then 5 else 0)

/-- Issues a push; its source regions alone are recorded (R329, R332). -/
def Ctx.push (c : Ctx) : State :=
  c.issueDesc .copy 64 [] (fun c m =>
    let d := copyDesc m.desc
    if pushCheck m d c.blk.csize = 0 then { m with reads := (copyRegions c.blk { m with c := 0 } { d with ds := 0 }).1 } else m)

/-- CPYR. -/
def execCpyr (f : Ins) (s : State) := sysOp .cpyr f s Ctx.push
/-- CPYM. -/
def execCpym (f : Ins) (s : State) := sysOp .cpym f s Ctx.push

/-- The first refusal of a push in the order of its loop: each source byte is read before its offset at the destination is tested
(R331). `rows` holds a row's exact source address and offset. -/
def pushRefused (span len : Nat) (rows : List ((Int × Int) × Except EngBad (List Piece))) : Option EngBad :=
  rows.findSome? (fun r =>
    let (a, off) := r.1
    let out : Option EngBad := if off < 0 ∨ (span : Int) < off + len then some { addr := wrapTo 57 (firstOut off span), sp := true } else none
    match r.2 with
    | .ok _ => out
    | .error e => if out.isSome ∧ firstOut off span - off < wrapTo 57 (e.addr - a) then out else some e)

/-- Starts a push (R331, R333): sources read, destinations laid out at the ranks that may receive. -/
def State.startPush (s : State) (core id : Nat) (m : Cmd) : State :=
  let b := s.block m.ref.blk
  let d := copyDesc m.desc
  let code := pushCheck m d b.csize
  let (_, base, ranks) := pushTarget m d
  let found := ranks.filterMap (fun i => (s.member b i).bind (fun e => if e.2.receives then some e else none))
  if code ≠ 0 then s.failCmd core id m code m.a.toNat
  else if m.op = .cpyr && found.isEmpty then s.failCmd core id m 5 m.a.toNat
  else
    let rows := (List.range (d.n2 + 1)).flatMap (fun (q : Nat) => (List.range (d.n1 + 1)).map (fun (r : Nat) =>
      ((d.sa : Int) + sext 64 m.b.toNat + r * d.s1 + q * d.s2, base + r * d.d1 + q * d.d2)))
    let places := rows.map (fun r => if d.ss = 4 then .ok [] else s.enginePieces b d.ss r.1 d.len Range.r)
    match pushRefused b.sspan d.len (rows.zip places) with
    | some e => s.cmdRng core id m e
    | none => match resolveRows places with
      | .error e => s.cmdRng core id m e
      | .ok src => match s.clearing core m.ti src.flatten false with
        | some s => s
        | none =>
          let all := src.flatten
          let into := found.flatMap (fun e => rows.map (fun r =>
            ({ kind := 1, core := e.2.core, place := e.2.sbase + r.2.toNat, n := d.len } : Piece)))
          let pat := leBytes 4 (wrapTo 32 ((d.sa : Int) + sext 64 m.b.toNat))
          let (s, runs, t, _) := (src.zip rows).foldl (fun acc r =>
            let (s, runs, t, n) := acc
            let (s, bs, u) := if d.ss = 4 then (s, (List.range d.len).map (fun i => (pat.getD (i % 4) 0, false)), t)
              else s.readPieces core m.ti r.1
            let bs := m.arrived r.1 bs
            let here := found.flatMap (fun e =>
              let p : Piece := { kind := 1, core := e.2.core, place := e.2.sbase + r.2.2.toNat, n := d.len }
              layRuns [p] (freeWhere (s.free + n) (overlapFree all into r.1 [p]) bs))
            (s, runs ++ here, tmax t u, n + d.len)) (s, ([] : List WriteRun), m.kt, 0)
          let lines := pieceLines all
          let s := { s.pinLines (core / 33) lines with free := s.free + rows.length * d.len }
          s.setCmd core id { m with started := true, runs := runs, kt := t, pinned := lines, targets := found.map Prod.fst,
                                    err := if found.length < ranks.length then ecRecord 0 5 m.a.toNat else 0 }

/-! REDR -/

/-- One lane's address of a REDR (R328, R335): the member's block and the offset, or the refusal. -/
def Ctx.redrAcc (c : Ctx) (lane : Nat) : Except Bad Acc :=
  let a := c.addrOf c.size lane
  let rank := (a / 2 ^ 21).toNat
  let off := (a % 2 ^ 21).toNat
  if a < 0 ∨ 2 ^ 24 ≤ a ∨ c.blk.csize ≤ rank ∨ c.blk.sspan < off + c.size then .error { cls := cRNG, lane := lane, addr := a, sp := true }
  else .ok { lane := lane, addr := BitVec.ofNat 64 a.toNat, place := rank * 2 ^ 21 + off }

/-- REDR (R335, R336): its combined requests are on their way until REMOTE_REDUCTION performs them. -/
def execRedr (f : Ins) (s : State) := issueWith .redr f s (fun c _ => c.raEnd) (fun c =>
  match c.accesses c.redrAcc true false false with
  | .error b => c.refuse b
  | .ok as =>
    let as := c.withData false as
    let dest (p : Nat) : Option (Nat × Block) := (c.s.member c.blk (p / 2 ^ 21)).bind (fun e => if e.2.receives then some e else none)
    let own := as.filterMap (fun a => (dest a.place).map (fun e => { a with core := e.2.core, place := e.2.sbase + a.place % 2 ^ 21 }))
    if c.s.memHeld c.r false || c.s.localBusy c.r .scratch own c.size then c.stall c.s
    else c.ordered (fun s =>
      let s := c.skip (c.retire s)
      let s := (distinct (as.map Acc.place)).foldl (fun (s : State) p =>
        match dest p with
        | none => s
        | some e =>
          let mine := as.filter (fun a => a.place = p)
          { s with remreds := s.remreds.set s.nextRem ⟨c.r, e.1, p % 2 ^ 21, f.x.aop, f.x.ty, mine.map (fun a => (a.lane, a.v))⟩
                   nextRem := s.nextRem + 1 }) s
      c.poisonedData s))

/-- The event REMOTE_REDUCTION (R336): the request named by `arg` is performed at its destination, unless an earlier one
of its fibre meets it. A member that is freed or failed, or a poisoned word, is left alone. -/
def execRemoteReduction (s : State) : Host.Outcome State Fault Refusal :=
  let id := s.arg.id
  match s.remreds.find id with
  | none => .next s
  | some q =>
    let n := q.ty.bytes
    let earlier := s.remreds.any (fun e => decide (e.1 < id) && e.2.ref = q.ref && e.2.blk = q.blk && spanMeet e.2.off (e.2.off + e.2.ty.bytes) q.off (q.off + n))
    if earlier then .next s
    else
      let b := s.block q.blk
      let s := { s with remreds := s.remreds.erase id }
      let p := b.sbase + q.off
      if !b.receives || (List.range n).any (fun i => s.storePoison b.core (p + i) false) then .next s
      else
        let m := leNat ((List.range n).map (fun i => s.storeByte b.core (p + i) false))
        let (m', _) := aopLanes q.aop q.ty m (q.lanes.map (fun e => (e.1, e.2, 0)))
        .next (s.storeWrite b.core p false (leBytes n m') false)

end Sys2Proof.Machine
end

