-- ==== Sys2Proof/Machine/DieForms.lean ====
section
/-!
DEFINITION. The die forms: kick queues and notices, MIGRATE, WAITA, WAKEA and PTADV, and the events of notices (R352 to
R361).
-/

namespace Sys2Proof.Machine

/-! Pieces by internal address -/

/-- The pieces of a run of global memory given by IA, with the checks of its page for a block (R246, R371). -/
def State.iaPieces (s : State) (b : Block) (ia n : Nat) (ns : Bool) : Except EngBad (List Piece) :=
  gatherPieces ((splitAt' (n / 128 + 2) 128 ia n).map (fun e => match s.pageOf b e.1 with
    | .error cause => .error { addr := e.1, sp := false, page := some (e.1, cause) }
    | .ok attr => .ok { kind := 0, core := b.core, place := e.1, n := e.2, ns := ns, attr := attr }))

/-- The NS bit of the page of a line (R369); a line nowhere counts as non-secure. -/
def LineHome.ns (h : LineHome) : Bool :=
  match h with
  | .slice _ n => n
  | .bridge _ n => n
  | .refused _ => true

/-! Kick queues -/

/-- The immediate or uniform value of a field read once. -/
def Ctx.ub (c : Ctx) : Nat := c.vb 0
/-- Register `i` of a uniform group in field B. -/
def Ctx.breg (c : Ctx) (i : Nat) : Nat := ((c.params 16).getD i 0).toNat

/-- The handle of a queue (R353). -/
def kickHandle (gen : BitVec 16) (vi q core : Nat) : Nat := core / 33 + core % 33 * 2 ^ 4 + q * 2 ^ 10 + vi * 2 ^ 16 + gen.toNat * 2 ^ 32

/-- KICKCFG.open (R353). -/
def execKickcfgOpen (f : Ins) (s : State) := sysOp .kickcfgOpen f s (fun c =>
  let b := c.blk
  let rbase := c.breg 0
  let bufsz := c.breg 1
  let nbuf := c.breg 2
  let q := c.breg 3
  let x := (c.s.core b.core).kicks.get q {}
  if rbase % 32 ≠ 0 || bufsz % 32 ≠ 0 || bufsz < 32 || decide (65536 < bufsz) || nbuf < 1 || decide (64 < nbuf) || decide (7 < q) ||
      decide (b.sspan < rbase + nbuf * (bufsz + 32)) || x.owner.isSome then c.ill
  else
    let k : KickQ := { owner := some c.r.blk, fib := c.r, k := ctrNum f.a, gen := x.gen + 1, rbase := rbase, bufsz := bufsz,
                       nbuf := nbuf, free := nbuf, next := 0, seq := 0, pend := [], landing := x.landing }
    let s := c.finish { effs := destEffs c.d 2 0 (kickHandle k.gen b.vi q b.core) }
    s.modCore b.core (fun y => { y with kicks := y.kicks.set q k }))

/-- KICKCFG.free (R353). -/
def execKickcfgFree (f : Ins) (s : State) := sysOp .kickcfgFree f s (fun c =>
  let q := c.va 0
  let x := (c.s.core c.blk.core).kicks.get q {}
  let n := c.vb 0
  if x.owner ≠ some c.r.blk || decide (7 < q) || x.nbuf - x.free < n then c.ill
  else (c.retire c.s).modCore c.blk.core (fun y => { y with kicks := y.kicks.set q { x with free := x.free + n } }))

/-- Ends a notice at its sender: the counter, the time and the record (R354 to R356). -/
def State.endNotice (s : State) (n : Notice) (t : Time) (code : Nat) : State :=
  match (s.core n.core).cmds.find n.cmd with
  | some m =>
    (s.dropCmd n.core n.cmd).counterDone m.ref m.k t (if code = 0 then 0 else ecRecord 8 code m.a.toNat)
  | none => s

/-- Closes a queue: its pending notices fail (R353, R356). -/
def State.closeQueue (s : State) (core q : Nat) : State :=
  let x := (s.core core).kicks.get q {}
  let s := s.modCore core (fun y => { y with kicks := y.kicks.set q { x with owner := none, pend := [] } })
  x.pend.foldl (fun s n => s.endNotice n 0 5) s

/-- Closes every queue of a block that is freed, saved, or migrated, or has ended (R356). -/
def State.closeQueues (s : State) (blk : Nat) : State :=
  let core := (s.block blk).core
  (List.range 8).foldl (fun s q => if ((s.core core).kicks.get q {}).owner = some blk then s.closeQueue core q else s) s

/-- Has the landing of a notice begun, by its sender's core and command (R356)? -/
def State.landingBegun (s : State) (core cmd : Nat) : Bool :=
  s.cores.any (fun c => c.2.kicks.any (fun q => match q.2.landing with | some x => x.n.core = core && x.n.cmd = cmd | none => false))

/-- Withdraws the notices of a block that is saved: CODE 0x6; one whose landing has begun completes first (R356). -/
def State.withdrawNotices (s : State) (blk : Nat) : State :=
  let core := (s.block blk).core
  let mine := (((s.core core).cmds.filter (fun e => e.2.op == .notify && e.2.ref.blk = blk)).map Prod.fst).filter (fun id => !s.landingBegun core id)
  let s := { s with
    notices := s.notices.filter (fun e => !(e.2.n.core = core && mine.contains e.2.n.cmd))
    cores := s.cores.mapVal (fun _ c => { c with kicks := c.kicks.mapVal (fun _ q =>
      { q with pend := q.pend.filter (fun n => !(n.core = core && mine.contains n.cmd)) }) }) }
  mine.foldl (fun s id => s.endNotice { (default : Notice) with core := core, cmd := id } 0 6) s

/-- KICKCFG.close (R353). -/
def execKickcfgClose (f : Ins) (s : State) := sysOp .kickcfgClose f s (fun c =>
  let q := c.va 0
  if ((c.s.core c.blk.core).kicks.get q {}).owner ≠ some c.r.blk || decide (7 < q) then c.ill
  else (c.retire c.s).closeQueue c.blk.core q)

/-- NOTIFY (R354): the checks, the count, the release, then the notice is sent. -/
def execNotify (f : Ins) (s : State) := sysOp .notify f s (fun c =>
  let b := c.blk
  let h := c.va 0
  let va := c.breg 0 + c.breg 1 * 2 ^ 32
  let len := c.breg 2
  if len % 4 ≠ 0 || len < 4 || decide (65536 < len) || bitsOf h 48 16 ≠ 0 || bitsOf h 22 10 ≠ 0 || bitsOf h 13 3 ≠ 0 ||
      decide (5 < bitsOf h 0 4) || decide (31 < bitsOf h 4 6) then c.ill
  else
    let whole := decide (va + len ≤ 2 ^ 57) && (match b.rangeAt va with
      | some g => g.r && (g.ns || !b.ns) && decide (va + len ≤ g.vabase + g.gran * 65536)
      | none => false)
    match c.s.enginePieces b 0 va len Range.r with
    | .error e => c.vaRefused va e.page
    | .ok _ =>
      if !whole then c.vaRefused va none
      else if va % 4 ≠ 0 then c.raise cALN (accessVal false 0 va)
      else if !c.mayCommand .copy then c.stall c.s
      else (c.counting (ctrNum f.d)).release .d (fun s =>
        let m := c.command .copy
        let m : Cmd := { m with a := BitVec.ofNat 64 va, ti := (s.fib c.r).ptime, started := true }
        let id := (s.core b.core).nextCmd
        let g := (b.rangeAt va).getD {}
        let n : Notice := { core := b.core, cmd := id, ia := g.iabase + (va - g.vabase), len := len, uword := BitVec.ofNat 32 (c.breg 3),
                            tn := (s.fib c.r).ptime, vi := b.vi, tag := b.tag, ns := b.ns }
        let s := (c.countedRetire s).queueCmd m
        { s with
          notices := s.notices.set s.nextNotice { n := n, core := 33 * bitsOf h 0 4 + bitsOf h 4 6, queue := bitsOf h 10 3,
                                                  gen := BitVec.ofNat 16 (bitsOf h 32 16), hvi := bitsOf h 16 6 }
          nextNotice := s.nextNotice + 1 }))

/-- Is an earlier notice of the same fibre to the same queue still on its way (R354)? -/
def State.noticeBehind (s : State) (id : Nat) (p : Posted) : Bool :=
  let ref (n : Notice) : Option FRef := ((s.core n.core).cmds.find n.cmd).map Cmd.ref
  s.notices.any (fun e => decide (e.1 < id) && e.2.core = p.core && e.2.queue = p.queue && e.2.n.core = p.n.core && ref e.2.n == ref p.n)

/-- The event NOTICE_ARRIVAL (R354): the checks at the receiver, then the notice is pending, fails, or is returned by a
full queue. -/
def execNoticeArrival (s : State) : Host.Outcome State Fault Refusal :=
  let id := s.arg.id
  match s.notices.find id with
  | none => .next s
  | some p =>
    if p.returned.isSome || s.noticeBehind id p then .next s
    else
      let q := (s.core p.core).kicks.get p.queue {}
      let drop := { s with notices := s.notices.erase id }
      match q.owner with
      | none => .next (drop.endNotice p.n 0 5)
      | some blk =>
        let b := s.block blk
        if q.gen ≠ p.gen || b.vi ≠ p.hvi || (p.n.ns && !b.ns) then .next (drop.endNotice p.n 0 5)
        else if 64 ≤ q.pend.length then .next { s with notices := s.notices.set id { p with returned := some s.now } }
        else .next (drop.modCore p.core (fun c => { c with kicks := c.kicks.set p.queue { q with pend := q.pend ++ [p.n] } }))

/-- The event NOTICE_RESEND (R354): at least 1 μs after a full queue returned the notice. -/
def execNoticeResend (s : State) : Host.Outcome State Fault Refusal :=
  match s.notices.find s.arg.id with
  | some p => match p.returned with
    | some at' => if at' + us 1 ≤ s.now then .next { s with notices := s.notices.set s.arg.id { p with returned := none } } else .next s
    | none => .next s
  | none => .next s

/-- The 32 bytes of a landing header (R353). -/
def kickHeader (n : Notice) (status : Nat) (seq : Word) : List Byte :=
  leBytes 4 n.len ++ leBytes 4 n.uword.toNat ++ leBytes 1 (n.core / 33) ++ leBytes 1 (n.core % 33) ++ leBytes 2 n.tag.toNat ++
    leBytes 4 status ++ leBytes 4 seq.toNat ++ leBytes 12 0

/-- A landing leaves its queue; FREE, NEXT and SEQ move in the opening it belongs to (R355). -/
def State.landed (s : State) (core qi : Nat) (x : Landing) : State :=
  s.modCore core (fun c =>
    let q := c.kicks.get qi {}
    let q : KickQ := if q.gen = x.gen then { q with free := q.free - 1, next := (q.next + 1) % q.nbuf, seq := x.seq } else q
    { c with kicks := c.kicks.set qi { q with landing := none } })

/-- The landing counter counts a landing. -/
def State.countLanding (s : State) (x : Landing) (t : Time) : State :=
  s.modFib x.fib (fun f => f.modCtr x.k (fun c => { c with val := c.val - 1, kt := tmax c.kt t }))

/-- A landing completes: data, then header, then the counters of receiver and sender (R355). -/
def State.endLanding (s : State) (core qi : Nat) (x : Landing) : State :=
  let s := x.runs.foldl (fun s r => s.storeWrite x.core r.addr false r.bytes r.poison) s
  let s := s.storeWrite x.core x.head false (kickHeader x.n x.status x.seq) false
  ((s.countLanding x x.t).endNotice x.n x.t (if x.status = 0 then 0 else 2)).landed core qi x

/-- A landing stops under a purge of the sender's tag (R356): the buffer is unpredictable, the header says so, and the landing counter
counts it. -/
def State.stopLanding (s : State) (core qi : Nat) (x : Landing) : State :=
  let bytes := (List.range x.bufsz).map (fun i => Config.freeByte (s.free + i))
  let s := { s with free := s.free + x.bufsz }.storeWrite x.core x.buf false bytes false
  ((s.storeWrite x.core x.head false (kickHeader x.n 9 x.seq) false).countLanding x 0).landed core qi x

/-- The event NOTICE_LANDING (R355): the receiving core's copy engine reads the oldest pending notice of a queue, its source lines
pinned (R348); the next such event of the queue completes the landing. -/
def execNoticeLanding (s : State) : Host.Outcome State Fault Refusal :=
  let core := s.arg.core
  let qi := s.arg.index
  let q := (s.core core).kicks.get qi {}
  match q.landing, q.owner, q.pend with
  | some x, _, _ => .next (s.endLanding core qi x)
  | none, some blk, n :: rest =>
    if q.free = 0 then .next s
    else
      let b := s.block blk
      let fits := decide (n.len ≤ q.bufsz)
      let sender := (s.core n.core).cmds.find n.cmd
      let from' : Block := { s.block (sender.elim blk (fun m => m.ref.blk)) with core := core }
      match if fits then s.iaPieces from' n.ia n.len (s.lineHome (n.ia / 128)).ns else .ok [] with
      | .error e =>
        let s := s.modCore core (fun c => { c with kicks := c.kicks.set qi { q with pend := rest } })
        (match sender with
         | some m => .next (s.cmdRng n.core n.cmd m e)
         | none => .next s)
      | .ok ps => match s.clearing core n.tn ps false with
        | some s => .next s
        | none =>
          let (s, bs, t) := s.readPieces core n.tn ps
          let buf := b.sbase + q.rbase + q.next * q.bufsz
          let x : Landing := {
            n := n, gen := q.gen, core := core, buf := buf, bufsz := q.bufsz, head := b.sbase + q.rbase + q.nbuf * q.bufsz + 32 * q.next
            runs := if fits then layRuns [{ kind := 1, core := core, place := buf, n := n.len }] bs else []
            t := if fits then t else 0, status := if fits then 0 else 2, seq := q.seq + 1, fib := q.fib, k := q.k, lines := pieceLines ps }
          .next ((s.pinLines (core / 33) x.lines).modCore core (fun c => { c with kicks := c.kicks.set qi { q with pend := rest, landing := some x } }))
  | _, _, _ => .next s

/-! MIGRATE -/

/-- MIGRATE (R357): with a landing slot the block begins to stop as for a forced save, and BLOCK_SAVE and
MIGRATE_ARRIVAL carry it over. -/
def execMigrate (f : Ins) (s : State) := sysOp .migrate f s (fun c =>
  let b := c.blk
  let va := c.va 0
  let q := upredDest f.d
  if b.warps.length ≠ 1 || decide (1 < b.csize) || c.fib.sec.isSome then c.ill
  else match b.translateVa va (fun _ => true) with
    | none => c.vaRefused va none
    | some (_, ia) =>
      if 2 ^ 57 ≤ va then c.vaRefused va none
      else
        let h := (c.s.home ia).1
        if h = b.socket then c.finish { effs := [.upred q true] }
        else if 16 ≤ (c.s.die h).landed || b.stopping then c.finish { effs := [.upred q false] }
        else
          let s := c.finish { effs := [.upred q true] }
          let s := s.modDie h (fun d => { d with landed := d.landed + 1 })
          s.modBlock c.r.blk (fun x => { x with stopping := true, reason := .migrate, landing := some h }))

/-! WAITA and WAKEA -/

/-- The access of WAITA at step 8 (R359): the piece, or the refusal. -/
def Ctx.waitaPiece (c : Ctx) : Except State Piece :=
  let va := c.va 0
  let n := c.size
  match c.s.enginePieces c.blk 0 va 1 Range.r with
  | .error e => .error (c.vaRefused va e.page)
  | .ok ps =>
    if va % n ≠ 0 then .error (c.raise cALN (accessVal false 0 (va % 2 ^ 57)))
    else if c.fib.watched va n true false && !c.fib.latches cWCH then .error (c.raise cWCH (accessVal false 0 va))
    else .ok { ps.headD default with n := n }

/-- The registration of a WAITA is asked for at the home (R359). -/
def State.waitaRegister (s : State) (r : FRef) (pc : Nat) (w : WaitA) : State :=
  let b := s.block r.blk
  let id := s.nextReq
  let s := s.newReq { core := b.core, ref := r, line := w.line, ns := w.ns, vi := b.vi, tag := b.tag, tval := w.tval, kind := .register }
  s.modFib r (fun f => { f with phases := f.phases.set pc (.waita { w with stage := .reg, req := id, wake := .none }) })

/-- The load of a WAITA is asked for (R359): an acquire at its scope, by the predicted row (R345). -/
def State.waitaLoad (s : State) (r : FRef) (pc : Nat) (w : WaitA) : State :=
  let b := s.block r.blk
  let id := s.nextReq
  let s := s.newReq { core := b.core, ref := r, line := w.line, ns := w.ns, vi := b.vi, tag := b.tag, tval := w.tval,
                      kind := .read (s.fib r).ptime .predicted true }
  s.modFib r (fun f => { f with phases := f.phases.set pc (.waita { w with stage := .load, req := id }) })

/-- A fibre's registration on a line is removed, unless another path of it waits there (R358). -/
def State.deregister (s : State) (r : FRef) (line : Nat) : State :=
  let still := (s.fib r).phases.any (fun e => match e.2 with | .waita w => w.line = line && w.registered | _ => false)
  if still then s
  else
    let d := (s.home (line * 128)).1
    s.modDie d (fun x => { x with waits := (x.waits.set line ((x.waits.get line []).filter (fun y => match y with | .fibre q _ => q ≠ r | _ => true))).filter (fun e => !e.2.isEmpty) })

/-- WAITA ends with a value: it leaves the table (R359). -/
def State.waitaDone (s : State) (r : FRef) (pc : Nat) (w : WaitA) (v : Dword) : State :=
  (s.modFib r (fun f => { f with phases := f.phases.set pc (.got v) })).deregister r w.line

/-- What a reply does to the WAITA that waits for it (R359): after the registration the load is asked for; after the load
WAITA ends, waits, or goes round again. -/
def State.waitaReply (s : State) (r : FRef) (pc : Nat) (w : WaitA) (reply : Reply) : State :=
  match w.stage with
  | .reg => s.waitaLoad r pc { w with registered := reply.ok }
  | _ =>
    let b := s.block r.blk
    let key := l1Key w.line w.ns
    if !reply.ok then
      s.endTask b.task b.vi b.tag cRNG w.tval (s.faultRec r cRNG cRNG w.tval (BitVec.ofNat 57 pc) 0).mid
    else match s.verRead b.core key w.off w.n (s.fib r).ptime reply.ver with
      | none => s.waitaLoad r pc w
      | some (v, t, bad) =>
        let s := s.modFib r (fun f => { f with ptime := tmax f.ptime t })
        if bad then
          let s := { s with free := s.free + 2 }
          (s.waitaDone r pc w ((Config.freeWord (s.free - 1)) ++ (Config.freeWord (s.free - 2)))).consumePoison r (w.line * 128 + w.off)
        else if BitVec.ofNat 64 v ≠ w.e || !w.registered || w.last then s.waitaDone r pc w (BitVec.ofNat 64 v)
        else s.modFib r (fun f => { f with phases := f.phases.set pc (.waita { w with stage := .wait }) })

/-- A WAITA that waits and has been woken goes on (R359). -/
def State.settleWaita (s : State) (r : FRef) : State :=
  (s.fib r).phases.foldl (fun s e => match e.2 with
    | .waita w =>
      if w.stage = .wait then
        (match w.wake with
         | .wakea => s.waitaLoad r e.1 { w with last := true, wake := .none }
         | .write => s.waitaRegister r e.1 w
         | .none => s)
      else s
    | _ => s) s

/-- WAITA (R359); a watchpoint that matches in trap mode is latched, and the access goes on (R162, R202). On a PRIVATE page a line that the
owner's cache lacks is filled once its home can serve it. -/
def execWaita (f : Ins) (s : State) := sysOp .waita f s (fun c =>
  let pc := c.pc.toNat
  match c.fib.phases.find pc with
  | some (.got v) =>
    (c.finish { effs := destEffs c.d f.x.ty.words 0 v.toNat }).modFib c.r (fun x => { x with phases := x.phases.erase pc })
  | some (.waita _) => c.stall c.s
  | _ => match c.waitaPiece with
    | .error s => s
    | .ok p =>
      if c.s.memHeld c.r true || c.s.lineBusy c.r [p.place / 128] true then c.stall c.s
      else
        let w : WaitA := { line := p.place / 128, off := p.place % 128, n := p.n, e := BitVec.ofNat 64 (c.vb 0), ns := p.ns,
                           scope := f.x.scope, tval := accessVal false 0 (c.va 0) }
        let s := if c.fib.watched (c.va 0) c.size true false then c.s.raise c.r cWCH (accessVal false 0 (c.va 0)) c.pc c.path false 0 else c.s
        if p.attr == .priv then match s.clearing c.blk.core c.fib.ptime [p] false with
         | some s => c.stall s
         | none =>
          let (s, bs, _) := s.readPiece c.blk.core c.fib.ptime p
          let effs := destEffs c.d f.x.ty.words 0 (leNat (justBytes bs))
          if anyPoison bs then
            let s := { s with free := s.free + effs.length }
            ((c.retire s).applyEffs c.r (garble (s.free - effs.length) effs)).consumePoison c.r p.place
          else (c.retire s).applyEffs c.r effs
        else c.stall (s.waitaRegister c.r pc w))

/-- WAKEA (R360): the release, then the wake at the home, after earlier requests of the die on the line (R363), with a permit that it
takes and returns in this step (R349). -/
def execWakea (f : Ins) (s : State) := sysOp .wakea f s (fun c =>
  let va := c.va 0
  match c.s.enginePieces c.blk 0 va 1 Range.w with
  | .error e => c.vaRefused va e.page
  | .ok ps =>
    let p := ps.headD default
    c.release f.x.scope (fun s =>
      if p.attr == .priv then c.retire s
      else if !s.permitFree c.blk.core (p.place / 128) || s.lineBefore s.nextReq c.blk.socket (p.place / 128) then c.stall s
      else ((c.retire s).countSeqs c.blk.core [p.place / 128]).wakeLine (p.place / 128) .wakea))

/-- PTADV (R361); a time it makes may ask for a step of the horizon (R380). -/
def execPtadv (f : Ins) (s : State) := sysOp .ptadv f s (fun c =>
  let s := (c.retire c.s).modFib c.r (fun x => { x with ptime := x.ptime + BitVec.ofNat 64 (min (c.vb 0) Config.ptadvMax) })
  s.noteTime (s.fib c.r).ptime)

end Sys2Proof.Machine
end

