-- ==== Sys2Proof/Machine/Fetch.lean ====
section
/-!
DEFINITION. The fetch of an instruction word and the side-path buffer (R42, R43, R61 steps 1 and 2, R141, R149), and
the events on a fibre: FETCH_RETURN, INSTRUCTION_COMPLETION, RUNAHEAD_ENTRY, QUANTUM_EXPIRY, FREEZE_LIMIT_EXPIRY and NPX
(R39, R58, R159, R174, R211, R317), and the step of an unassigned opcode (R60).
-/

namespace Sys2Proof.Machine

/-- What a fetch brings. -/
inductive Fetched where
  | word (w : BitVec 96)
  /-- The address that lies in no range or lacks X, with the page and the cause of its record. -/
  | rng (va : Nat) (page : Option (Nat × Option Nat))
  | poisoned (va ia : Nat)
  /-- The home of a byte waits for the host. -/
  | wait (s : State)

/-- The internal address of one byte of code, or why it cannot be fetched (R42, R127). -/
def State.codeByte (s : State) (b : Block) (va : Nat) : Except (Option (Nat × Option Nat)) Nat :=
  if 2 ^ 57 ≤ va then .error none
  else match b.translateVa va Range.x with
    | none => .error none
    | some (_, ia) => match s.pageOf b ia with
      | .error cause => .error (some (ia, cause))
      | .ok _ => .ok ia

/-- Fetches the word at an address for a block (R42). -/
def State.fetch (s : State) (b : Block) (pc : VA) : Fetched :=
  let xs := (List.range 12).map (fun i => (pc.toNat + i, s.codeByte b (pc.toNat + i)))
  match xs.findSome? (fun x => match x.2 with | .error p => some (x.1, p) | .ok _ => none) with
  | some (va, p) => .rng va p
  | none =>
    let ias := xs.filterMap (fun x => match x.2 with | .ok ia => some (x.1, ia) | .error _ => none)
    let far := ias.filter (fun e => !s.homeReady (e.2 / 128) false)
    if !far.isEmpty then .wait (far.foldl (fun s e => s.homeAsk (e.2 / 128) false) s)
    else match ias.find? (fun e => s.iaPoison e.2) with
      | some (va, ia) => .poisoned va ia
      | none => .word (BitVec.ofNat 96 (leNat (ias.map (fun e => s.iaByte e.2))))

/-- The word a path has in hand: the one FETCH_RETURN brought it, or for a path that does not lead an entry of the
side-path buffer (R149). -/
def State.inHand (s : State) (r : FRef) (pc : VA) : Option (BitVec 96) :=
  let f := s.fib r
  match f.fetched.filter (fun e => e.1 == pc) with
  | some e => some e.2
  | none => if f.path pc &&& f.lead = 0 then ((s.warp r.blk r.warp).side.find? (fun e => e.1 = pc)).map Prod.snd else none

/-- A fetched word enters the side-path buffer of 48 entries (R149). -/
def State.buffer (s : State) (r : FRef) (pc : VA) (w : BitVec 96) : State :=
  s.modWarp r.blk r.warp (fun x => { x with side := ((pc, w) :: x.side).take 48 })

/-- A fault of a fetch (R61, R141): RNG or POI; in runahead the episode ends and no fault record is written (R64, R217). -/
def State.fetchFault (s : State) (r : FRef) (pc : VA) (x : Fetched) : State :=
  let path := (s.fib r).issuePath pc
  let lane := (lanesOf path).headD 0
  let ra := (s.fib r).ra.isSome
  match x with
  | .rng va page => if ra then s.modFib r Fibre.endRunahead else
    let s := match page with | some (ia, cause) => s.pageFault (s.block r.blk) ia va cause | none => s
    s.raise r cRNG (accessVal false lane va) pc path false 0
  | .poisoned va ia => s.raise r cPOI (accessVal false lane va) pc path false ia
  | .wait s => s
  | .word _ => s

/-- Does the path at `pc` lead, so that the broadcast fetch serves it (R148)? In runahead the one path that runs does. -/
def State.leads (s : State) (r : FRef) (pc : VA) : Bool :=
  (s.fib r).ra.isSome || (s.fib r).path pc &&& (s.fib r).lead != 0

/-- Has the path a word to issue: it leads, or its next PC is in the side-path buffer (R149)? -/
def State.offered (s : State) (r : FRef) (pc : VA) : Bool := s.leads r pc || (s.inHand r pc).isSome

/-- When the path last had an issue opportunity: its place among those served, 0 if it had none (R149). -/
def Fibre.servedAt (f : Fibre) (pc : VA) : Nat :=
  f.served.zipIdx.foldl (fun m e => if e.1 &&& f.path pc = 0 then m else e.2 + 1) 0

/-- The first of the paths that was served longest ago. -/
def Fibre.oldest (f : Fibre) (pcs : List VA) : Option VA :=
  pcs.foldl (fun best pc => match best with
    | none => some pc
    | some b => if f.servedAt pc < f.servedAt b then some pc else some b) none

/-- The addresses of the paths that may issue now. -/
def State.runnable (s : State) (r : FRef) : List VA := (s.fib r).pcs.filter (s.mayIssue r)

/-- Fetch is time-sliced (R149): where a path that may issue waits for it, the lead passes to the one that has waited longest once the
leading path has had 32 opportunities or may not issue. -/
def State.passLead (s : State) (r : FRef) : State :=
  let f := s.fib r
  let gone := !(s.runnable r).any (s.leads r)
  match f.oldest ((s.runnable r).filter (fun pc => !s.offered r pc)) with
  | some pc => if gone || decide (32 ≤ f.opps) then s.modFib r (fun f => { f with lead := f.path pc, opps := 0 }) else s
  | none => s

/-- Is it the path's turn (R149)? Paths that may issue and have a word to issue take turns in round-robin order. -/
def State.turnOf (s : State) (r : FRef) (pc : VA) : Bool :=
  (s.fib r).ra.isSome || (s.fib r).oldest ((s.runnable r).filter (s.offered r)) == some pc

/-- The path takes an issue opportunity of the fibre (R149). -/
def State.serve (s : State) (r : FRef) (pc : VA) : State :=
  s.modFib r (fun f => if f.ra.isSome then f else { f with
    opps := f.opps + 1
    served := ((f.served.map (fun p => p &&& ~~~(f.path pc))).filter (fun p => p != 0)) ++ [f.path pc] })

/-- The event FETCH_RETURN (R42, R149): the word at `arg.pc` reaches the path there, if it leads, and the buffer. -/
def execFetchReturn (s : State) : Host.Outcome State Fault Refusal :=
  let r := s.arg.ref
  let pc := s.arg.pc
  if !s.mayIssue r pc || !s.leads r pc then .next s
  else match s.fetch (s.block r.blk) pc with
    | .word w => .next ((s.buffer r pc w).modFib r (fun f => { f with fetched := some (pc, w) }))
    | x => .next (s.fetchFault r pc x)

/-- The lowest bit of the first illegal field of a word: OPC itself where its form is withheld from the block (R63, R468, log 25). -/
def State.wordBit (s : State) (r : FRef) (w : BitVec 96) (bit : Nat) : Nat :=
  match (Op.ofCode (w.toNat % 2 ^ 10)).bind featureBit with
  | some k => if s.feature (s.block r.blk).service k then bit else 0
  | none => bit

/-- ILL for a word that no form accepts, with the TVAL of R63. -/
def State.fetchIll (s : State) (r : FRef) (pc : VA) (w : BitVec 96) (bit : Nat) : State :=
  let bit := s.wordBit r w bit
  s.raise r cILL (BitVec.ofNat 64 (w.toNat % 2 ^ 10 + bit * 2 ^ 16)) pc ((s.fib r).issuePath pc) false 0

/-- The step of an unassigned opcode (R60): ILL in every class, context and guard. -/
def execUnassignedOpcode (w : BitVec 96) (s : State) : Host.Outcome State Fault Refusal :=
  if s.mayIssue s.cur.ref s.cur.pc then .next (s.fetchIll s.cur.ref s.cur.pc w 0) else .next s

/-- A fault raised on a fibre outside an issue, as NPX is (R163, R317): an episode ends first and the fault stays (R222), and
a stall or a wait of the fibre is abandoned. Of several paths it strikes the one of the lowest runnable lane, and where every
lane is parked no lane, with 0 for the PC (DESIGN CHOICE, unsafe, log 68). -/
def State.raiseAt (s : State) (r : FRef) (cls : Nat) (val : Dword) : State :=
  let s := s.modFib r Fibre.endRunahead
  let f := s.fib r
  let pc := f.pcs.headD 0
  (s.raise r cls val pc (f.path pc) false 0).modFib r (fun f => { f with
    stall := none, st := if f.st = .barrierWait || f.st = .waiting then .ready else f.st })

/-- The event INSTRUCTION_COMPLETION (R40, R58): results left outstanding are written and flags merge into FPCS. The
instruction issued with no flag enabled, so it raises no FPX, whatever a later WSR enabled (R40). -/
def execInstructionCompletion (s : State) : Host.Outcome State Fault Refusal :=
  let r := s.arg.ref
  match (s.warp r.blk r.warp).pend.find s.arg.id with
  | some p => match p.body with
    | .result effs =>
      let r : FRef := { r with fib := p.fib }
      .next ((s.modWarp r.blk r.warp (fun w => { w with pend := w.pend.erase s.arg.id })).landEffs r effs)
    | _ => .next s
  | none => .next s

/-- The instruction of a word at an address. -/
def wordAt (pc : VA) (w : BitVec 96) : Option Stall :=
  match decodeWord w.toNat with
  | .ok i => i.form?.map (fun x => ⟨pc, x.1, x.2⟩)
  | .error _ => none

/-- The word last fetched for the path at `pc`: in its hand, or in the side-path buffer (R149). -/
def State.lastWord (s : State) (r : FRef) (pc : VA) : Option (BitVec 96) :=
  match (s.fib r).fetched.filter (fun e => e.1 == pc) with
  | some e => some e.2
  | none => ((s.warp r.blk r.warp).side.find? (fun e => e.1 = pc)).map Prod.snd

/-- The instruction at which the path at `pc` stands: the one it is recorded as stalled at, or that of the word last fetched for it. -/
def State.standsAt (s : State) (r : FRef) (pc : VA) : Option Stall :=
  match (s.fib r).stall.filter (fun x => x.pc == pc) with
  | some x => some x
  | none => (s.lastWord r pc).bind (wordAt pc)

/-- Scoreboard entries that hold an instruction back, by number (R58). -/
def State.heldBy (s : State) (r : FRef) (x : Stall) : List Nat :=
  let w := s.warp r.blk r.warp
  let path := (s.fib r).path x.pc
  let act := s.activeSet r x.op x.f path
  match ctxLocs s r x.op x.f with
  | .error _ => []
  | .ok (d, a, b, c) =>
    let k : Ctx := { s := s, o := x.op, f := x.f, r := r, pc := x.pc, late := false, path := path, act := act, d := d, a := a, b := b, c := c }
    let all := if clsUniform x.op.cls then BitVec.allOnes 64 else act
    (w.pend.filter (fun e => e.2.meets r.fib k.regsV k.regsU (predUse x.op x.f) all ||
      e.2.meets r.fib [] [] (guardUse x.op x.f) path)).map Prod.fst

/-- Is the path at `pc` stalled on one scoreboard entry alone, and the stall no switch (R211)? -/
def State.stalledOn (s : State) (r : FRef) (id : Nat) (pc : VA) : Bool :=
  match s.standsAt r pc with
  | some x => s.heldBy r x == [id] && decide (entriesNeeded x.op x.f ≤ (s.warp r.blk r.warp).freeEntries) &&
      !(yields x.op x.f && s.otherReady r)
  | none => false

/-- May an outstanding instruction trigger an episode of the fibre: an LDG outstanding for the threshold, on which no episode
has ended (R211)? -/
def Pend.triggers (p : Pend) (f : Fibre) (fi id now : Nat) : Bool :=
  p.fib == fi && decide (p.since + f.raThr ≤ now) && !f.raDone.contains id &&
    (match p.body with | .load l => l.op == .ldg | _ => false)

/-- The trigger: the oldest LDG that qualifies and on which a path is stalled (R211). -/
def State.trigger (s : State) (r : FRef) : Option Nat :=
  let f := s.fib r
  ((s.warp r.blk r.warp).pend.find? (fun e => e.2.triggers f r.fib e.1 s.now && f.pcs.any (s.stalledOn r e.1))).map Prod.fst

/-- Other fibres of the slot that are Ready. -/
def State.readyOthers (s : State) (r : FRef) : List Nat :=
  ((s.warp r.blk r.warp).fibs.zipIdx.filter (fun e => e.2 ≠ r.fib && e.1.st == .ready)).map Prod.snd

/-- Lanes added to those of a predicate. -/
def addLanes (m : Map LaneSet) (e : Nat × LaneSet) : Map LaneSet := m.set e.1 (m.get e.1 0 ||| e.2)

/-- The episode that begins (R213, R214): every register and predicate with an outstanding entry is invalid in its lanes, and
the other paths hold. -/
def State.episode (s : State) (r : FRef) (id : Nat) (pc : VA) : Episode :=
  let f := s.fib r
  let all := (s.warp r.blk r.warp).pend.map Prod.snd
  let mine := all.filter (fun p => p.fib = r.fib)
  { trigger := id, lanes0 := f.lanes, s0 := f.s, q0 := f.q, x0 := f.x, entries := [], shadow := []
    inval := all.flatMap (fun p => p.dv.flatMap (fun d => (lanesOf d.2).map (fun l => 64 * d.1 + l)))
    pinval := (mine.flatMap Pend.dp).foldl addLanes []
    sinval := mine.flatMap Pend.du
    qinval := (mine.flatMap Pend.dq).foldl (fun q n => setBit q n true) 0
    xinval := false, dormant := ~~~(f.path pc), ready := s.readyOthers r }

/-- The event RUNAHEAD_ENTRY (R211 to R214, R468): every path is stalled, the one at `arg.pc` on the trigger alone. -/
def execRunaheadEntry (s : State) : Host.Outcome State Fault Refusal :=
  let r := s.arg.ref
  let pc := s.arg.pc
  let f := s.fib r
  match s.trigger r with
  | some id =>
    if f.st != .active || f.trap || !f.raOn || f.raC = 0 || f.ra.isSome || s.held r || !s.feature (s.block r.blk).service 3 ||
        (decide (256 ≤ f.quantum) && s.otherReady r) || !f.pcs.all f.stuck.contains || !s.stalledOn r id pc then .next s
    else .next (s.modFib r (fun f => { f with ra := some (s.episode r id pc), stall := none }))
  | none => .next s

/-- The event QUANTUM_EXPIRY (R159). -/
def execQuantumExpiry (s : State) : Host.Outcome State Fault Refusal :=
  let r := s.arg.ref
  let f := s.fib r
  if f.st == .active && decide (256 ≤ f.quantum) && s.otherReady r then .next (s.modFib r (fun f => { f with st := .ready, quantum := 0 }))
  else .next s

/-- Core cycles in a count of milliseconds. -/
def ms (n : Nat) : Nat := us (1000 * n)

/-- The event FREEZE_LIMIT_EXPIRY (R174): a fibre frozen past the limit of its VI ends its block, CODE 0xC. -/
def execFreezeLimitExpiry (s : State) : Host.Outcome State Fault Refusal :=
  let r := s.arg.ref
  let f := s.fib r
  let b := s.block r.blk
  let limit := ms (max 1 (s.vi b.vi).freezelim.toNat)
  if f.st == .frozen && b.st == .resident && !b.ending && decide (limit < f.frozenTime s.now) then
    .next (s.endFrozen r.blk 12 f.frec)
  else .next s

/-- The event NPX (R317): a section open for 65,536 core cycles closes, and the fibre raises NPX. -/
def execNpx (s : State) : Host.Outcome State Fault Refusal :=
  let r := s.arg.ref
  let f := s.fib r
  match f.sec with
  | some (at', opened) =>
    if opened + 65536 ≤ s.now then
      .next ((s.modFib r (fun f => { f with sec := none })).raiseAt r cNPX (at'.setWidth 64))
    else .next s
  | none => .next s

end Sys2Proof.Machine
end

