-- ==== Sys2Proof/Machine/Pipeline.lean ====
section
/-!
DEFINITION. The events of the memory path: requests at the requester-side and home slices, replies, timers, evictions,
fills, walks, the beacon, sweeps, the horizon, refresh, scrub and errors (R230, R234, R240, R322, R342 to R351, R358, R370,
R371, R378 to R386).
-/

namespace Sys2Proof.Machine

/-! Requests at the slices -/

/-- The die of a request's core. -/
def Req.die (q : Req) : Nat := q.core / 33

/-- The socket of a line's home. -/
def State.homeSocket (s : State) (line : Nat) : Nat := (s.home (line * 128)).1

/-- A request changed. -/
def State.setReq (s : State) (id : Nat) (q : Req) : State := { s with reqs := s.reqs.set id q }

/-- Must a request wait at the home: it is lost on its way, or an earlier one of its die on the same line comes first (R344, R350,
R363)? -/
def State.behind (s : State) (id : Nat) (q : Req) : Bool := q.lost || s.lineBefore id q.die q.line

/-- A request is performed, or refused: its reply leaves, after those before it. -/
def State.reply (s : State) (id : Nat) (q : Req) (x : Reply) : State :=
  { (s.setReq id { q with reply := some { x with at' := s.nextReply } }) with nextReply := s.nextReply + 1 }

/-- Must a reply wait for an earlier one: of the same core and line, or from the same socket to the same die (R241, R363)? -/
def State.replyBehind (s : State) (id : Nat) (q : Req) (x : Reply) : Bool :=
  s.reqs.any (fun e => e.1 != id && !e.2.lost && (match e.2.reply with
    | some y => decide (y.at' < x.at') && ((e.2.core = q.core && e.2.line = q.line) ||
        (!x.side && !y.side && e.2.die = q.die && s.homeSocket q.line ≠ q.die && s.homeSocket e.2.line = s.homeSocket q.line))
    | none => false))

/-- The event REQUESTER_SIDE_READ (R346): a read that a copy of the die can answer is answered, any other goes on. -/
def execRequesterSideRead (s : State) : Host.Outcome State Fault Refusal :=
  let id := s.arg.id
  match s.reqs.find id with
  | some q => match q.kind with
    | .read t _ ordered =>
      if q.reply.isSome || q.fwd || q.lost || !s.permitted id q || !s.farLine q.die q.line then .next s
      else match (s.die q.die).copies.find q.line with
        | some c => if !ordered && within c.ver.wt t c.ver.rt
            then .next ((s.setCopy q.die q.line c.ver).reply id q { ver := c.ver, attr := .leased, side := true })
            else .next (s.setReq id { q with fwd := true })
        | none => .next (s.setReq id { q with fwd := true })
    | _ => .next s
  | none => .next s

/-- What a home refuses a request for (R246, R371): its page, or the owner. The cause of the fault record. -/
def State.homeRefuses (s : State) (q : Req) : Option (Option Nat) :=
  match s.lineHome q.line with
  | .refused _ => some (if isIdentity (q.line * 128) then none else some 5)
  | .slice a ns => if (s.block q.ref.blk).ns && !ns then some (some 5)
      else if a = .priv && s.owners.get (q.line / 512) 0 ≠ q.core then some none else none
  | .bridge _ ns => if (s.block q.ref.blk).ns && !ns then some (some 5) else none

/-- A refused request: its fault record and a reply that says so. Marked requests are dropped without a record (R218). -/
def State.refuseReq (s : State) (id : Nat) (q : Req) (cause : Option Nat) : State :=
  let b := s.block q.ref.blk
  let s := match cause with
    | some k => if q.marked then s
        else s.faultRecord q.vi (q.line * 128 / 65536 * 65536) (q.tval.toNat % 2 ^ 57) k false q.tag b.task
    | none => s
  s.reply id q { ok := false }

/-- The attribute of a line where it has its home. -/
def LineHome.attr (h : LineHome) : Attr := match h with | .slice a _ => a | .bridge a _ => a | .refused _ => .leased

/-- The event HOME_GRANT (R230, R344 to R347). -/
def execHomeGrant (s : State) : Host.Outcome State Fault Refusal :=
  let id := s.arg.id
  match s.reqs.find id with
  | some q => match q.kind with
    | .read t lease ordered =>
      let far := s.farLine q.die q.line
      if q.reply.isSome || !s.permitted id q || s.behind id q || (far && !q.fwd && !ordered) then .next s
      else match s.homeRefuses q with
        | some cause => .next (s.refuseReq id q cause)
        | none =>
          if !s.homeReady q.line false then .next (s.homeAsk q.line false)
          else match s.heldRead q.line t lease with
            | some s => .next s
            | none =>
              let attr := (s.lineHome q.line).attr
              let keep := far && (!ordered || ((s.die q.die).copies.find q.line).isSome)
              let (s, v) := s.grant q.line t lease (if keep then some q.die else none)
              let s := if keep then s.setCopy q.die q.line v else s
              .next (s.reply id q { ver := v, attr := attr })
    | _ => .next s
  | none => .next s

/-! Write-backs, which no home refuses -/

/-- A write-back that finds neither a home copy nor leave for a fill: it goes to memory by the leaf entry, in transit or not, at a
time past the chiplet's, which the chiplet reports first where it must (R246, R371, R379); a sector it covers with clean bytes loses its
poison (R386). Where there is no entry it goes nowhere (log 15). -/
def State.writePast (s : State) (line : Nat) (bytes : List (Nat × Byte)) (stamp : Time) (poison : Bool) : State × Ver :=
  match s.leafSpan (128 * line) with
  | none => (s, { wt := stamp, rt := stamp })
  | some l =>
    let pa := 65536 * l.frame + (128 * line - 65536 * l.page)
    let c := s.chipletOf pa
    let w := tmax stamp ((s.chiplet c).mtime + 1)
    let mem := bytes.foldl (fun (m : Memory) e => m.write (pa + e.1) e.2) s.mem
    let pois := if poison then bytes.foldl (fun p e => setAdd p ((pa + e.1) / 32)) s.memPoison
      else ((List.range 4).filter (coversSector bytes)).foldl (fun p k => setDel p (pa / 32 + k)) s.memPoison
    let s := if tle w ((s.chiplet c).seen + 0x80000) then s else { s with bmax := tmax s.bmax w }.broadcast
    let left : BitVec 4 := (List.range 4).foldl (fun p k => setBit p k (pois.contains (pa / 32 + k))) 0
    ({ s with mem := mem, memPoison := pois }.modChiplet c (fun x => { x with mtime := tmax x.mtime w }),
     { data := lineOf (mem.bytes pa 128), wt := w, rt := w, poison := left })
/-- Can a write-back of a line be performed now? -/
def State.wbReady (s : State) (line : Nat) : Bool := (match s.lineHome line with | .refused _ => true | _ => false) || s.homeHolds line true
/-- A write-back performed. -/
def State.wbWrite (s : State) (line : Nat) (bytes : List (Nat × Byte)) (stamp : Time) (poison : Bool) (who : Nat × BitVec 16) : State × Ver :=
  match s.lineHome line with
  | .refused _ => s.writePast line bytes stamp poison
  | _ => s.homeWrite line bytes stamp poison who

/-- The event HOME_WRITE (R230, R246): write-backs are never refused; one that finds its page in transit goes to memory. -/
def execHomeWrite (s : State) : Host.Outcome State Fault Refusal :=
  let id := s.arg.id
  match s.reqs.find id with
  | some q => match q.kind with
    | .write bytes stamp wb poison =>
      if q.reply.isSome || !s.permitted id q || s.behind id q || (wb.isNone && s.flipping (128 * q.line)) then .next s
      else
        match if wb.isSome then none else s.homeRefuses q with
        | some cause => .next (s.refuseReq id q cause)
        | none =>
          if !s.wbReady q.line then .next (s.homeAsk q.line true)
          else match s.heldAt q.line stamp with
            | some s => .next s
            | none =>
              let attr := (s.lineHome q.line).attr
              let (s, v) := s.wbWrite q.line bytes stamp poison (q.vi, q.tag)
              .next (s.reply id q { ver := v, attr := attr, t := v.wt })
    | _ => .next s
  | none => .next s

/-- A sector of a version marked poisoned. -/
def Ver.poisonAt (v : Ver) (k : Nat) : Ver := { v with poison := setBit v.poison k true }

/-- The event HOME_ATOMIC (R240): dirty bytes of the sector in the issuing core are written back first. Operands that arrive with an
uncorrectable error leave the sector poisoned (R363, R385). -/
def execHomeAtomic (s : State) : Host.Outcome State Fault Refusal :=
  let id := s.arg.id
  match s.reqs.find id with
  | some q => match q.kind with
    | .atomic off aop ty lanes t _ =>
      if q.reply.isSome || !s.permitted id q || s.behind id q then .next s
      else match s.homeRefuses q with
        | some cause => .next (s.refuseReq id q cause)
        | none =>
          let key := l1Key q.line q.ns
          let k := off / 32
          let mine : BitVec 32 := match s.l1 q.core key with | some l => (l.sec k).mine | none => 0
          if mine ≠ 0 then .next (s.startWb q.core key k)
          else if !s.homeReady q.line true then .next (s.homeAsk q.line true)
          else match s.heldAt q.line t with
            | some s => .next s
            | none =>
              let attr := (s.lineHome q.line).attr
              let (s, v, olds, bad) := s.homeAtomic q.line off aop ty lanes t (q.vi, q.tag)
              let (s, v) := if q.bad && !bad then (s.poisonHome q.line [off / 32], v.poisonAt (off / 32)) else (s, v)
              .next (s.reply id q { ver := v, attr := attr, t := v.wt, olds := olds, poisoned := bad })
    | _ => .next s
  | none => .next s

/-- The event WAIT_REGISTRATION (R358): an entry for each line, at most 4,096 in a die. -/
def execWaitRegistration (s : State) : Host.Outcome State Fault Refusal :=
  let id := s.arg.id
  match s.reqs.find id with
  | some q => match q.kind with
    | .register =>
      if q.reply.isSome || !s.permitted id q || s.behind id q then .next s
      else
        let d := (s.home (q.line * 128)).1
        let t := (s.die d).waits
        let l := t.get q.line []
        let room := !l.isEmpty || decide ((t.filter (fun e => !e.2.isEmpty)).length < 4096)
        let s := if room && !l.contains (.fibre q.ref q.core)
          then s.modDie d (fun x => { x with waits := x.waits.set q.line (.fibre q.ref q.core :: l) }) else s
        .next (s.reply id q { ok := room })
    | _ => .next s
  | none => .next s

/-! Replies -/

/-- A reply to a line request enters the level-one cache (R232, R235, R245, R345): MANUAL lines, grants of length 1 by hint
and versions older than the line's own stay outside; a PRIVATE line, which has no lease, is installed whatever the hint, and kept
whole. -/
def State.installReply (s : State) (q : Req) (lease : Lease) (x : Reply) : State :=
  let key := l1Key q.line q.ns
  if x.attr == .manual || (lease == .noAlloc && x.attr != .priv) || s.older q.core key x.ver then s
  else
    let l := (s.l1 q.core key).getD {}
    if x.attr == .priv && l.secs.any (fun e => e.2.valid) then
      let kept := ((List.range 128).filter (fun i => (l.sec (i / 32)).valid)).map (fun i => (i, lineByte l.data i))
      let v : Ver := { x.ver with data := lineMerge x.ver.data kept }
      s.setL1 q.core key (l.install v .priv)
    else s.setL1 q.core key (l.install x.ver x.attr)

/-- The WAITA that waits for a request. -/
def Fibre.waitaFor (f : Fibre) (id : Nat) : Option (Nat × WaitA) :=
  f.phases.findSome? (fun e => match e.2 with | .waita w => if w.req = id && w.stage != .wait then some (e.1, w) else none | _ => none)

/-- The task of a refused access ends with RNG, and the TVAL of the refusal (R141, R246, R371). -/
def State.refusedAccess (s : State) (q : Req) : State :=
  let b := s.block q.ref.blk
  s.endTask b.task b.vi b.tag cRNG q.tval (s.faultRec q.ref cRNG cRNG q.tval 0 0).mid

/-- A change of the outstanding load a request serves. -/
def State.modLoad (s : State) (r : FRef) (id : Nat) (g : LoadOp → LoadOp) : State :=
  s.modWarp r.blk r.warp (fun w => { w with pend := w.pend.mapVal (fun k p =>
    if k = id then (match p.body with | .load l => { p with body := .load (g l) } | _ => p) else p) })

/-- An outstanding access learns of a refusal: of several, the lowest lane's TVAL stands (R141). -/
def LoadOp.refuse (l : LoadOp) (v : Dword) : LoadOp :=
  { l with refused := match l.refused with
      | some w => some (if w.extractLsb' 57 6 ≤ v.extractLsb' 57 6 then w else v)
      | none => some v }

/-- A request is answered: its permit returns, and what it served takes the reply (R235, R236, R240, R250, R349, R359). -/
def State.takeReply (s : State) (id : Nat) (q : Req) (x : Reply) : State :=
  let s := s.endReq id
  let key := l1Key q.line q.ns
  let serve (s : State) (g : LoadOp → LoadOp) : State := match q.pend with
    | some p => s.modLoad q.ref p (fun l => g { l with reqs := setDel l.reqs id })
    | none => s
  match q.kind with
  | .read _ lease _ =>
    let s := if x.ok then s.installReply q lease x else s
    if q.marked then s
    else match (s.fib q.ref).waitaFor id with
      | some (pc, w) => s.waitaReply q.ref pc w x
      | none => serve s (fun l => if x.ok then { l with got := l.got.set key x.ver } else l.refuse q.tval)
  | .register => match (s.fib q.ref).waitaFor id with
    | some (pc, w) => s.waitaReply q.ref pc w x
    | none => s
  | .write _ _ wb _ =>
    if !x.ok then s.refusedAccess q
    else
      let s := s.wroteBack q.core key wb x.ver
      if q.raise then s.modFib q.ref (fun f => { f with ptime := tmax f.ptime x.t }) else s
  | .atomic .. =>
    if !x.ok then (match q.pend with | some _ => serve s (fun l => l.refuse q.tval) | none => s.refusedAccess q)
    else
      let s := if x.poisoned then s else s.wroteBack q.core key none x.ver
      let s := if q.raise then s.modFib q.ref (fun f => { f with ptime := tmax f.ptime x.t }) else s
      serve s (fun l => { l with olds := x.olds.foldl (fun m e => m.set e.1 e.2) l.olds, t := tmax l.t x.t, poisoned := l.poisoned || x.poisoned })

/-- The event REQUEST_REPLY (R350): the first reply to a request reaches its requester, in the order of R363; there is none to one that
is no longer outstanding. -/
def execRequestReply (s : State) : Host.Outcome State Fault Refusal :=
  match s.reqs.find s.arg.id with
  | some q => match q.reply with
    | some x => if q.lost || s.replyBehind s.arg.id q x then .next s else .next (s.takeReply s.arg.id q x)
    | none => .next s
  | none => .next s

/-- The slice of a line is reported unreachable to Carafe, on its service cores (R350). -/
def State.reportSlice (s : State) (line : Nat) : State :=
  { s with unreachable := s.home (line * 128) :: s.unreachable
           cores := s.cores.mapVal (fun k c => if k % 33 = 32 then { c with latch := true } else c) }

/-- Fail of R350: the slice is reported; destinations become poisoned; a lost write purges its key; a lost registration is none. -/
def State.failReq (s : State) (id : Nat) (q : Req) : State :=
  let s := (s.endReq id).reportSlice q.line
  let serve (s : State) : State := match q.pend with
    | some p => s.modLoad q.ref p (fun l => { l with reqs := setDel l.reqs id, failed := true })
    | none => s
  match q.kind with
  | .read .. => match (s.fib q.ref).waitaFor id with
    | some (pc, w) => s.waitaReply q.ref pc w { ver := { wt := (s.fib q.ref).ptime, rt := (s.fib q.ref).ptime, poison := 15 } }
    | none => serve s
  | .register => match (s.fib q.ref).waitaFor id with
    | some (pc, w) => s.waitaReply q.ref pc w { ok := false }
    | none => s
  | .write _ _ wb _ =>
    let key := l1Key q.line q.ns
    let s := match wb, s.l1 q.core key with
      | some k, some l => s.setL1 q.core key (l.setSec k { l.sec k with wb := 0, wbSlots := 0, wbStamp := 0, valid := false })
      | _, _ => s
    s.startPurge q.vi q.tag 2 0
  | .atomic _ _ _ _ _ ret => if ret then serve s else s.startPurge q.vi q.tag 2 0

/-- The requests of a command of a core toward the slice of a line, of which a message was lost (R350): sent again 50 μs after the last
send, failed after five. What the command reads there then arrives poisoned, and for what it writes the key is purged (DEDUCED, unsafe,
log 36). -/
def State.cmdTimer (s : State) (core id line : Nat) : State :=
  match (s.core core).cmds.find id with
  | none => s
  | some m =>
    let (d, i) := s.home (line * 128)
    let key := 16 * d + i
    let put (m : Cmd) : State := s.modCore core (fun c => { c with cmds := c.cmds.set id m })
    match m.tries.find key with
    | none => put { m with tries := m.tries.set key (1, s.now) }
    | some (n, t) =>
      if s.now < t + us 50 then s
      else if n < 5 then put { m with tries := m.tries.set key (n + 1, s.now) }
      else
        let bad := if m.started then m.badData else (List.range 4).foldl (fun l k => setAdd l (4 * line + k)) m.badData
        let s := (put { m with tries := m.tries.erase key, badData := bad }).reportSlice line
        if m.started then s.startPurge m.vi m.tag 2 0 else s

/-- The event REQUEST_TIMER (R350). Under `arg.flag` a message of the request is lost beyond link replay, the request itself or its
reply. Otherwise, 50 μs after the last send with no reply taken, the request is sent again, answered from what the home recorded if it
was performed, and after five sends it fails. Under `arg.engine` the request is one of the engine command that `arg` names, for a line. -/
def execRequestTimer (s : State) : Host.Outcome State Fault Refusal :=
  let id := s.arg.id
  if s.arg.engine then .next (s.cmdTimer s.arg.core id s.arg.line)
  else match s.reqs.find id with
  | some q =>
    if s.arg.flag then .next (s.setReq id { q with lost := decide (0 < q.sends) })
    else if s.now < q.sentAt + us 50 || q.sends = 0 then .next s
    else if q.sends < 5 then
      let again : Req := { q with sends := q.sends + 1, sentAt := s.now, lost := false
                                  reply := q.reply.map (fun x => { x with at' := s.nextReply }) }
      .next { (s.setReq id again) with nextReply := s.nextReply + 1 }
    else .next (s.failReq id q)
  | none => .next s

/-! Evictions and copies -/

/-- The event REQUESTER_SIDE_DROP (R346). -/
def execRequesterSideDrop (s : State) : Host.Outcome State Fault Refusal :=
  .next (s.modDie s.arg.die (fun x => { x with copies := x.copies.erase s.arg.line }))

/-- The event L1_EVICTION (R234): a dirty sector is written back, a clean one is dropped. -/
def execL1Eviction (s : State) : Host.Outcome State Fault Refusal :=
  let key := l1Key s.arg.line s.arg.flag
  let k := s.arg.sector % 4
  match s.l1 s.arg.core key with
  | some l =>
    let x := l.sec k
    if x.dirty ≠ 0 then .next (s.startWb s.arg.core key k)
    else if x.wb ≠ 0 then .next s
    else .next (s.setL1 s.arg.core key (l.setSec k { x with valid := false, poison := false }))
  | none => .next s

/-- Is a line pinned by a command that has started and not finished, or by a landing (R348)? -/
def State.pinning (s : State) (line : Nat) : Bool :=
  s.cores.any (fun c => c.2.cmds.any (fun m => m.2.started && m.2.pinned.contains line) ||
    c.2.kicks.any (fun q => match q.2.landing with | some x => x.lines.contains line | none => false))

/-- The event FILL_PIN_RELEASE (R348): the data have reached their destination. -/
def execFillPinRelease (s : State) : Host.Outcome State Fault Refusal :=
  let line := s.arg.line
  if s.pinning line then .next s
  else .next { s with
    homes := match s.homes.find line with | some h => s.homes.set line { h with pins := 0 } | none => s.homes
    dies := s.dies.mapVal (fun _ d => match d.copies.find line with
      | some c => { d with copies := d.copies.set line { c with pins := 0 } }
      | none => d) }

/-- May the victim rule choose a home copy in its set: it is not pinned, no requester-side copy of the set is free to go, and no
other home copy that may go was used less recently (R348)? -/
def State.isVictim (s : State) (line : Nat) (h : Home) : Bool :=
  let m := s.setMates (s.home (line * 128)) line
  h.pins = 0 && m.2.all (fun e => e.2.pins ≠ 0) && m.1.all (fun e => e.2.pins ≠ 0 || decide (h.used ≤ e.2.used))

/-- The event L2_EVICTION (R348): the victim of its set leaves the slice; its dirty sectors and its rtime are on their way to
memory. -/
def execL2Eviction (s : State) : Host.Outcome State Fault Refusal :=
  let line := s.arg.line
  match s.homes.find line with
  | some h => if s.isVictim line h then .next (s.evictHome line) else .next s
  | none => .next s

/-! Memory chiplets and time -/

/-- A time raised to a threshold (R381). -/
def raiseTo (q t : Time) : Time := if precedes t q then q else t
/-- The threshold of the sweep for the next horizon (R380): H′ − 2^30. -/
def State.sweepAt (s : State) : Time := s.h + 0x10000000 - 0x40000000

/-- The event MEMORY_WRITEBACK (R378, R379): the chiplet takes an eviction, or asks to report its time first. -/
def execMemoryWriteback (s : State) : Host.Outcome State Fault Refusal :=
  match s.evicts.find s.arg.id with
  | some e =>
    if s.mustReport e then .next (s.modChiplet (s.chipletOf e.pa) (fun c => { c with reporting := true }))
    else .next { s.landEvict e with evicts := s.evicts.erase s.arg.id }
  | none => .next s

/-- The event BEACON_REPORT (R379): BMAX takes the times of the evictions that the chiplet holds, and the threshold of a sweep that it has
yet to complete. -/
def execBeaconReport (s : State) : Host.Outcome State Fault Refusal :=
  let c := s.arg.chiplet
  if (s.chiplet c).reporting then
    let t := s.evicts.foldl (fun t e => if s.chipletOf e.2.pa = c then tmax t e.2.rt else t) (tmax s.bmax (s.chiplet c).mtime)
    let t := if s.stepReq && !s.swept.contains c then tmax t s.sweepAt else t
    .next { s.modChiplet c (fun x => { x with reporting := false }) with bmax := t }
  else .next { s with bmax := tmax s.bmax (s.chiplet c).mtime }

/-- The event BEACON_BROADCAST (R379). -/
def execBeaconBroadcast (s : State) : Host.Outcome State Fault Refusal := .next s.broadcast

/-- The event MEMORY_FILL (R370, R371, R378): a line comes from memory into its home, where its page may be filled. -/
def execMemoryFill (s : State) : Host.Outcome State Fault Refusal := .next (s.fill s.arg.line)

/-- The event TRANSLATION_WALK (R370): a leaf entry found by a walk enters the chiplet's cache; a walk that finds none leaves
it as it is. -/
def execTranslationWalk (s : State) : Host.Outcome State Fault Refusal :=
  if s.chipletOf s.arg.ia = s.arg.chiplet && !isIdentity s.arg.ia && !isMapIa s.arg.ia then .next (s.warm s.arg.ia) else .next s

/-- A level-one line in a sweep (R381). -/
def L1Line.sweep (q : Time) (l : L1Line) : L1Line :=
  let old := precedes l.rt q
  { l with secs := l.secs.mapVal (fun _ x => { x with
      valid := x.valid && !old
      stamp := if x.dirty = 0 then x.stamp else raiseTo q x.stamp
      wbStamp := if x.wb = 0 then x.wbStamp else raiseTo q x.wbStamp }) }

/-- A barrier record in a sweep (R381). -/
def Bar.sweep (q : Time) (x : Bar) : Bar := { x with pmax := raiseTo q x.pmax, last := raiseTo q x.last }
/-- A fibre in a sweep (R381). -/
def Fibre.sweep (q : Time) (f : Fibre) : Fibre :=
  { f with ptime := raiseTo q f.ptime, k := f.k.mapVal (fun _ c => { c with kt := raiseTo q c.kt }) }

/-- A resident block of a die in a sweep (R381). -/
def Block.sweep (b : Block) (d : Nat) (q : Time) : Block :=
  if b.socket = d && b.st == .resident then { b.mapFibs (Fibre.sweep q) with bars := b.bars.mapVal (fun _ x => x.sweep q) } else b

/-- The event SWEEP_PASS (R380, R381): the die or chiplet at socket `arg.die` completes its pass. A chiplet whose mtime would pass the last
BMAX it received by more than 2^19 reports first (R379). -/
def execSweepPass (s : State) : Host.Outcome State Fault Refusal :=
  let d := s.arg.die
  let q := s.sweepAt
  if !s.stepReq || s.swept.contains d then .next s
  else if 6 ≤ d then
    if tle q (s.chiplet d).mtime || tle q ((s.chiplet d).seen + 0x80000) then
      .next { s.modChiplet d (fun c => { c with mtime := raiseTo q c.mtime }) with swept := d :: s.swept }
    else .next (s.modChiplet d (fun c => { c with reporting := true }))
  else
    let s := { s with
      cores := s.cores.mapVal (fun k c => if k / 33 = d then
        { c with l1 := (c.l1.mapVal (fun _ l => l.sweep q)).filter (fun e => e.2.secs.any (fun x => x.2.valid || x.2.mine ≠ 0)) } else c)
      homes := s.homes.mapVal (fun line h => if (s.home (line * 128)).1 = d then { h with wt := raiseTo q h.wt, rt := raiseTo q h.rt } else h)
      blocks := s.blocks.mapVal (fun _ b => b.sweep d q)
      cbars := s.cbars.mapVal (fun _ x => x.sweep q)
      dbars := s.dbars.mapVal (fun _ x => x.sweep q)
      swept := d :: s.swept }
    .next (s.modDie d (fun x => { x with copies := x.copies.filter (fun e => !precedes e.2.ver.rt q) }))

/-- The event HORIZON_STEP (R380): every live die and chiplet has swept; BT and FT, which I/O die 14 holds, are raised with them
(R416, R456, log 48). -/
def execHorizonStep (s : State) : Host.Outcome State Fault Refusal :=
  if s.stepReq && (s.liveDies ++ s.liveChiplets).all s.swept.contains then
    let t : State := { s with h := s.h + 0x10000000, epoch := s.epoch + 1, stepReq := false, swept := []
                              bridge := { s.bridge with bt := raiseTo s.sweepAt s.bridge.bt }
                              fabric := { s.fabric with ft := raiseTo s.sweepAt s.fabric.ft } }
    .next t.drainDevq
  else .next s

/-- The event REFRESH (R384): nothing that the model holds changes. -/
def execRefresh (s : State) : Host.Outcome State Fault Refusal := .next s

/-- The event SCRUB (R384, R385, R472): a sector of a stack is read; `arg.flag` says that it was the last one of
the chiplet's scrub period. -/
def execScrub (s : State) : Host.Outcome State Fault Refusal :=
  let c := s.arg.chiplet
  let ends := s.arg.flag && decide ((s.chiplet c).scrubAt + us (3600000000 * s.boot.scrubH) ≤ s.now)
  let s := if ends then s.modChiplet c (fun x => { x with scrubs := x.scrubs + 1, scrubAt := s.now }) else s
  match s.arg.ecc with
  | .clean => .next s
  | .corrected => .next (s.modChiplet c (fun x => { x with cecnt := satInc x.cecnt 1 }))
  | .uncorrectable =>
    .next { s.modChiplet c (fun x => { x with uecnt := satInc x.uecnt 1 }) with memPoison := setAdd s.memPoison s.arg.sector }

/-! Errors -/

/-- Does a word of a core's store belong to a block (R322)? -/
def State.wordOwned (s : State) (core w : Nat) (acc : Bool) : Bool :=
  s.blocks.any (fun e => let b := e.2
    b.core = core && b.st == .resident &&
    (if acc then b.banks.contains (4 * w / Config.accBank)
     else (decide (b.rbase ≤ 4 * w) && decide (4 * w < b.rbase + b.rspan)) || (decide (b.sbase ≤ 4 * w) && decide (4 * w < b.sbase + b.sspan))))

/-- The event STORE_ERROR (R322, R472): a word by `arg.index`, of the accumulator store under `arg.flag`; outside every block's
spans it lies in the level-one sector that `arg.line` and `arg.sector` name, in the world of `arg.value` 0 or 1. -/
def execStoreError (s : State) : Host.Outcome State Fault Refusal :=
  let c := s.arg.core
  let w := s.arg.index
  match s.arg.ecc with
  | .clean => .next s
  | .corrected => .next (s.modCore c (fun x => { x with cecnt := satInc x.cecnt 1 }))
  | .uncorrectable =>
    let s := s.modCore c (fun x => { x with uecnt := satInc x.uecnt 1 })
    if s.wordOwned c w s.arg.flag then
      if s.arg.flag then .next (s.modCore c (fun x => { x with accPoison := setAdd x.accPoison w }))
      else .next (s.modCore c (fun x => { x with uniPoison := setAdd x.uniPoison w }))
    else
      let key := l1Key s.arg.line (s.arg.value ≠ 0)
      let k := s.arg.sector % 4
      match s.l1 c key with
      | some l =>
        let x := l.sec k
        if x.mine = 0 then .next (s.setL1 c key (l.setSec k { x with valid := false }))
        else .next (s.setL1 c key (l.setSec k { x with dpoison := true }))
      | none => .next s

/-- The event MEMORY_ERROR (R385): an uncorrectable error in memory, in a home sector, in a requester-side copy, or in data on the
base die (R363): of a request, a reply, an eviction, a fill that it makes, or what an engine command has yet to read or write at the home
of another die. A clean home sector is dropped, and fetched again from memory. -/
def execMemoryError (s : State) : Host.Outcome State Fault Refusal :=
  match s.arg.place with
  | .memory =>
    let c := s.chipletOf (32 * s.arg.sector)
    .next { s.modChiplet c (fun x => { x with uecnt := satInc x.uecnt 1 }) with memPoison := setAdd s.memPoison s.arg.sector }
  | .homeCopy => match s.homes.find s.arg.line with
    | some h =>
      let k := s.arg.sector % 4
      let h' : Home := if h.dirty.getLsbD k then { h with poison := setBit h.poison k true } else { h with valid := setBit h.valid k false }
      .next { s with homes := s.homes.set s.arg.line h' }
    | none => .next s
  | .message => match s.reqs.find s.arg.id with
    | some q => if s.homeSocket q.line = q.die then .next s
        else match q.reply, q.kind with
        | some x, .atomic .. => .next (s.setReq s.arg.id { q with reply := some { x with poisoned := true } })
        | some x, _ => .next (s.setReq s.arg.id { q with reply := some { x with ver := x.ver.poisonAt (s.arg.sector % 4) } })
        | none, .write bytes stamp wb _ => .next (s.setReq s.arg.id { q with kind := .write bytes stamp wb true })
        | none, .atomic .. => .next (s.setReq s.arg.id { q with bad := true })
        | none, _ => .next s
    | none => .next s
  | .eviction => match s.evicts.find s.arg.id with
    | some e => .next { s with evicts := s.evicts.set s.arg.id { e with poison := setBit e.poison (s.arg.sector % 4) true } }
    | none => .next s
  | .fill =>
    if (s.homes.find s.arg.line).isSome then .next s else .next ((s.fill s.arg.line).poisonHome s.arg.line [s.arg.sector % 4])
  | .engine => match (s.core s.arg.core).cmds.find s.arg.id with
    | some m =>
      if s.homeSocket s.arg.line = s.arg.core / 33 then .next s
      else .next (s.modCore s.arg.core (fun c => { c with
        cmds := c.cmds.set s.arg.id { m with badData := setAdd m.badData (4 * s.arg.line + s.arg.sector % 4) } }))
    | none => .next s
  | .requesterCopy => .next (s.modDie s.arg.die (fun x => { x with copies := x.copies.erase s.arg.line }))

end Sys2Proof.Machine
end

