-- ==== Sys2Proof/Machine/Tasks.lean ====
section
/-!
DEFINITION. Task records, queues, the checks of Grinder, SPAWN and JOIN, residency leases, and purges (R128, R145, R376,
R387 to R400, R407 to R409).
-/

namespace Sys2Proof.Machine

/-! Records -/

/-- The fields of a task record; `bad` if check 1 of R389 fails (R387). -/
def taskRec (d : List Byte) : TaskRec :=
  let gx := dfld d 32 4
  let gy := dfld d 36 2
  let gz := dfld d 38 2
  let warps := dfld d 40 1
  let c := dfld d 41 1
  { code := BitVec.ofNat 64 (dfld d 0 8), frame := BitVec.ofNat 64 (dfld d 8 8), joina := BitVec.ofNat 64 (dfld d 16 8),
    rset := BitVec.ofNat 64 (dfld d 24 8), gx := gx, gy := gy, gz := gz, warps := warps, csize := c,
    fli := dfld d 42 1 % 4, prio := dfld d 43 1 % 128, tag := BitVec.ofNat 16 (dfld d 44 2), vi := dfld d 46 1 % 64,
    coop := dfld d 47 1 % 2 = 1, cont := dfld d 47 1 / 2 % 2 = 1, stime := BitVec.ofNat 64 (dfld d 48 8),
    bad := dfld d 0 8 % 32 ≠ 0 || dfld d 16 8 % 128 ≠ 0 || dfld d 24 8 % 32 ≠ 0 || gx = 0 || gy = 0 || gz = 0 ||
      decide (2 ^ 32 < gx * gy * gz) || warps = 0 || decide (16 < warps) || c = 0 || decide (8 < c) || decide (4 ≤ dfld d 42 1) ||
      decide (128 ≤ dfld d 43 1) || decide (64 ≤ dfld d 46 1) || decide (4 ≤ dfld d 47 1) || !dzero d 56 8 }

/-- A list of bytes with a run replaced. -/
def putBytes (d : List Byte) (o : Nat) (bs : List Byte) : List Byte := d.take o ++ bs ++ d.drop (o + bs.length)

/-- A record as the device enqueues it (R391, R398, R400): TAG where it is given, VI, CONT where it is given, PRIO and STIME. -/
def stampRecord (d : List Byte) (tag : Option (BitVec 16)) (vi : Nat) (cont : Option Bool) (maxprio : Option Nat) (t : Time) : List Byte :=
  let r := taskRec d
  let d := match tag with | some g => putBytes d 44 (leBytes 2 g.toNat) | none => d
  let d := putBytes d 46 (leBytes 1 vi)
  let d := match cont with
    | some b => putBytes d 47 (leBytes 1 ((dfld d 47 1 / 4 * 4) + dfld d 47 1 % 2 + 2 * bit1 b))
    | none => d
  let d := match maxprio with | some m => putBytes d 43 (leBytes 1 (dfld d 43 1 / 128 * 128 + min (dfld d 43 1 % 128) m)) | none => d
  putBytes d 48 (leBytes 8 (tmax r.stime t).toNat)

/-! Queues -/

/-- A queue-table entry (R391), disabled if it breaks its form. -/
def queueOf (d : List Byte) : Queue :=
  let cap := dfld d 8 1
  let ok := decide (4 ≤ cap) && decide (cap ≤ 20) && dfld d 0 8 % (64 * 2 ^ cap) = 0 && decide (dfld d 9 1 < 2) && dzero d 10 6 &&
    decide (dfld d 16 8 < 2 ^ cap) && decide (dfld d 24 8 < 2 ^ cap)
  { base := dfld d 0 8, cap := cap, en := ok && dfld d 9 1 = 1, head := dfld d 16 8, tail := dfld d 24 8 }

/-- Records a queue holds at most. -/
def Queue.size (q : Queue) : Nat := 2 ^ q.cap
/-- Is the queue empty? -/
def Queue.isEmpty (q : Queue) : Bool := q.head == q.tail
/-- Is the queue full? -/
def Queue.isFull (q : Queue) : Bool := (q.tail + 1) % q.size == q.head

/-- The address of a queue-table entry (R391). -/
def Vi.entryAt (v : Vi) (prio : Nat) : Nat := v.qtbase.toNat + 32 * prio

/-- A queue as Grinder holds it, or as the table in memory gives it while the VI is drained (R391). -/
def State.queue (s : State) (vi prio : Nat) : Queue :=
  let v := s.vi vi
  if v.drained then queueOf (s.devBytes (v.entryAt prio) 32) else v.queues.get prio {}

/-- The TAIL of a queue moved. -/
def State.setTail (s : State) (vi prio : Nat) (q : Queue) : State :=
  let v := s.vi vi
  if v.drained then (s.devWrite (v.entryAt prio + 24) (leBytes 8 q.tail) s.h false (vi, 0)).1
  else s.modVi vi (fun v => { v with queues := v.queues.set prio q })

/-- Appends a record at TAIL of a queue of a VI; none if the queue is disabled or full (R391). `svc` marks a record of a service
block. -/
def State.enqueue (s : State) (vi prio : Nat) (d : List Byte) (svc : Bool) : Option State :=
  let q := s.queue vi prio
  if !q.en || q.isFull then none
  else
    let slot := q.base + 64 * q.tail
    let s := (s.devWrite slot d s.h false (vi, 0)).1
    let s := { s with doomed := s.doomed.filter (fun e => e.1 ≠ slot), serviceSlots := if svc then setAdd s.serviceSlots slot else setDel s.serviceSlots slot }
    some (s.setTail vi prio { q with tail := (q.tail + 1) % q.size, headAt := if q.isEmpty then s.now else q.headAt })

/-- Is a key under purge? -/
def State.purging (s : State) (vi : Nat) (tag : BitVec 16) : Bool := s.purges.any (fun p => p.vi = vi && p.tag = tag)
/-- One more item of a key dealt with by its purge (R413). -/
def State.countPurged (s : State) (vi : Nat) (tag : BitVec 16) : State :=
  { s with purges := s.purges.map (fun p => if p.vi = vi && p.tag = tag then { p with count := p.count + 1 } else p) }

/-- Does a VI's register page answer (R465, R470): Carafe runs, the heads are out of reset, and the VI is below the VI count? -/
def State.pageOpen (s : State) (vi : Nat) : Bool := s.boot.ready && decide (vi < s.boot.viCount)

/-- A submission to a VI at a time (R391, R437): enqueued, discarded under purge, or refused with the event of CODE 8. -/
def State.submit (s : State) (vi : Nat) (d : List Byte) (t : Time) : State :=
  let r := taskRec d
  let d := stampRecord d none vi none none t
  if s.purging vi r.tag then s.countPurged vi r.tag
  else if (s.vi vi).maxprio.toNat < r.prio then s.event vi 1 8 r.tag 0 0 0
  else match s.enqueue vi r.prio d false with
    | some s => s
    | none => s.event vi 1 8 r.tag 0 0 0

/-- The event SUBMIT (R391): a 64-byte write; STIME is at least the bridge's time. It waits for the host where the queue's entry must be
read there (R419). -/
def execSubmit (s : State) : Host.Outcome State Fault Refusal :=
  let v := s.vi s.arg.vi
  let at' := v.entryAt (taskRec s.arg.data).prio
  if s.arg.data.length ≠ 64 || !s.pageOpen s.arg.vi then .next s
  else if v.drained && !s.readable at' 32 then .next (s.readAsk at' 32)
  else .next (s.submit s.arg.vi s.arg.data s.bridge.bt)

/-- SPAWN (R398). -/
def execSpawn (f : Ins) (s : State) := sysOp .spawn f s (fun c =>
  let b := c.blk
  let d := (c.params 16).flatMap wordBytes
  let q := upredDest f.d
  if (taskRec d).bad then c.ill
  else c.release .d (fun s =>
    let v := s.vi b.vi
    let d := stampRecord d (some b.tag) b.vi (some false) (some v.maxprio.toNat) (s.fib c.r).ptime
    let no (s : State) : State := (c.retire s).applyEff c.r (.upred q false)
    if !b.service && s.purging b.vi b.tag then no (s.countPurged b.vi b.tag)
    else match s.enqueue b.vi (taskRec d).prio d b.service with
      | some s => (c.retire s).applyEff c.r (.upred q true)
      | none => no s))

/-! JOIN -/

/-- What the operation of a JOIN at the home found. -/
structure Joined where
  t : Time
  count : Nat
  /-- The sector of COUNT is poisoned: nothing was done. -/
  bad : Bool
  record : List Byte
  /-- The first poisoned byte of the record, by offset in the line. -/
  badRecord : Option Nat
  ver : Ver

/-- The operation of JOIN at the home (R400), an atomic on COUNT. -/
def State.joinHome (s : State) (line n : Nat) (t0 : Time) (who : Nat × BitVec 16) : State × Joined :=
  let s := s.fill line
  match s.homeVer line with
  | none => (s, { t := t0, count := 0, bad := true, record := [], badRecord := none, ver := {} })
  | some (v, _, _) =>
    if v.poison.getLsbD 0 then (s, { t := t0, count := 0, bad := true, record := [], badRecord := none, ver := v })
    else
      let t := tmax t0 (v.rt + 1)
      let c := lineNat v.data 0 4
      let data := if n ≤ c then lineMerge v.data ((leBytes 4 (c - n)).zipIdx.map (fun e => (e.2, e.1))) else v.data
      let v' : Ver := { v with data := data, wt := t, rt := t }
      ((s.putHome line v' 0 1 who).wakeLine line .write,
       { t := t, count := c, bad := false, record := (lineBytes v.data).drop 64,
         badRecord := (List.range 128).find? (fun i => decide (64 ≤ i) && v.poison.getLsbD (i / 32)), ver := v' })

/-- A continuation goes into its queue, or waits in the overflow store (R400); one of a key under purge is discarded. True if it
was enqueued or held. -/
def State.continue (s : State) (vi : Nat) (tag : BitVec 16) (d : List Byte) (t : Time) (svc : Bool) : State × Bool :=
  let d := stampRecord d (some tag) vi (some true) (some (s.vi vi).maxprio.toNat) t
  if s.purging vi tag then (s.countPurged vi tag, false)
  else match s.enqueue vi (taskRec d).prio d svc with
    | some s => (s, true)
    | none => ({ s with overflow := s.overflow ++ [(vi, tag, d, svc)] }, true)

/-- JOIN (R399, R400). -/
def execJoin (f : Ins) (s : State) := sysOp .join f s (fun c =>
  let b := c.blk
  let va := c.va 0
  let n := c.vb 0 % 2 ^ 32
  let q := upredDest f.d
  if n = 0 then c.ill
  else match c.s.enginePieces b 0 va 1 (fun g => g.r && g.a) with
    | .error e => c.vaRefused va e.page
    | .ok ps =>
      let ia := (ps.headD default).place
      let line := ia / 128
      let key := l1Key line (ps.headD default).ns
      if va % 128 ≠ 0 then c.raise cALN (accessVal false 0 va)
      else if c.fib.watched va 128 true true && !c.fib.latches cWCH then c.raise cWCH (accessVal false 0 va)
      else if 1024 < c.s.overflow.length || c.s.memHeld c.r false || c.s.lineBusy c.r [line] false then c.stall c.s
      else c.release .d (fun s =>
        let mine : List Nat := match s.l1 b.core key with | some l => (List.range 4).filter (fun k => (l.sec k).mine ≠ 0) | none => []
        if !mine.isEmpty then c.stall (mine.foldl (fun s k => s.startWb b.core key k) s)
        else if !s.homeReady line true then c.stall (s.homeAsk line true)
        else if !s.permitFree b.core line then c.stall s
        else match s.heldAt line (s.fib c.r).ptime with
        | some s => c.stall s
        | none =>
          let (s, j) := s.joinHome line n (s.fib c.r).ptime (b.vi, b.tag)
          let s := c.retire s
          if j.bad then s.raise c.r cPOI (accessVal false 0 va) c.pc c.path false ia
          else
            let s := (s.wroteBack b.core key none j.ver).modFib c.r (fun x => { x with ptime := tmax x.ptime j.t })
            let s := if c.fib.watched va 128 true true then s.raise c.r cWCH (accessVal false 0 va) c.pc c.path false 0 else s
            let no (s : State) : State := s.applyEff c.r (.upred q false)
            if j.count < n then no (s.faultRecord b.vi ia va 6 false b.tag b.task)
            else if n = j.count then
              match j.badRecord with
              | some i => s.raise c.r cPOI (accessVal false 0 (va + i)) c.pc c.path false (ia + i)
              | none =>
                let (s, ok) := s.continue b.vi b.tag j.record j.t b.service
                s.applyEff c.r (.upred q ok)
            else no s))

/-- The event OVERFLOW_STORE_DRAIN (R400): the oldest record whose queue has room, and none before it of the same queue. -/
def execOverflowStoreDrain (s : State) : Host.Outcome State Fault Refusal :=
  let step := s.overflow.zipIdx.foldl (fun (acc : Option State × List (Nat × Nat)) e =>
    match acc.1 with
    | some t => (some t, acc.2)
    | none =>
      let key := (e.1.1, (taskRec e.1.2.2.1).prio)
      if acc.2.contains key then acc
      else match s.enqueue key.1 key.2 e.1.2.2.1 e.1.2.2.2 with
        | some t => (some { t with overflow := s.overflow.eraseIdx e.2 }, acc.2)
        | none => (none, key :: acc.2)) (none, [])
  .next (step.1.getD s)

/-! Range sets, descriptors and the checks -/

/-- One entry of a range-set image (R128); none if it breaks its form. -/
def rangeOf (d : List Byte) : Option Range :=
  let x := dfld d 0 32
  let g := bitsOf x 128 36
  let va := bitsOf x 16 41 * 65536
  let ia := bitsOf x 80 36 * 65536
  if bitsOf x 164 92 ≠ 0 || bitsOf x 116 12 ≠ 0 || bitsOf x 69 11 ≠ 0 || bitsOf x 57 7 ≠ 0 || bitsOf x 0 16 ≠ 0 || g = 0 ||
      decide (2 ^ 57 < va + g * 65536) || decide (2 ^ 52 < ia + g * 65536) then none
  else some { vabase := va, gran := g, iabase := ia, r := x.testBit 64, w := x.testBit 65, x := x.testBit 66, a := x.testBit 67,
              ns := x.testBit 68 }

/-- Do two ranges overlap in VA? -/
def Range.overlaps (a b : Range) : Bool := spanMeet a.vabase (a.vabase + a.gran * 65536) b.vabase (b.vabase + b.gran * 65536)

/-- A range-set image (R128); none if it is refused. -/
def rangeSet (d : List Byte) : Option (List Range) :=
  let n := dfld d 0 1
  if n = 0 || 16 < n || !dzero d 1 31 then none
  else
    let es := (List.range n).map (fun i => rangeOf (d.drop (32 + 32 * i)))
    let rs := es.filterMap id
    if rs.length ≠ n then none
    else if (List.range n).any (fun i => (List.range i).any (fun j => (rs.getD i default).overlaps (rs.getD j default))) then none
    else some rs

/-- Is a run of global memory by IA readable for a VI (R389 check 2)? -/
def State.iaReadable (s : State) (vi ia n : Nat) : Bool :=
  decide (ia + n ≤ 2 ^ 52) && (List.range ((ia % 128 + n + 127) / 128)).all (fun i =>
    let l := ia / 128 + i
    !isIdentity (l * 128) && !isMapIa (l * 128) && (match s.lineHome l with
      | .slice _ ns => ns || !(s.vi vi).ns
      | .bridge _ ns => ns || !(s.vi vi).ns
      | .refused _ => false))

/-- The kernel that a descriptor and a layout index name (R388); none if a field breaks R388 or FLI ≥ NL. -/
def kernelOf (d : List Byte) (fli : Nat) : Option Kernel :=
  let w := dfld d 0 1
  let nl := dfld d 1 1
  let c := dfld d 2 1
  let h := dfld d 5 1
  let trap := dfld d 16 8
  let fibre (l f : Nat) : Nat × Nat × Nat × Bool :=
    let o := 32 + 64 * l + 16 * f
    (dfld d o 8, dfld d (o + 8) 2, dfld d (o + 10) 2, dzero d (o + 12) 4)
  let layouts := (List.range nl).map (fun l => (List.range 4).map (fibre l))
  let sound (l : List (Nat × Nat × Nat × Bool)) : Bool :=
    let n := (l.filter (fun f => f.2.1 ≠ 0)).length
    decide (0 < n) && l.zipIdx.all (fun e => e.1.2.2.2 && (if e.2 < n
      then e.1.2.1 ≠ 0 && e.1.2.1 % 8 = 0 && decide (e.1.2.1 ≤ 448) && decide (e.1.1 < 2 ^ 57) && e.1.1 % 4 = 0 else e.1.2.1 = 0))
  let mine := ((layouts.getD fli []).filter (fun f => f.2.1 ≠ 0))
  if (w ≠ 16 && w ≠ 32 && w ≠ 64) || nl = 0 || decide (4 < nl) || c = 0 || decide (8 < c) || decide (2 < dfld d 3 1) || decide (64 < dfld d 4 1) ||
      h / 4 % 32 ≠ 0 || !dzero d 6 2 || dfld d 8 4 % 512 ≠ 0 || decide (2097152 < dfld d 8 4) || !dzero d 12 4 || !dzero d 24 8 ||
      decide (2 ^ 57 ≤ trap) || trap % 4 ≠ 0 || !layouts.all sound || decide (nl ≤ fli) ||
      (decide (128 ≤ h) && decide (mine.length ≤ h % 4)) then none
  else some { width := w, c := c, accN := dfld d 3 1, shared := dfld d 4 1, handler := if 128 ≤ h then some (h % 4) else none,
              scratch := dfld d 8 4, trap := if trap = 0 then none else some (BitVec.ofNat 57 trap),
              entries := mine.map (fun f => BitVec.ofNat 57 f.1), budgets := mine.map (fun f => f.2.1), ras := mine.map (fun f => f.2.2.1) }

/-- A block of a task, before its placement. -/
def Task.shape (t : Task) : Block :=
  { st := .gone, task := 0, gx := t.tr.gx, gy := t.tr.gy, gz := t.tr.gz, csize := t.ker.c, coop := t.tr.coop, vi := t.tr.vi, tag := t.tr.tag,
    ns := t.world, width := t.ker.width, budgets := t.ker.budgets, entries := t.ker.entries, ras := t.ker.ras, shared := t.ker.shared,
    trapEntry := t.ker.trap, sspan := t.ker.scratch, accN := t.ker.accN, warps := List.replicate t.tr.warps {}, ranges := t.ranges }

/-- A number rounded up to a multiple of 4 KiB. -/
def pageUp (n : Nat) : Nat := (n + 4095) / 4096 * 4096

/-- Bytes of the save slot a block needs (R403). -/
def Block.slotBytes (b : Block) : Nat := 0x28000 + pageUp b.rspan + pageUp b.sspan + Config.accBank * b.accN

/-- Blocks of a shape that an empty core could hold (R224). -/
def Block.perCore (b : Block) : Nat :=
  let spans := b.rspan + b.sspan
  let room := min (Config.storeBytes / max 1 (pageUp b.rspan + pageUp b.sspan)) ((Config.storeBytes - Config.l1Floor) / max 1 spans)
  min (Config.slots / max 1 b.warps.length) (if b.accN = 0 then room else min room (2 / b.accN))

/-- Hardware clusters: eight cores each, four to a die (R2, R323). -/
def State.hwClusters (s : State) : List (List Nat) :=
  s.liveDies.flatMap (fun d => (List.range 4).map (fun k => (List.range 8).map (fun i => 33 * d + 8 * k + i)))

/-- Is a core in service: live, and not quarantined until reset (R412)? -/
def State.inService (s : State) (c : Nat) : Bool := s.coreLive c && (s.core c).tamper != .quarantined
/-- Is a core under scan: it drains, and is empty (R410)? -/
def State.underScan (s : State) (c : Nat) : Bool :=
  (s.core c).tamper == .draining && !s.blocks.any (fun e => e.2.st == .resident && e.2.core = c)

/-- Cooperative capacity (R393): blocks of a grid of `n` that the user cores in service, none of them under scan (R410), could hold
under R224 if no other block were resident; no core takes two blocks of one cluster. -/
def State.capacity (s : State) (b : Block) (n : Nat) : Nat :=
  ((s.userCores.filter (fun c => s.inService c && !s.underScan c)).map (fun _ => min b.perCore (n / max 1 b.csize))).sum

/-- Bytes by VA under a block's ranges with R permission; none if one cannot be read. -/
def State.vaBytes (s : State) (b : Block) (va n : Nat) : Option (List Piece) :=
  match s.enginePieces b 0 va n Range.r with
  | .ok ps => some ps
  | .error _ => none

/-- Lines of a record's range set and descriptor that the host must send before they can be read: of the descriptor its header, and then
what its NL makes of it (R388). -/
def State.taskNeeds (s : State) (r : TaskRec) : List Nat :=
  let far (ia n : Nat) : List Nat := ((List.range ((ia % 128 + n + 127) / 128)).map (fun i => ia / 128 + i)).filter (fun l =>
    (match s.lineHome l with | .bridge _ _ => true | _ => false) && !s.homeReady l false)
  let rset := r.rset.toNat
  if r.bad || !s.iaReadable r.vi rset 32 then []
  else
    let a := far rset 544
    if !a.isEmpty then a
    else match rangeSet (s.iaBytes rset 544) with
      | none => []
      | some rs =>
        let b : Block := { vi := r.vi, ns := (s.vi r.vi).ns, ranges := rs }
        match s.vaBytes b r.code.toNat 32 with
        | none => []
        | some hs =>
          let a := hs.flatMap (fun p => far p.place p.n)
          if !a.isEmpty then a
          else match s.vaBytes b r.code.toNat (32 + 64 * dfld (hs.flatMap (fun p => s.iaBytes p.place p.n)) 1 1) with
            | some ps => ps.flatMap (fun p => far p.place p.n)
            | none => []

/-- The first check of R389 that a record fails, 0 if it is sound, with the kernel and ranges. -/
def State.checkTask (s : State) (r : TaskRec) (svc : Bool) : Nat × Kernel × List Range :=
  let no (n : Nat) : Nat × Kernel × List Range := (n, {}, [])
  let rset := r.rset.toNat
  if r.bad then no 1
  else if !s.iaReadable r.vi rset 32 then no 2
  else
    let n := dfld (s.iaBytes rset 32) 0 1
    if !s.iaReadable r.vi rset (32 + 32 * n) then no 2
    else match rangeSet (s.iaBytes rset (32 + 32 * n)) with
      | none => no 2
      | some rs =>
        let join := r.joina.toNat
        let covered := join = 0 || rs.any (fun g => g.r && g.a && decide (g.vabase ≤ join) && decide (join + 128 ≤ g.vabase + g.gran * 65536))
        if !covered then no 2
        else
          let b : Block := { vi := r.vi, tag := r.tag, ns := (s.vi r.vi).ns, ranges := rs }
          let read (n : Nat) : Option (List Byte) := (s.vaBytes b r.code.toNat n).map (fun ps => ps.flatMap (fun p => s.iaBytes p.place p.n))
          match (read 32).bind (fun h => read (32 + 64 * dfld h 1 1)) with
          | none => no 3
          | some d => match kernelOf d r.fli with
            | none => no 3
            | some k =>
              let t : Task := { tr := r, ker := k, ranges := rs, world := (s.vi r.vi).ns }
              let x := t.shape
              let slot := bitsOf (s.vi r.vi).savecfg.toNat 16 16 * 4096
              if k.c ≠ r.csize || (k.width = 64 && !s.boot.featacc.getLsbD 1) then no 3
              else if r.gx % k.c ≠ 0 then no 4
              else if Config.storeBytes - Config.l1Floor < x.rspan + x.sspan || x.perCore = 0 ||
                  !(s.hwClusters.any (fun cs => decide (k.c ≤ (cs.filter s.inService).length))) || slot < x.slotBytes then no 5
              else if r.coop && decide (s.capacity x (r.gx * r.gy * r.gz) < r.gx * r.gy * r.gz) then no 6
              else if r.tag = 0 && !svc then no 7
              else (0, k, rs)

/-! Residency -/

/-- The leaf entry that a walk of a page finds, well formed or not: its PA, and the level it stands at (R368, R369). -/
def State.leafPa (s : State) (ia fuel lvl base : Nat) : Option (Nat × Nat) :=
  match fuel with
  | 0 => none
  | n + 1 =>
    let idx := if lvl = 0 then bitsOf ia 39 13 else if lvl = 1 then bitsOf ia 30 9 else if lvl = 2 then bitsOf ia 21 9 else bitsOf ia 16 5
    let pa := base + 8 * idx
    let e := s.pte pa
    if e % 2 = 0 then none else if e / 2 % 2 = 1 then some (pa, lvl) else s.leafPa ia n (lvl + 1) (bitsOf e 8 36 * 256)
/-- The same from the root. -/
def State.leafFrom (s : State) (ia : Nat) : Option (Nat × Nat) :=
  let root := (s.chiplet (s.chipletOf ia)).ttroot.toNat
  if root % 2 = 0 then none else s.leafPa ia 4 0 (bitsOf root 16 28 * 65536)
/-- The PA of that entry. -/
def State.leafAt (s : State) (ia : Nat) : Option Nat := (s.leafFrom ia).map Prod.fst
/-- The IA of the page an address lies in: of the size its leaf entry has, of 64 KiB where it has none (R368). -/
def State.pageBase (s : State) (ia : Nat) : Nat :=
  let n := match s.leafFrom ia with
    | some (_, 1) => 16384
    | some (_, 2) => 32
    | _ => 1
  ia / 65536 / n * n * 65536

/-- Why a page of a task's ranges is not resident (R371, R395, R396), 0 if it is; host-window pages need no entry. -/
def State.pageCause (s : State) (world : Bool) (ia : Nat) : Nat :=
  if isHostWindow ia || isIdentity ia || isMapIa ia then 0
  else match s.walk ia with
    | .absent => 1
    | .malformed => 2
    | .transit => 3
    | .ok l => if world && !l.ns then 4
        else match s.leafAt ia with
          | some pa => if leNat (s.devBytes (identityIa (pa + 2)) 2) = 0xFFFF then 8 else 0
          | none => 2

/-- Pages of 64 KiB, by IA / 2^16, that a set of ranges meets. -/
def rangePages (rs : List Range) : List Nat := (rs.flatMap (fun g => (List.range g.gran).map (fun i => g.iabase / 65536 + i))).eraseDups

/-- Adds to LCNT of the leaf entry at a PA (R376), an atomic at its home. -/
def State.addLcnt (s : State) (pa : Nat) (up : Bool) : State :=
  let n := leNat (s.devBytes (identityIa (pa + 2)) 2)
  let n := if up then n + 1 else n - 1
  (s.devWrite (identityIa (pa + 2)) (leBytes 2 n) s.h false (0, 0)).1

/-- The residency walk of a task (R395): its leases are taken, or the failing pages are recorded and the task is held. -/
def State.residency (s : State) (h : Nat) : State :=
  match s.tasks.find h with
  | none => s
  | some t =>
    let pages := rangePages t.ranges
    let bad := (pages.filterMap (fun p => let c := s.pageCause t.world (p * 65536); if c = 0 then none else some (s.pageBase (p * 65536), c))).eraseDups
    if bad.isEmpty then
      let leaves := (pages.filterMap (fun p => if isHostWindow (p * 65536) || isIdentity (p * 65536) || isMapIa (p * 65536) then none
        else s.leafAt (p * 65536))).eraseDups
      let s := leaves.foldl (fun s pa => s.addLcnt pa true) s
      let s := s.modVi t.tr.vi (fun v => { v with held := setDel v.held h })
      { s with tasks := s.tasks.set h { t with held := false, leases := leaves } }
    else
      let s := bad.foldl (fun s e => s.faultRecord t.tr.vi e.1 0 e.2 true t.tr.tag h) s
      let s := s.modVi t.tr.vi (fun v => { v with held := setAdd v.held h })
      { s with tasks := s.tasks.set h { t with held := true } }

/-- A task's residency lease ends (R376, R394). -/
def State.endLease (s : State) (t : Task) : State := t.leases.foldl (fun s pa => s.addLcnt pa false) s

/-- A write to REARM (R395): the task named, or every held task of the VI, is checked again. -/
def State.rearm (s : State) (vi : Nat) (value : Dword) : State :=
  let v := s.vi vi
  let hs := if value.toNat % 2 ^ 32 = 0xFFFFFFFF then v.held else v.held.filter (· = value.toNat % 2 ^ 32)
  hs.foldl (fun s h => s.residency h) s
/-- The event REARM. -/
def execRearm (s : State) : Host.Outcome State Fault Refusal :=
  .next (if s.pageOpen s.arg.vi then s.rearm s.arg.vi s.arg.value else s)

/-! Taking a record -/

/-- Effective priority of a wait since a cycle (R392). -/
def effPrio (v : Vi) (prio since now : Nat) : Nat :=
  if v.age = 0 then prio else min 127 (prio + (now - since) / ms v.age.toNat)

/-- Head records that Grinder may take: EP, when the VI was last served, VI, priority. -/
def State.heads (s : State) : List (Nat × Nat × Nat × Nat) :=
  s.vis.flatMap (fun e =>
    if !e.2.run || decide (64 ≤ e.2.held.length) then []
    else (e.2.queues.filter (fun q => q.2.en && !q.2.isEmpty)).map (fun q => (effPrio e.2 q.1 q.2.headAt s.now, e.2.served, e.1, q.1)))

/-- Does the first head record go before the second (R392)? -/
def headBefore (a b : Nat × Nat × Nat × Nat) : Bool :=
  if a.1 ≠ b.1 then decide (b.1 < a.1)
  else if a.2.1 ≠ b.2.1 then decide (a.2.1 < b.2.1)
  else if a.2.2.1 ≠ b.2.2.1 then decide (a.2.2.1 < b.2.2.1)
  else decide (b.2.2.2 < a.2.2.2)

/-- The handle of the next task (R392): 32 bits, of no task in flight; 0 names none, and REARM takes all ones for every task (R395). -/
def State.newHandle (s : State) : Nat :=
  let hs := (List.range 4100).map (fun i => (s.nextTask + i) % 2 ^ 32)
  (hs.find? (fun h => h ≠ 0 && h ≠ 0xFFFFFFFF && (s.tasks.find h).isNone)).getD 1

/-- The event TASK_TAKE (R389, R392, R395). -/
def execTaskTake (s : State) : Host.Outcome State Fault Refusal :=
  let best := s.heads.foldl (fun acc x => match acc with | some y => if headBefore x y then some x else some y | none => some x) none
  match best with
  | none => .next s
  | some (_, _, vi, prio) =>
    let q := (s.vi vi).queues.get prio {}
    let slot := q.base + 64 * q.head
    if 4096 ≤ s.tasks.length then .next s
    else if !s.runReady slot 64 false then .next (s.runAsk slot 64 false)
    else
      let d := s.devBytes slot 64
      let r : TaskRec := { taskRec d with vi := vi }
      let need := s.taskNeeds r
      if !need.isEmpty then .next (need.foldl (fun s l => s.homeAsk l false) s)
      else
      let svc := s.serviceSlots.contains slot
      let since := q.headAt
      let q' : Queue := { q with head := (q.head + 1) % q.size, headAt := s.now }
      let n := s.servedN + 1
      let s := s.modVi vi (fun v => { v with queues := v.queues.set prio q', served := n })
      let found := s.doomed.contains (slot, r.tag)
      let s := { s with servedN := n, serviceSlots := setDel s.serviceSlots slot, doomed := s.doomed.filter (fun e => e.1 ≠ slot) }
      if found then .next s
      else if s.purging vi r.tag && r.tag ≠ 0 then .next (s.countPurged vi r.tag)
      else
        let (code, k, rs) := s.checkTask r svc
        if code ≠ 0 then .next (s.event vi 1 code r.tag 0 (BitVec.ofNat 64 slot) 0)
        else
          let t : Task := { tr := r, ker := k, ranges := rs, world := (s.vi vi).ns, headAt := since, slotIa := slot, takenAt := n }
          let h := s.newHandle
          let s := { s with tasks := s.tasks.set h t, nextTask := h + 1 }
          .next (s.residency h)

/-! The end of a task -/

/-- Blocks of a task's grid. -/
def Task.total (t : Task) : Nat := t.tr.gx * t.tr.gy * t.tr.gz

/-- What a task makes its JOIN as. -/
def Task.joiner (t : Task) (h : Nat) : Block :=
  { vi := t.tr.vi, tag := t.tr.tag, task := h, ns := t.world, service := t.service, ranges := t.ranges }
/-- The IA of a task's join block; none without one. -/
def Task.joinIa (t : Task) : Option Nat :=
  if t.tr.joina = 0 || t.failed then none else ((t.joiner 0).translateVa t.tr.joina.toNat (fun g => g.r && g.a)).map Prod.snd

/-- The JOIN that grid completion makes (R394). Where the page of the join block refuses the task (R246, R364), the operation is not
performed, and its fault record is written (DEDUCED, unsafe, log 92). -/
def State.gridJoin (s : State) (h : Nat) (t : Task) : State :=
  match t.joinIa with
  | none => s
  | some ia => match s.pageOf (t.joiner h) ia with
   | .error cause => s.pageFault (t.joiner h) ia t.tr.joina.toNat cause
   | .ok _ =>
    let (s, j) := s.joinHome (ia / 128) 1 t.gt (t.tr.vi, t.tr.tag)
    if j.bad then s.startPurge t.tr.vi t.tr.tag 1 ia
    else if j.count < 1 then s.faultRecord t.tr.vi ia t.tr.joina.toNat 6 false t.tr.tag h
    else if j.count = 1 then
      match j.badRecord with
      | some _ => s.startPurge t.tr.vi t.tr.tag 1 ia
      | none => (s.continue t.tr.vi t.tr.tag j.record j.t t.service).1
    else s

/-- What the JOIN of a task waits for at its home: the host, a way of the set, or a step of the horizon (R348, R380, R418). -/
def State.joinWaits (s : State) (t : Task) : Option State :=
  match t.joinIa with
  | none => none
  | some ia => match s.pageOf (t.joiner 0) ia with
    | .error _ => none
    | .ok _ => if !s.homeReady (ia / 128) true then some (s.homeAsk (ia / 128) true) else s.heldAt (ia / 128) t.gt

/-- A task with every block handed out and freed completes (R394); a failed one makes no JOIN. -/
def State.endOfTask (s : State) (h : Nat) : State :=
  match s.tasks.find h with
  | none => s
  | some t =>
    if t.live ≠ 0 || t.next < t.total then s
    else match s.joinWaits t with
     | some u => u
     | none =>
      let s := { s with tasks := s.tasks.erase h, dbars := s.dbars.filter (fun e => e.1 / 4 ≠ h) }
      let s := (s.modVi t.tr.vi (fun v => { v with held := setDel v.held h })).endLease t
      s.gridJoin h t

/-! Purges -/

/-- Slots of a queue that hold records, by IA. -/
def Queue.slots (q : Queue) : List Nat := (List.range ((q.tail + q.size - q.head) % q.size)).map (fun i => q.base + 64 * ((q.head + i) % q.size))

/-- Records of keys under purge that queues hold are found, counted, and marked to be skipped (R408, R413). -/
def State.findQueued (s : State) : State :=
  if s.purges.all Purge.seen then s
  else
    let s := (s.purges.filter (fun p => !p.seen)).foldl (fun (s : State) p =>
      let slots := (List.range 128).flatMap (fun i => let q := s.queue p.vi i; if q.en then q.slots else [])
      let mine := slots.filter (fun a => decide (leNat (s.devBytes (a + 44) 2) = p.tag.toNat) && !s.doomed.contains (a, p.tag))
      { s with doomed := mine.map (fun a => (a, p.tag)) ++ s.doomed
               purges := s.purges.map (fun q => if q.vi = p.vi && q.tag = p.tag then { q with count := q.count + mine.length } else q) }) s
    { s with purges := s.purges.map (fun p => { p with seen := true }) }

/-- The event PURGE (R390, R408): a write to the PURGE register. -/
def execPurge (s : State) : Host.Outcome State Fault Refusal :=
  .next (if s.pageOpen s.arg.vi then s.startPurge s.arg.vi s.arg.tag 3 0 else s)

/-- Is something of a key still there (R408)? -/
def State.purgeLeft (s : State) (vi : Nat) (tag : BitVec 16) : Bool :=
  s.tasks.any (fun e => e.2.tr.vi = vi && e.2.tr.tag = tag) ||
  s.blocks.any (fun e => e.2.vi = vi && e.2.tag = tag && e.2.st != .gone && !e.2.service) ||
  s.cores.any (fun c => c.2.cmds.any (fun m => m.2.vi = vi && m.2.tag = tag && !m.2.service)) ||
  s.sends.any (fun e => e.2.fromVi = vi && e.2.tag = tag) ||
  s.fabric.reqs.any (fun e => e.2.vi = vi && e.2.tag = tag) ||
  s.dies.any (fun d => d.2.batches.any (fun e => e.2.vi = vi && e.2.tag = tag))

/-- The event PURGE_REPORT (R409): the kind-3 event, after which the key is usable again. -/
def execPurgeReport (s : State) : Host.Outcome State Fault Refusal :=
  match s.purges.find? (fun p => p.vi = s.arg.vi && p.tag = s.arg.tag) with
  | none => .next s
  | some p =>
    if s.purgeLeft p.vi p.tag then .next s
    else .next ({ s with purges := s.purges.filter (· ≠ p) }.event p.vi 3 p.code p.tag 0 (BitVec.ofNat 64 p.ia) (BitVec.ofNat 64 p.count))

end Sys2Proof.Machine
end

