-- ==== Sys2Proof/Machine/Records.lean ====
section
/-!
DEFINITION. Configuration records of the non-volatile store (R463, R464), the status of boot (R466), the device page (R468), and attestation
reports (R467).
-/

namespace Sys2Proof.Machine

/-! Records -/

/-- Do both keys match their digests and both signatures verify (R463)? -/
def sigOk (c : SigCheck) : Bool := c.edKey && c.edSig && c.mlKey && c.mlSig

/-- TYPE of a record (R463). -/
def cfgType (r : CfgRecord) : Nat := dfld r.bytes 4 2
/-- LEN. -/
def cfgLen (r : CfgRecord) : Nat := dfld r.bytes 6 2
/-- VERSION. -/
def cfgVersion (r : CfgRecord) : Nat := dfld r.bytes 8 8
/-- The body. -/
def cfgBytes (r : CfgRecord) : List Byte := (r.bytes.drop 16).take (cfgLen r)
/-- Has a record the form of R463: its magic, and room for its body and both signatures? -/
def cfgFormed (r : CfgRecord) : Bool :=
  decide (r.bytes.take 4 = [0x4B, 0x43, 0x46, 0x47]) && decide (r.bytes.length = 16 + cfgLen r + 64 + 3309)

/-- A configuration record's body is within its limits (R463, R464). -/
def cfgBody (type : Nat) (body : List Byte) : Bool :=
  let n := leNat body
  decide (8 ≤ body.length) && decide (body.length ≤ 1024) &&
  (match type with
   | 1 =>
     let dies := bitsOf n 0 6
     let slices (d : Nat) := bitsOf n (14 + 49 * d) 16
     let cores (d : Nat) := bitsOf n (30 + 49 * d) 33
     dies ≠ 0 && bitsOf n 6 8 ≠ 0 && (List.range 6).all (fun d => !dies.testBit d || (slices d ≠ 0 && (cores d).testBit 32))
   | 2 => bitsOf n 13 2 = 0
   | 3 => decide (1 ≤ n) && decide (n ≤ 600)
   | 4 => decide (1 ≤ n) && decide (n ≤ 168)
   | 5 => true
   | 6 => decide (1 ≤ bitsOf n 0 64) && decide (bitsOf n 0 64 ≤ 64)
   | 7 => decide (1500 ≤ n) && decide (n ≤ 3400)
   | _ => false)

/-- Is a record accepted (R463, R464)? -/
def cfgAccepted (st : BootStore) (r : CfgRecord) : Bool :=
  cfgFormed r && sigOk r.sig && decide (st.rollback.get (cfgType r) 0 ≤ cfgVersion r) && cfgBody (cfgType r) (cfgBytes r)

/-- The record of a type that applies: the accepted one with the highest version (R463). -/
def cfgApplies (st : BootStore) (type : Nat) : Option CfgRecord :=
  (st.records.filter (fun r => cfgType r = type && cfgAccepted st r)).foldl (fun (acc : Option CfgRecord) r => match acc with
    | none => some r
    | some b => if cfgVersion b < cfgVersion r then some r else some b) none
/-- Its body as a number. -/
def cfgOf (st : BootStore) (type : Nat) : Option Nat := (cfgApplies st type).map (fun r => leNat (cfgBytes r))

/-! The device page -/

/-- DEVSTAT (R466). -/
def Boot.devstat (b : Boot) : Dword :=
  BitVec.ofNat 64 (bit1 b.err + 2 * bit1 b.nolive + 4 * bit1 b.cfbad + 8 * bit1 b.ready + 256 * b.step + 65536 * b.detail.toNat)

/-- The device page of a head's physical function (R466, R468): FEATOFF, FEATACC, DEVSTAT. -/
def Boot.devicePage (b : Boot) : List Byte := leBytes 32 b.offered.toNat ++ leBytes 32 b.featacc.toNat ++ leBytes 8 b.devstat.toNat

/-! Attestation -/

/-- The report of a nonce (R467): the digests of the running image and of every record that applies, both signatures. -/
def State.reportOf (s : State) (nonce : BitVec 128) : Report :=
  let image := Config.imageDigest s.bridge.image
  let records := ([1, 2, 3, 4, 5, 6, 7].filterMap (cfgApplies s.boot.store)).map (fun r => Config.sha384 r.bytes)
  { nonce := nonce, image := image, records := records, ed := Config.signEd nonce image records, ml := Config.signMl nonce image records }

/-- The reports that a batch of function 0x0001 leaves under the handles its reply gives, lane by lane (R427, R467). -/
def State.attest (s : State) (q : Batch) (results : List (BitVec 192 × Word)) : State :=
  if q.fn = 1 then (lanesOf q.active).foldl (fun s l =>
    let h := results.getD l (0, 0)
    if h.2 = 0 then { s with reports := s.reports.set h.1.toNat (s.reportOf (q.args.get l 0)) } else s) s
  else s

end Sys2Proof.Machine
end

