-- ==== Sys2Proof/Machine/Keeper.lean ====
section
/-!
DEFINITION. The interrupt keeper and its forms: vectors, permissions, bindings, the interrupt area, sends, UISEND, UIWAIT,
UIACK, UIHDL (R175, R176, R431 to R442), and the change of RUN of a virtual interface (R391, R401, R431).
-/

namespace Sys2Proof.Machine

/-! The interrupt area -/

/-- The address of a vector entry (R431). -/
def Vi.vecAt (v : Vi) (n : Nat) : Nat := v.uibase.toNat + 0x2000 + 128 * n

/-- The configuration of a vector as its entry holds it. -/
def vecConfig (d : List Byte) (x : Vec) : Vec :=
  let f := dfld d 70 1
  { x with mask := f / 2 % 2 = 1, wake := f / 4 % 2 = 1, resume := f / 8 % 2 = 1, mode := BitVec.ofNat 2 (dfld d 71 1 % 4), wakeRec := d.take 64 }
/-- The live part of a vector as its entry holds it. -/
def vecLive (d : List Byte) (x : Vec) : Vec :=
  { x with pend := dfld d 70 1 % 2 = 1, payload := BitVec.ofNat 32 (dfld d 64 4), count := BitVec.ofNat 16 (dfld d 68 2),
           t := BitVec.ofNat 64 (dfld d 72 8) }

/-- A permission entry (R431). -/
def permOf (d : List Byte) : Perm :=
  let k := dfld d 0 1
  { kind := BitVec.ofNat 2 (k % 4), any := k / 4 % 2 = 1, vi := BitVec.ofNat 6 (dfld d 1 1 % 64), tag := BitVec.ofNat 16 (dfld d 2 2),
    dev := BitVec.ofNat 32 (dfld d 4 4), vecs := BitVec.ofNat 64 (dfld d 8 8) }

/-- A binding as the area holds it (R431). -/
def bindingOf (d : List Byte) : Option Binding :=
  let b := dfld d 12 1
  if 128 ≤ b then some { task := dfld d 0 4, ix := dfld d 4 4, iy := dfld d 8 2, iz := dfld d 10 2, wf := b % 64 } else none
/-- The 13 bytes of a binding. -/
def bindingBytes (b : Option Binding) : List Byte :=
  match b with
  | some b => leBytes 4 b.task ++ leBytes 4 b.ix ++ leBytes 2 b.iy ++ leBytes 2 b.iz ++ leBytes 1 (b.wf % 64 + 128)
  | none => leBytes 13 0

/-- Reads a permission entry from the area. -/
def State.readPerm (s : State) (vi i : Nat) : Perm := permOf (s.devBytes ((s.vi vi).uibase.toNat + 0x1000 + 16 * i) 16)

/-- Writes bytes of the interrupt area. -/
def State.areaWrite (s : State) (vi ia : Nat) (bs : List Byte) : State := (s.devWrite ia bs s.h false (vi, 0)).1

/-- One change brought into the area (R431): only the bytes and the bit that changed. -/
def State.areaPut (s : State) (vi i : Nat) : State :=
  let v := s.vi vi
  if v.uibase = 0 then s
  else if i = 0 then s.areaWrite vi v.uibase.toNat (bindingBytes v.bind)
  else
    let n := i / 2
    let x := v.vecs.get n {}
    let at' := v.vecAt n
    let f := (s.devByte (at' + 70)).toNat
    if i % 2 = 1 then s.areaWrite vi (at' + 70) (leBytes 1 (f / 4 * 4 + 2 * bit1 x.mask + f % 2))
    else
      let s := s.areaWrite vi (at' + 64) (leBytes 4 x.payload.toNat ++ leBytes 2 x.count.toNat ++ leBytes 1 (f / 2 * 2 + bit1 x.pend))
      s.areaWrite vi (at' + 72) (leBytes 8 x.t.toNat)

/-- The line of the area that a change is written to. -/
def Vi.areaLine (v : Vi) (i : Nat) : Nat := (if i = 0 then v.uibase.toNat else v.vecAt (i / 2)) / 128
/-- A change brought into the area once the home of its line can take it; until then it stays noted (R420, R431). -/
def State.areaStep (s : State) (vi i : Nat) : State :=
  let line := (s.vi vi).areaLine i
  if (s.vi vi).uibase = 0 || s.devReady line s.h then (s.areaPut vi i).modVi vi (fun v => { v with areaDirty := setDel v.areaDirty i })
  else (s.devAsk line s.h).modVi vi (fun v => { v with areaDirty := setAdd v.areaDirty i })

/-- Notes a change for the area while RUN = 0 (R431). -/
def State.areaNote (s : State) (vi i : Nat) : State :=
  if (s.vi vi).run then s else s.modVi vi (fun v => { v with areaDirty := setAdd v.areaDirty i })

/-- Writes every noted change that can be written. -/
def State.areaFlush (s : State) (vi : Nat) : State := (s.vi vi).areaDirty.foldr (fun i s => s.areaStep vi i) s

/-- The event KEEPER_AREA_WRITE (R431). -/
def execKeeperAreaWrite (s : State) : Host.Outcome State Fault Refusal :=
  let vi := s.arg.vi
  if (s.vi vi).areaDirty.contains s.arg.index then .next (s.areaStep vi s.arg.index) else .next s

/-- A vector as the keeper holds it. -/
def State.heldVec (s : State) (vi n : Nat) : Vec := (s.vi vi).vecs.get n {}
/-- A vector with the configuration that a send or a WakeUp takes: the keeper's while RUN = 1, the area's otherwise (R431). -/
def State.vec (s : State) (vi n : Nat) : Vec :=
  let v := s.vi vi
  let x := s.heldVec vi n
  if v.run || v.uibase = 0 then x
  else
    let y := vecConfig (s.devBytes (v.vecAt n) 128) x
    if v.areaDirty.contains (2 * n + 1) then { y with mask := x.mask } else y

/-- A vector replaced. -/
def State.setVec (s : State) (vi n : Nat) (x : Vec) : State := s.modVi vi (fun v => { v with vecs := v.vecs.set n x })

/-! Bindings -/

/-- The block of a binding. -/
def State.boundBlock (s : State) (vi : Nat) : Option (Nat × Block) :=
  (s.vi vi).bind.bind (fun b => s.blocks.find? (fun e =>
    e.2.st != .gone && e.2.vi = vi && e.2.task = b.task && e.2.ix = b.ix && e.2.iy = b.iy && e.2.iz = b.iz))

/-- Is the bound block resident (R434)? -/
def State.boundResident (s : State) (vi : Nat) : Option (Nat × Nat) :=
  (s.boundBlock vi).bind (fun e => if e.2.st = .resident && !e.2.ending then (s.vi vi).bind.map (fun b => (e.1, b.wf)) else none)

/-- Is the fibre its VI's bound handler? -/
def State.isHandler (s : State) (r : FRef) : Bool :=
  !(s.block r.blk).service && s.boundResident (s.block r.blk).vi == some (r.blk, 4 * r.warp + r.fib)
/-- Is the fibre its block's vector-0 handler (R441)? -/
def State.isHandler0 (s : State) (r : FRef) : Bool := (s.block r.blk).vec0H == some (4 * r.warp + r.fib)

/-! RUN -/

/-- Reads the interrupt area when RUN rises (R431). -/
def State.loadArea (s : State) (vi : Nat) : State :=
  let v := s.vi vi
  if v.uibase = 0 then s
  else
    let vec (n : Nat) : Vec := let d := s.devBytes (v.vecAt n) 128; vecLive d (vecConfig d {})
    let vecs := (List.range 63).map (fun i => (i + 1, vec (i + 1)))
    let perms := (List.range 256).map (fun i => (i, s.readPerm vi i))
    let b := bindingOf (s.devBytes v.uibase.toNat 16)
    s.modVi vi (fun v => { v with vecs := vecs, perms := perms, bind := b })

/-- Writes live parts, MASK bits and the binding when RUN falls (R431). -/
def State.storeArea (s : State) (vi : Nat) : State :=
  let is := 0 :: (List.range 126).map (· + 2)
  is.foldl (fun s i => s.areaStep vi i) s

/-- Can what is read as RUN rises be read: the interrupt area, with every change of it written, and the queue table (R391, R431)? -/
def State.startReady (s : State) (vi : Nat) : Bool :=
  let v := s.vi vi
  (v.uibase = 0 || (v.areaDirty.isEmpty && s.readable v.uibase.toNat 0x4000)) && (!v.drained || s.readable v.qtbase.toNat 4096)

/-- The change of RUN from 0 to 1, once what it reads can be read (R391, R401, R419, R431). Queues not yet written back by the drain are
still Grinder's: a table that such a RUN reads afresh would be stale (DEDUCED, unsafe, log 37). -/
def State.tryStart (s : State) (vi : Nat) : State :=
  if !(s.vi vi).starting then s
  else
    let s := if (s.vi vi).uibase = 0 then s else s.areaFlush vi
    let v := s.vi vi
    if s.startReady vi then
      let qs : Map Queue := if v.drained then
          (List.range 128).map (fun p => (p, { queueOf (s.devBytes (v.entryAt p) 32) with headAt := s.now })) else v.queues
      (s.loadArea vi).modVi vi (fun v => { v with run := true, starting := false, drained := false, queues := qs })
    else
      let s := if v.uibase = 0 then s else s.readAsk v.uibase.toNat 0x4000
      if v.drained then s.readAsk v.qtbase.toNat 4096 else s

/-- RUN := 1 (R391, R401, R431). -/
def State.startVi (s : State) (vi : Nat) : State :=
  let v := s.vi vi
  if v.run || v.starting then s
  else (s.modVi vi (fun v => { v with starting := true, drainAt := none, force := false })).tryStart vi

/-- RUN := 0 (R401, R431): the drain begins. -/
def State.stopVi (s : State) (vi : Nat) (force : Bool) : State :=
  let v := s.vi vi
  let s := if v.run || v.starting then
      (if v.run then s.storeArea vi else s).modVi vi (fun v => { v with
        run := false, starting := false, drainAt := if v.drained then none else some s.now })
    else s
  s.modVi vi (fun v => { v with force := v.force || force })

/-- The event VI_RESUME (R401): RUN is written 1. -/
def execViResume (s : State) : Host.Outcome State Fault Refusal := .next (if s.pageOpen s.arg.vi then s.startVi s.arg.vi else s)
/-- The event VI_PREEMPT (R401): RUN is written 0. -/
def execViPreempt (s : State) : Host.Outcome State Fault Refusal := .next (if s.pageOpen s.arg.vi then s.stopVi s.arg.vi false else s)

/-! Sends -/

/-- Who sends: a local context, a peer device, or a host PASID (R433). -/
inductive Sender where
  | context (vi : Nat) (tag : BitVec 16)
  | peer (dev vi : Nat)
  | host (pasid : Nat)
deriving DecidableEq, Repr

/-- Does a permission entry match a sender (R431, R433)? -/
def Perm.fits (p : Perm) (x : Sender) : Bool :=
  match x with
  | .context vi tag => p.kind == 1 && p.vi.toNat == vi && (p.any || p.tag == tag)
  | .peer dev vi => p.kind == 2 && p.dev.toNat % 2 ^ 13 == dev && (p.any || p.vi.toNat == vi)
  | .host pasid => p.kind == 3 && p.dev.toNat % 2 ^ 20 == pasid

/-- Permitted of R437: the first entry that matches decides. -/
def State.permits (s : State) (vi : Nat) (x : Sender) (v : Nat) : Bool :=
  let own := match x with | .context w _ => w == vi | _ => false
  own ||
    (let perm (i : Nat) : Perm := if (s.vi vi).run then (s.vi vi).perms.get i {} else s.readPerm vi i
     match ((List.range 256).map perm).find? (fun p => p.fits x) with
     | some p => p.vecs.getLsbD v
     | none => false)

/-- Can the keeper read a vector's entry now? While RUN = 1 it holds it (R431). -/
def State.vecReady (s : State) (vi n : Nat) : Bool :=
  let v := s.vi vi
  v.run || v.uibase = 0 || s.readable (v.vecAt n) 128

/-- Can a submission to a VI be placed now: of a drained one, the entry of its queue is read from the table (R391)? -/
def State.submitReady (s : State) (vi : Nat) (d : List Byte) : Bool :=
  let v := s.vi vi
  !v.drained || s.readable (v.entryAt (taskRec d).prio) 32

/-- WakeUp of R437. -/
def State.wakeUp (s : State) (vi n : Nat) : State :=
  let x := s.vec vi n
  let s := s.submit vi x.wakeRec x.t
  if x.resume && (s.vi vi).wakeok && !(s.vi vi).run then s.startVi vi else s

/-- WakeUp of a pending vector that is unmasked and has WAKE, once the entry and the queue can be read (R419, R437). -/
def State.wakeOne (s : State) (vi n : Nat) : State :=
  let x := s.vec vi n
  if !(s.heldVec vi n).pend then s.modVi vi (fun v => { v with wakes := setDel v.wakes n })
  else if !s.vecReady vi n then (s.readAsk ((s.vi vi).vecAt n) 128).modVi vi (fun v => { v with wakes := setAdd v.wakes n })
  else if x.mask || !x.wake then s.modVi vi (fun v => { v with wakes := setDel v.wakes n })
  else if !s.submitReady vi x.wakeRec then
    (s.readAsk ((s.vi vi).entryAt (taskRec x.wakeRec).prio) 32).modVi vi (fun v => { v with wakes := setAdd v.wakes n })
  else (s.modVi vi (fun v => { v with wakes := setDel v.wakes n })).wakeUp vi n

/-- A VI's binding has become non-resident or none: pending unmasked vectors with WAKE call WakeUp once (R437). -/
def State.unbound (s : State) (vi : Nat) : State := ((List.range 63).map (· + 1)).foldl (fun s n => s.wakeOne vi n) s

/-- What waited for the host at the keeper goes on: rises of RUN, and WakeUps (R419, R431, R437). -/
def State.settleKeeper (s : State) : State :=
  s.vis.foldl (fun s e => e.2.wakes.foldl (fun s n => s.wakeOne e.1 n) (s.tryStart e.1)) s

/-- The binding of a block that is freed, ends or is purged is cleared (R434). -/
def State.clearBinding (s : State) (blk : Nat) : State :=
  let b := s.block blk
  match s.boundBlock b.vi with
  | some e => if e.1 = blk then ((s.modVi b.vi (fun v => { v with bind := none })).areaNote b.vi 0).unbound b.vi else s
  | none => s

/-- A payload merged by MODE (R431, R437). -/
def mergePayload (mode : BitVec 2) (a p : Word) : Word :=
  if mode = 0 then a ||| p else if mode = 1 then BitVec.ofNat 32 (min (a.toNat + p.toNat) (2 ^ 32 - 1)) else p

/-- Accept of R437: the state after the send and the answer. -/
def State.acceptSend (s : State) (vi n : Nat) (p : Word) (ts : Time) (x : Sender) : State × Bool :=
  let v := s.vi vi
  let y := s.vec vi n
  if v.uibase = 0 || n = 0 || decide (63 < n) || y.mode = 3 || !s.permits vi x n then
    (s.modVi vi (fun v => { v with uirefuse := if v.uirefuse = 0xFFFFFFFF then v.uirefuse else v.uirefuse + 1 }), false)
  else
    let was := y.pend
    let z : Vec := { y with payload := mergePayload y.mode y.payload p, count := if y.count = 0xFFFF then y.count else y.count + 1,
                            t := tmax y.t ts, pend := true }
    let s := (s.setVec vi n z).areaNote vi (2 * n)
    if was then (s, true)
    else match s.boundResident vi with
      | some (blk, wf) => (s.poke blk wf, true)
      | none => (if !y.mask && y.wake then s.wakeOne vi n else s, true)

/-- Can the keeper perform a send now: while RUN = 0 it reads the vector's entry, and the permissions where they decide (R419, R431)? -/
def State.sendReady (s : State) (vi n : Nat) (x : Sender) : Bool :=
  let v := s.vi vi
  let own := match x with | .context w _ => w == vi | _ => false
  v.run || v.uibase = 0 || n = 0 || decide (63 < n) || (s.readable (v.vecAt n) 128 && (own || s.readable (v.uibase.toNat + 0x1000) 4096))
/-- Asks the host for what such a send waits for. -/
def State.sendAsk (s : State) (vi n : Nat) : State :=
  (s.readAsk ((s.vi vi).vecAt n) 128).readAsk ((s.vi vi).uibase.toNat + 0x1000) 4096

/-- The answer of a send reaches its fibre. -/
def State.answerSend (s : State) (q : Send) (ok : Bool) : State :=
  (s.modWarp q.ref.blk q.ref.warp (fun w => { w with pend := w.pend.erase q.pend })).landEff q.ref (.upred q.q ok)

/-- The event SEND_ACCEPT (R436, R437): sends of one fibre to one VI go in order. -/
def execSendAccept (s : State) : Host.Outcome State Fault Refusal :=
  let id := s.arg.id
  match s.sends.find id with
  | none => .next s
  | some q =>
    if s.sends.any (fun e => decide (e.1 < id) && e.2.ref = q.ref && e.2.vi = q.vi) then .next s
    else if !s.sendReady q.vi q.vec (.context q.fromVi q.tag) then .next (s.sendAsk q.vi q.vec)
    else
      let (s, ok) := { s with sends := s.sends.erase id }.acceptSend q.vi q.vec q.payload q.ts (.context q.fromVi q.tag)
      .next (s.answerSend q ok)

/-- Sends of keys under purge that are not performed yet are discarded and answered false (R442). -/
def State.dropSends (s : State) : State :=
  let mine := s.sends.filter (fun e => s.purging e.2.fromVi e.2.tag)
  mine.foldl (fun s e => { s with sends := s.sends.erase e.1 }.answerSend e.2 false) s

/-- The vector a field names. -/
def Ctx.vecNum (c : Ctx) (o : Operand) : Nat :=
  match o with | .sp (.vec n) => n.toNat | _ => c.va 0

/-- UISEND (R436). -/
def execUisend (f : Ins) (s : State) := sysOp .uisend f s (fun c =>
  let b := c.blk
  let target := c.vb 0 % 2 ^ 32
  let q := upredDest f.d
  if 64 ≤ target then c.ill
  else c.release .d (fun s =>
    let id := (s.warp c.r.blk c.r.warp).nextPend
    let s := c.retire s
    let s := s.addPend c.r { fib := c.r.fib, dq := if q = 15 then [] else [q], entries := 1, since := s.now, body := .answer false }
    { s with
      sends := s.sends.set s.nextSend ⟨c.r, q, id, target, c.vecNum f.a, BitVec.ofNat 32 (c.vb 0 / 2 ^ 32), (s.fib c.r).ptime, b.vi, b.tag⟩
      nextSend := s.nextSend + 1 }))

/-- A write to UIDOOR by a PASID (R432, R433): a send at BT; refused and counted where user interrupts are withheld (R468). -/
def State.uidoor (s : State) (vi : Nat) (w : Dword) (pasid : Nat) : State :=
  if s.boot.featacc.getLsbD 4 then
    (s.acceptSend vi (w.toNat % 64) (BitVec.ofNat 32 (w.toNat / 2 ^ 32)) s.bridge.bt (.host (pasid % 2 ^ 20))).1
  else s.modVi vi (fun v => { v with uirefuse := if v.uirefuse = 0xFFFFFFFF then v.uirefuse else v.uirefuse + 1 })
/-- A write to a VI page that must wait for the host, with what it waits for asked of it: a send, a submission or PERMSYNC whose entries
the bridge lacks (R419). -/
def State.pageWaits (s : State) (vi off : Nat) (x : Dword) (pasid : Nat) : Option State :=
  let v := s.vi vi
  if off = 0x0D8 && s.boot.featacc.getLsbD 4 && !s.sendReady vi (x.toNat % 64) (.host (pasid % 2 ^ 20)) then some (s.sendAsk vi (x.toNat % 64))
  else if off = 0x0E0 && v.uibase ≠ 0 && !s.readable (v.uibase.toNat + 0x1000 + 16 * (x.toNat % 256)) 16 then
    some (s.readAsk (v.uibase.toNat + 0x1000 + 16 * (x.toNat % 256)) 16)
  else none

/-- The event UIDOOR. -/
def execUidoor (s : State) : Host.Outcome State Fault Refusal :=
  .next (if s.pageOpen s.arg.vi
    then (s.pageWaits s.arg.vi 0x0D8 s.arg.value s.arg.value2.toNat).getD (s.uidoor s.arg.vi s.arg.value s.arg.value2.toNat) else s)

/-- A write to PERMSYNC (R431): one permission entry is loaded again. -/
def State.permsync (s : State) (vi i : Nat) : State :=
  if (s.vi vi).uibase = 0 then s else s.modVi vi (fun v => { v with perms := v.perms.set (i % 256) (s.readPerm vi (i % 256)) })
/-- The event PERMSYNC. -/
def execPermsync (s : State) : Host.Outcome State Fault Refusal :=
  .next (if s.pageOpen s.arg.vi
    then (s.pageWaits s.arg.vi 0x0E0 (BitVec.ofNat 64 s.arg.index) 0).getD (s.permsync s.arg.vi s.arg.index) else s)

/-- A write to UIREFUSE clears it (R432). -/
def State.clearRefuse (s : State) (vi : Nat) : State := s.modVi vi (fun v => { v with uirefuse := 0 })
/-- The event UIREFUSE_CLEAR. -/
def execUirefuseClear (s : State) : Host.Outcome State Fault Refusal := .next (if s.pageOpen s.arg.vi then s.clearRefuse s.arg.vi else s)

/-! The handler's forms -/

/-- The vectors deliverable to a fibre (R438). -/
def State.deliverable (s : State) (r : FRef) : Nat :=
  let b := s.block r.blk
  let own := if s.isHandler r then
      ((List.range 63).map (· + 1)).foldl (fun a n => let x := s.heldVec b.vi n; if x.pend && !x.mask then a + 2 ^ n else a) 0 else 0
  own + (if s.isHandler0 r && b.vec0.pend then 1 else 0)

/-- UIWAIT (R438). -/
def execUiwait (f : Ins) (s : State) := sysOp .uiwait f s (fun c =>
  if !c.s.isHandler c.r && !c.s.isHandler0 c.r then c.ill
  else
    let v := c.s.deliverable c.r
    if v = 0 && !c.fib.trap then c.stall c.s
    else c.finish { effs := destEffs c.d 2 0 v })

/-- The result of an acknowledgement (R439). -/
def ackValue (x : Vec) : Nat := x.payload.toNat + bit1 x.pend * 2 ^ 32 + x.count.toNat * 2 ^ 48

/-- UIACK (R439). -/
def execUiack (f : Ins) (s : State) := sysOp .uiack f s (fun c =>
  let n := c.vecNum f.a
  let vi := c.blk.vi
  if 63 < n || (n = 0 && !c.s.isHandler0 c.r) || (n ≠ 0 && !c.s.isHandler c.r) then c.ill
  else if n = 0 then
    let x := c.blk.vec0
    (c.finish { effs := destEffs c.d 2 0 (ackValue x) }).modBlock c.r.blk (fun b => { b with vec0 := {} })
  else
    let x := c.s.heldVec vi n
    if c.s.memHeld c.r true then c.stall c.s
    else
      let s := c.finish { effs := destEffs c.d 2 0 (ackValue x) }
      let s := if x.pend then s.modFib c.r (fun y => { y with ptime := tmax y.ptime x.t }) else s
      (s.setVec vi n { x with pend := false, payload := 0, count := 0 }).areaNote vi (2 * n))

/-- The warp and fibre that UIHDL names; none outside the block or its layout. -/
def Ctx.handlerNum (c : Ctx) : Option Nat :=
  let w := c.vb 0 / 4 % 16
  let i := c.vb 0 % 4
  if w < c.blk.warps.length ∧ i < c.blk.nf then some (4 * w + i) else none

/-- UIHDL.vi (R440). -/
def execUihdlVi (f : Ins) (s : State) := sysOp .uihdlVi f s (fun c =>
  let b := c.blk
  match c.handlerNum with
  | none => c.ill
  | some wf =>
    let s := (c.retire c.s).modVi b.vi (fun v => { v with bind := some { task := b.task, ix := b.ix, iy := b.iy, iz := b.iz, wf := wf } })
    s.areaNote b.vi 0)

/-- UIHDL.blk (R440, R441). -/
def execUihdlBlk (f : Ins) (s : State) := sysOp .uihdlBlk f s (fun c =>
  match c.handlerNum with
  | none => c.ill
  | some wf => (c.retire c.s).modBlock c.r.blk (fun x => { x with vec0H := some wf }))

/-- UIHDL.mask (R437, R440): clearing MASK of a pending, non-resident vector with WAKE calls WakeUp; of a pending one whose handler is
resident it ends the handler's episode, since the vector becomes deliverable (R219, R438; DEDUCED, safe, log 93). -/
def execUihdlMask (f : Ins) (s : State) := sysOp .uihdlMask f s (fun c =>
  let vi := c.blk.vi
  let m := c.vb 0
  ((List.range 63).map (· + 1)).foldl (fun s n =>
    let x := s.heldVec vi n
    let on := m.testBit n
    if on = x.mask then s
    else
      let s := (s.setVec vi n { x with mask := on }).areaNote vi (2 * n + 1)
      match s.boundResident vi with
      | some (blk, wf) => if !on && x.pend then s.modFib ⟨blk, wf / 4, wf % 4⟩ Fibre.endRunahead else s
      | none => if !on && x.pend then s.wakeOne vi n else s) (c.retire c.s))

end Sys2Proof.Machine
end

