-- ==== Sys2Proof/Machine/Grinder.lean ====
section
/-!
DEFINITION. Blocks come and go: where a block may be placed, admission of units in Grinder's order, the bypass limit, the
freeing of blocks, and what a purge removes (R146, R212, R224 to R228, R258, R300, R302, R319 to R321, R325, R392 to R394, R403,
R404, R408).
-/

namespace Sys2Proof.Machine

/-! Room on a core -/

/-- Blocks resident on a core. -/
def State.onCore (s : State) (c : Nat) : List (Nat × Block) := s.blocks.filter (fun e => e.2.st = .resident && e.2.core = c)
/-- Bytes of runahead shadows of a block (R212, R226). -/
def Block.shadow (b : Block) : Nat := b.warps.length * (4 * b.width) * b.ras.sum
/-- Spans and shadows of the unified store that a block holds, none of them empty (R225, R226). -/
def Block.spans (b : Block) : List (Nat × Nat) :=
  ([(b.rbase, b.rbase + b.rspan), (b.sbase, b.sbase + b.sspan)] ++ b.shadows).filter (fun x => decide (x.1 < x.2))
/-- Bytes of the store that the blocks of a core hold. -/
def State.usedOn (s : State) (c : Nat) : Nat := ((s.onCore c).map (fun e => e.2.rspan + e.2.sspan + e.2.shadow)).sum
/-- Spans taken on a core. -/
def State.takenOn (s : State) (c : Nat) : List (Nat × Nat) := (s.onCore c).flatMap (fun e => e.2.spans)
/-- Accumulator banks free on a core. -/
def State.freeBanks (s : State) (c : Nat) : List Nat := [0, 1].filter (fun k => !(s.onCore c).any (fun e => e.2.banks.contains k))
/-- Warp slots taken on a core. -/
def State.slotsOn (s : State) (c : Nat) : List Nat := (s.onCore c).flatMap (fun e => e.2.warps.map Warp.slot)

/-- The slot for the next warp (R302): in the quadrant with the fewest occupied slots, the lowest free one. -/
def nextSlot (taken : List Nat) : Nat :=
  let n (q : Nat) : Nat := (taken.filter (fun k => k / 4 = q)).length
  let q := [1, 2, 3].foldl (fun best q => if n q < n best then q else best) 0
  (((List.range 4).map (4 * q + ·)).find? (fun k => !taken.contains k)).getD (4 * q)
/-- Slots for `n` warps in ascending order (R302). -/
def pickSlots (taken : List Nat) (n : Nat) : List Nat :=
  match n with
  | 0 => []
  | k + 1 => let x := nextSlot taken; x :: pickSlots (x :: taken) k

/-- The hardware cluster of a user core (R323). -/
def hwCluster (c : Nat) : Nat := c / 33 * 4 + c % 33 / 8
/-- Barrier sets in use in a hardware cluster: one for each resident cluster (R325). -/
def State.setsUsed (s : State) (hc : Nat) : Nat :=
  ((s.blocks.filter (fun e => e.2.st = .resident && decide (e.2.core % 33 < 32) && hwCluster e.2.core = hc)).map (fun e => e.2.clusterKey)).eraseDups.length

/-- Are the table and codebook numbers that the slot of a saved block names free on the core (R269)? -/
def State.tablesFree (s : State) (b : Block) (core : Nat) : Bool :=
  match b.saveSlot with
  | none => true
  | some k =>
    let mask := leNat (s.devBytes ((s.vi b.vi).slotAddr k + 0x23000 + 16640 + 512) 8)
    let c := s.core core
    (List.range 4).all (fun n => !mask.testBit n || (c.tabOwner.find n).isNone) &&
    (List.range 16).all (fun n => !mask.testBit (4 + n) || (c.bookOwner.find n).isNone)

/-- May Grinder place the block on the core at all: in service, with slots, banks, room and its table numbers (R224, R269,
R410)? -/
def State.roomOn (s : State) (b : Block) (c : Nat) : Bool :=
  decide (c % 33 < 32) && s.coreOpen c && decide ((s.slotsOn c).length + b.warps.length ≤ Config.slots) &&
  decide (b.accN ≤ (s.freeBanks c).length) && decide (s.usedOn c + b.rspan + b.sspan ≤ Config.storeBytes - Config.l1Floor) &&
  !(s.onCore c).any (fun e => e.2.sameCluster b) && s.tablesFree b c

/-- Does a span of `n` bytes at `a` fit beside those taken? -/
def spanFits (taken : List (Nat × Nat)) (a n : Nat) : Bool :=
  n = 0 || (a % 4096 = 0 && decide (a + n ≤ Config.storeBytes) && taken.all (fun x => !spanMeet a (a + n) x.1 x.2))

/-- Is a placement of a block sound (R224, R225, R226)? -/
def State.placeOk (s : State) (b : Block) (p : Placement) : Bool :=
  s.roomOn b p.core && spanFits (s.takenOn p.core) p.rbase b.rspan &&
  spanFits ((p.rbase, p.rbase + b.rspan) :: s.takenOn p.core) p.sbase b.sspan

/-- Could some placement of the block on the core be sound? The spans are tried behind those taken, and behind each other. -/
def State.fitsOn (s : State) (b : Block) (c : Nat) : Bool :=
  let taken := s.takenOn c
  let at' := 0 :: taken.map (fun x => pageUp x.2)
  s.roomOn b c && at'.any (fun r => at'.any (fun q =>
    (spanFits taken r b.rspan && spanFits ((r, r + b.rspan) :: taken) q b.sspan) ||
    (spanFits taken r b.rspan && spanFits ((r, r + b.rspan) :: taken) (pageUp (r + b.rspan)) b.sspan) ||
    (spanFits taken q b.sspan && spanFits ((q, q + b.sspan) :: taken) (pageUp (q + b.sspan)) b.rspan)))

/-- The `n` highest bytes below `top` that no span holds, as intervals (R226; several where they do not lie together: DESIGN
CHOICE, safe, log 78). -/
def highestFree (taken : List (Nat × Nat)) (fuel top n : Nat) : List (Nat × Nat) :=
  match fuel with
  | 0 => []
  | k + 1 =>
    if n = 0 then []
    else match taken.find? (fun x => decide (x.1 < top) && decide (top ≤ x.2)) with
      | some x => highestFree taken k x.1 n
      | none =>
        let lo := (taken.filter (fun x => decide (x.2 < top))).foldl (fun m x => max m x.2) 0
        if n ≤ top - lo then [(top - n, top)] else (lo, top) :: highestFree taken k lo (n - (top - lo))

/-- A block at a placement: its slots, its lowest free banks, its shadows, and no reservation where the shadows would not fit (R212,
R226). -/
def State.placed (s : State) (b : Block) (p : Placement) : Block :=
  let slots := pickSlots (s.slotsOn p.core) b.warps.length
  let b := if Config.storeBytes - Config.l1Floor < s.usedOn p.core + b.rspan + b.sspan + b.shadow then { b with ras := b.ras.map (fun _ => 0) } else b
  let b := { b with rbase := p.rbase, sbase := if b.sspan = 0 then 0 else p.sbase, shadows := [] }
  let taken := b.spans ++ s.takenOn p.core
  { b with st := .resident, core := p.core, shadows := highestFree taken (2 * taken.length + 2) Config.storeBytes b.shadow,
           banks := (s.freeBanks p.core).take b.accN,
           warps := b.warps.zipIdx.map (fun e => { e.1 with slot := slots.getD e.2 0, fibs := e.1.fibs.zipIdx.map (fun f => { f.1 with raC := b.ras.getD f.2 0 }) }) }

/-- Could `n` blocks of this shape, of one cluster, be placed now (R325)? -/
def State.clusterFits (s : State) (b : Block) (n : Nat) : Bool :=
  s.hwClusters.any (fun cs => decide (s.setsUsed (hwCluster (cs.headD 0)) < 32) && decide (n ≤ (cs.filter (s.fitsOn b)).length))

/-- How many blocks of a shape a core could still hold, up to `n`. -/
def State.holds (s : State) (b : Block) (c n : Nat) : Nat :=
  match n with
  | 0 => 0
  | k + 1 =>
    let taken := s.takenOn c
    let at' := 0 :: taken.map (fun x => pageUp x.2)
    let tries := at'.flatMap (fun r => (pageUp (r + b.rspan) :: at').map (fun q => (⟨c, r, q⟩ : Placement)))
    match tries.find? (fun p => s.placeOk { b with task := 2 ^ 32 + n } p) with
    | some p => 1 + { s with blocks := s.blocks.set (s.nextBlk + n) (s.placed { b with task := 2 ^ 32 + n } p) }.holds b c k
    | none => 0

/-- Could a cooperative grid of blocks of this shape be placed whole now (R393)? -/
def State.gridFits (s : State) (b : Block) (n : Nat) : Bool :=
  let per (cs : List Nat) : Nat :=
    let hs := cs.map (fun c => s.holds b c 16)
    ((List.range 33).filter (fun k => decide (k * b.csize ≤ (hs.map (min k)).sum) && decide (k + s.setsUsed (hwCluster (cs.headD 0)) ≤ 32))).foldl max 0
  decide (n ≤ b.csize * (s.hwClusters.map per).sum)

/-! Save slots -/

/-- The lowest free save slot of a VI (R403). -/
def Vi.freeSlot (v : Vi) : Option Nat := (List.range (bitsOf v.savecfg.toNat 0 16)).find? (fun k => !v.slots.contains k)
/-- Free save slots of a VI. -/
def Vi.freeSlots (v : Vi) : Nat := bitsOf v.savecfg.toNat 0 16 - v.slots.length

/-- REASON of a slot header (R404). -/
def SaveReason.code (x : SaveReason) : Nat :=
  match x with
  | .none => 0 | .preempt => 1 | .tamper => 2 | .migrate => 3 | .group => 4

/-- The slot header of a block (R404). -/
def State.slotHeader (s : State) (b : Block) (state : Nat) : List Byte :=
  let iovf := b.banks.zipIdx.foldl (fun a e => a + (if ((s.core b.core).iovf.getD e.1 false) then 2 ^ e.2 else 0)) 0
  leBytes 1 state ++ leBytes 1 b.reason.code ++ leBytes 2 b.tag.toNat ++ leBytes 1 b.vi ++ leBytes 1 b.rank ++ leBytes 2 0 ++
    leBytes 4 b.ix ++ leBytes 2 b.iy ++ leBytes 2 b.iz ++ leBytes 4 b.task ++ leBytes 4 iovf ++ leBytes 8 b.epoch.toNat ++ leBytes 8 b.start.toNat ++
    leBytes 24 0

/-- The placement record of a block (R227). -/
def Block.placeRecord (b : Block) : List Byte :=
  leBytes 4 b.rbase ++ leBytes 4 b.rspan ++ leBytes 4 (if b.sspan = 0 then 0 else b.sbase) ++ leBytes 4 b.sspan ++ leBytes 4 b.p ++
    leBytes 1 b.width ++ leBytes 1 b.warps.length ++ leBytes 1 (b.core % 33) ++ leBytes 1 b.socket ++
    leBytes 1 (b.banks.map (2 ^ ·)).sum ++ leBytes 1 b.nf ++ leBytes 2 b.restores.toNat ++ leBytes 4 0

/-! The level-one lines of a region handed over -/

/-- Level-one lines of some cores, by core and key, that lie in the regions of the store about to be handed to blocks: which lines
those are no rule tells, so each may or may not (R234; a free choice, log 77). -/
def State.handed (s : State) (cores : List Nat) (n : Nat) : List (Nat × Nat) :=
  match cores with
  | [] => []
  | c :: cs =>
    let l := (s.core c).l1
    (l.zipIdx.filter (fun e => Config.freeBool (n + e.2))).map (fun e => (c, e.1.1)) ++ s.handed cs (n + l.length)
/-- The write-backs that must come first; none if no such line is dirty. -/
def State.handOver (s : State) (cores : List Nat) : Option State :=
  let dirt := (s.handed cores s.free).flatMap (fun e => match s.l1 e.1 e.2 with
    | some l => ((List.range 4).filter (fun k => (l.sec k).mine ≠ 0)).map (fun k => (e.1, e.2, k))
    | none => [])
  if dirt.isEmpty then none else some (dirt.foldl (fun s e => s.startWb e.1 e.2.1 e.2.2) s)
/-- The lines are dropped. -/
def State.dropHanded (s : State) (cores : List Nat) : State :=
  let s' := (s.handed cores s.free).foldl (fun (s : State) e => s.modCore e.1 (fun c => { c with l1 := c.l1.erase e.2 })) s
  { s' with free := s.free + (cores.map (fun c => (s.core c).l1.length)).sum }
/-- Cores that a list of placements names, each once. -/
def placeCores (ps : List Placement) : List Nat := (ps.map Placement.core).eraseDups

/-! Admission -/

/-- %srstate of a lane seeded with 0 (R35). -/
def seedZero (lane : Nat) : Word := srStore (BitVec.ofNat 32 (0x9E3779B9 * (lane + 1)))

/-- A fibre at launch (R146, R207). -/
def launchFibre (b : Block) (frame : Dword) (i : Nat) : Fibre :=
  { budget := b.budgets.getD i 8
    lanes := (List.range b.width).map (fun l => { pc := b.entries.getD i 0, sr := seedZero l })
    s := [(0, frame.setWidth 32), (1, (frame >>> 32).setWidth 32)]
    ptime := b.start, raC := b.ras.getD i 0, raOn := b.ras.getD i 0 ≠ 0, lead := b.allLanes, st := if i = 0 then .active else .ready }

/-- Block `i` of a task, as its unit gives it up (R392). -/
def Task.blockAt (t : Task) (h i : Nat) (start : Time) (svc : Bool) : Block :=
  let x := i % t.tr.gx
  { t.shape with
    service := svc, task := h, ix := x, iy := i / t.tr.gx % t.tr.gy, iz := i / t.tr.gx / t.tr.gy, rank := x % max 1 t.ker.c,
    start := start, vec0H := t.ker.handler, declH := t.ker.handler }

/-- The core notes a pair of VI and tag that it serves (R412). -/
def Core.serves (c : Core) (vi : Nat) (tag : BitVec 16) : Core :=
  let known := c.tlog.contains (vi, tag)
  { c with tvis := c.tvis ||| oneLane vi, tall := c.tall || (!known && decide (1024 ≤ c.tlog.length)),
           tlog := if known || decide (1024 ≤ c.tlog.length) then c.tlog else (vi, tag) :: c.tlog }

/-- Registers, scratchpad and banks of a block set to zero (R275, R319). -/
def State.zeroBlock (s : State) (b : Block) : State :=
  s.modCore b.core (fun c => { c with
    uni := (c.uni.clear b.rbase b.rspan).clear b.sbase b.sspan
    uniPoison := c.uniPoison.filter (fun w => !(b.spans.any (fun x => decide (x.1 ≤ 4 * w) && decide (4 * w < x.2))))
    acc := b.banks.foldl (fun m k => m.clear (k * Config.accBank) Config.accBank) c.acc
    accPoison := c.accPoison.filter (fun w => !b.banks.contains (4 * w / Config.accBank))
    iovf := c.iovf.mapIdx (fun i x => x && !b.banks.contains i) })

/-- A block takes its placement: its memory is zero, its fibres stand at their entries (R319). -/
def State.seat (s : State) (b : Block) (frame : Dword) (p : Placement) (slot : Option Nat) : State :=
  let b := s.placed b p
  let w : Warp := { fibs := (List.range b.nf).map (launchFibre b frame), active := some 0 }
  let b : Block := { b with saveSlot := slot, epoch := s.epoch, warps := b.warps.map (fun x => { w with slot := x.slot }) }
  let s := s.zeroBlock b
  { s with blocks := s.blocks.set s.nextBlk b, nextBlk := s.nextBlk + 1 }

/-- Admits one block at a placement (R319); none if a condition of R224 fails or its VI has no save slot. -/
def State.launch (s : State) (b : Block) (frame : Dword) (p : Placement) : Option State :=
  if !s.placeOk b p then none
  else match (s.vi b.vi).freeSlot with
    | none => none
    | some k =>
      let n := s.nextBlk
      let s := (s.seat b frame p (some k)).modCore p.core (fun c => c.serves b.vi b.tag)
      let b := s.block n
      let s := s.modVi b.vi (fun v => { v with slots := setAdd v.slots k })
      let s := (s.slotWrite n 0 (s.slotHeader b 1 ++ b.placeRecord ++ leBytes 32 0)).slotWrite n 0x27E00 (leBytes 512 0)
      match b.declH with
      | some f => if (s.boundBlock b.vi).isSome then some s
          else some ((s.modVi b.vi (fun v => { v with bind := some { task := b.task, ix := b.ix, iy := b.iy, iz := b.iz, wf := f } })).areaNote b.vi 0)
      | none => some s

/-- Blocks that the next unit of a task takes (R392): its grid, or a cluster. -/
def Task.unit (t : Task) : Nat := if t.tr.coop then t.total else max 1 t.ker.c

/-- Do the members of each cluster among blocks, given by cluster and placement, go to cores of one hardware cluster with a barrier
set free (R325, R326)? -/
def State.unitSound (s : State) (ms : List (Nat × Placement)) : Bool :=
  let keys := (ms.map Prod.fst).eraseDups
  let homes (k : Nat) : List Nat := ((ms.filter (fun e => e.1 = k)).map (fun e => hwCluster e.2.core)).eraseDups
  keys.all (fun k => decide ((homes k).length ≤ 1)) &&
  keys.all (fun k => (homes k).all (fun hc => decide (s.setsUsed hc + (keys.filter (fun j => (homes j).contains hc)).length ≤ 32)))

/-- Admits a unit of a task at placements, all of it or nothing (R325, R393); a start time may ask for a step of the horizon
(R380). -/
def State.launchUnit (s : State) (h : Nat) (t : Task) (ps : List Placement) : Option State :=
  let n := t.unit
  let start := tmax t.tr.stime s.h
  let each := (List.range n).map (fun i => (t.blockAt h (t.next + i) start t.service).clusterKey)
  if ps.length ≠ n || !s.unitSound (each.zip ps) then none
  else
    let keys := each.eraseDups
    let s := (s.dropHanded (placeCores ps)).noteTime start
    let s := { s with cbars := s.cbars.filter (fun e => !keys.contains (e.1 / 16)) }
    let s := if t.tr.coop then { s with dbars := s.dbars.filter (fun e => e.1 / 4 ≠ h) } else s
    (ps.zipIdx.foldl (fun acc p => acc.bind (fun s => s.launch (t.blockAt h (t.next + p.2) start t.service) t.tr.frame p.1)) (some s)).map
      (fun s => { s with tasks := s.tasks.set h { t with next := t.next + n, live := t.live + n, passedAt := none },
                         bypass := if s.bypass = some h then none else s.bypass })

/-- Effective priority of a task (R392). -/
def State.taskEp (s : State) (t : Task) : Nat := effPrio (s.vi t.tr.vi) t.tr.prio t.headAt s.now

/-- May a task give up units now: of a running VI, neither held nor ended nor under purge? One that is marked failed goes on (R174). -/
def State.offers (s : State) (t : Task) : Bool :=
  (s.vi t.tr.vi).run && !t.held && !t.ended && decide (t.next < t.total) && !s.purging t.tr.vi t.tr.tag

/-- Does the first task's unit go before the second's (R392)? -/
def State.offerBefore (s : State) (a b : Nat × Task) : Bool :=
  let x := s.taskEp a.2
  let y := s.taskEp b.2
  let u := (s.vi a.2.tr.vi).served
  let v := (s.vi b.2.tr.vi).served
  if x ≠ y then decide (y < x) else if u ≠ v then decide (u < v)
  else if a.2.takenAt ≠ b.2.takenAt then decide (a.2.takenAt < b.2.takenAt) else decide (a.1 < b.1)

/-- Does the next unit of a task fit anywhere now? -/
def State.unitFits (s : State) (t : Task) : Bool :=
  decide (t.unit ≤ (s.vi t.tr.vi).freeSlots) &&
  (if t.tr.coop then s.gridFits { t.shape with task := 2 ^ 32 } t.unit else s.clusterFits { t.shape with task := 2 ^ 32 } t.unit)

/-- Blocks that are saved together with a block: its cooperative grid, its cluster, or itself (R326, R393). -/
def State.groupOf (s : State) (blk : Nat) : List Nat :=
  let b := s.block blk
  (s.blocks.filter (fun e => e.1 = blk || (e.2.st != .gone && e.2.together b))).map Prod.fst

/-- May a block return now: saved or displaced, of a running VI (R392, R401)? -/
def State.mayReturn (s : State) (blk : Nat) : Bool :=
  let b := s.block blk
  (b.st == .saved || b.st == .displaced) && !b.ending && (s.vi b.vi).run

/-- The members of a block's group that a restore places, by block index and then by rank. -/
def State.returning (s : State) (blk : Nat) : List Nat :=
  let key (n : Nat) : Nat := let b := s.block n; (b.iz * 2 ^ 32 + b.iy) * 2 ^ 32 + b.ix
  ((s.groupOf blk).filter s.mayReturn).mergeSort (fun m n => decide (key m ≤ key n))

/-- Could a group that returns with a block be placed now (R326, R393)? -/
def State.groupFits (s : State) (e : Nat × Block) : Bool :=
  let n := (s.returning e.1).length
  if e.2.coop then s.gridFits { e.2 with task := 2 ^ 32 } n else s.clusterFits { e.2 with task := 2 ^ 32 } n
/-- Could a block in a landing slot be placed on a core of its die now (R357)? -/
def State.landingFits (s : State) (e : Nat × Block) : Bool :=
  e.2.st == .landing && !e.2.ending && (s.vi e.2.vi).run &&
  s.userCores.any (fun c => some (c / 33) == e.2.landing && decide (s.setsUsed (hwCluster c) < 32) && s.fitsOn { e.2 with task := 2 ^ 32 } c)
/-- Is there a block displaced by Tamper or MIGRATE that fits (R392)? -/
def State.displacedFit (s : State) : Bool :=
  s.blocks.any (fun e => s.landingFits e || (e.2.st == .displaced && s.mayReturn e.1 && s.groupFits e))

/-- Is a displaced, saved or landing block of a running VI able to go to some core (R357, R392)? -/
def State.restorable (s : State) : Bool :=
  s.displacedFit || s.blocks.any (fun e => e.2.st == .saved && s.mayReturn e.1 && s.groupFits e)

/-- A task put into a list in the order of the offers. -/
def State.insertOffer (s : State) (e : Nat × Task) (l : List (Nat × Task)) : List (Nat × Task) :=
  match l with
  | [] => [e]
  | x :: rest => if s.offerBefore e x then e :: x :: rest else x :: s.insertOffer e rest
/-- Tasks with units to offer, in the order of R392. -/
def State.offerList (s : State) : List (Nat × Task) := (s.tasks.filter (fun e => s.offers e.2)).foldl (fun l e => s.insertOffer e l) []

/-- Has the next unit of a task been passed over for 1 ms (R392)? -/
def State.passedOver (s : State) (e : Nat × Task) : Bool := s.bypass == some e.1 || e.2.passedAt.any (fun c => decide (c + ms 1 ≤ s.now))

/-- The state with some cores closed to admission. -/
def State.closedOn (s : State) (cs : List Nat) : State := cs.foldl (fun s c => s.modCore c (fun x => { x with tamper := .draining })) s

/-- The first unit in order that fits, with the cores reserved before it. A cooperative grid that does not fit reserves the cores that
could take a block of it (R393); a unit passed over for 1 ms bars units of lower EP (R392). -/
def State.firstUnit (s : State) (l : List (Nat × Task)) (kept : List Nat) (floor : Nat) : Option ((Nat × Task) × List Nat) :=
  match l with
  | [] => none
  | e :: rest =>
    if s.taskEp e.2 < floor then none
    else
      let open' := s.closedOn kept
      if open'.unitFits e.2 then some (e, kept)
      else
        let more := if e.2.tr.coop then s.userCores.filter (fun c => open'.fitsOn { e.2.shape with task := 2 ^ 32 } c) else []
        s.firstUnit rest (kept ++ more) (if s.passedOver e then s.taskEp e.2 else floor)

/-- The task whose new unit is offered next, with the cores kept from it (R392, R393). -/
def State.nextUnit (s : State) : Option ((Nat × Task) × List Nat) := s.firstUnit s.offerList [] 0

/-- Units of higher EP that a unit passes begin to count their time (R392). -/
def State.notePassed (s : State) (ep : Nat) : State :=
  { s with tasks := s.tasks.mapVal (fun _ t => if s.offers t && decide (ep < s.taskEp t) && t.passedAt.isNone then { t with passedAt := some s.now } else t) }

/-- The event BLOCK_ADMISSION (R234, R319, R325, R392, R393): the next unit in Grinder's order, at the placements of `arg`, once dirty
level-one sectors in the regions it takes have been written back. -/
def execBlockAdmission (s : State) : Host.Outcome State Fault Refusal :=
  if s.restorable then .next s
  else match s.nextUnit with
    | none => .next s
    | some ((h, t), kept) =>
      if s.arg.places.any (fun p => kept.contains p.core) then .next s
      else match s.launchUnit h t s.arg.places with
        | none => .next s
        | some u => match s.handOver (placeCores s.arg.places) with
          | some w => .next w
          | none => .next (u.notePassed (s.taskEp t))

/-- The event BYPASS_LIMIT (R392): the first unit in order that has been passed over for 1 ms holds back those of lower EP. -/
def execBypassLimit (s : State) : Host.Outcome State Fault Refusal :=
  let late := s.tasks.filter (fun e => s.offers e.2 && e.2.passedAt.any (fun c => decide (c + ms 1 ≤ s.now)))
  let best := late.foldl (fun acc e => match acc with
    | none => some e
    | some b => if s.offerBefore e b then some e else some b) (none : Option (Nat × Task))
  match best with
  | some e => .next { s with bypass := some e.1 }
  | none => .next s

/-! Freeing -/

/-- Are the engines of a block done: no command, no landing into it, no push into it, no reduction, no load, no arrival uncounted
(R259, R316, R320, R333, R356)? -/
def State.quiet (s : State) (blk : Nat) : Bool :=
  let b := s.block blk
  b.warps.all (fun w => w.pend.isEmpty && w.fibs.all (fun f => f.arrivals.isEmpty)) && !(s.core b.core).cmds.any (fun m => m.2.ref.blk = blk) &&
  !s.cores.any (fun c => c.2.cmds.any (fun m => m.2.started && m.2.targets.contains blk)) &&
  !(s.core b.core).kicks.any (fun q => match q.2.landing with | some x => x.fib.blk = blk | none => false) &&
  !s.remreds.any (fun e => e.2.ref.blk = blk) && !s.reqs.any (fun e => e.2.ref.blk = blk && !e.2.marked)

/-- Dirty sectors that name a slot of the block (R234). -/
def State.slotDirt (s : State) (blk : Nat) : List (Nat × Nat) :=
  let b := s.block blk
  s.sectors b.core (fun _ x => b.warps.any (fun w => (x.dirty ≠ 0 && x.slots.getLsbD w.slot) || (x.wb ≠ 0 && x.wbSlots.getLsbD w.slot)))

/-- Release(.d) on behalf of every fibre of a block, then the write-back of what names its slots; none when all is done (R234,
R249, R320, R394). -/
def State.releasing (s : State) (blk : Nat) : Option State :=
  let b := s.block blk
  let refs := b.refs blk
  let dirt := s.slotDirt blk
  if b.ending then (if dirt.isEmpty then none else some (dirt.foldl (fun s e => s.startWb b.core e.1 e.2) s))
  else if refs.all (fun r => s.releaseDone r .d) && dirt.isEmpty then none
  else
    let s := refs.foldl (fun s r =>
      let s := if (s.fib r).rel.isSome then s else s.modFib r (fun f => { f with rel := some (none, .d), relw := f.ptime })
      s.pumpRelease r .d) s
    some (dirt.foldl (fun s e => s.startWb b.core e.1 e.2) s)
/-- The ptimes after those releases. -/
def State.released (s : State) (blk : Nat) : State :=
  ((s.block blk).refs blk).foldl (fun s r => if (s.fib r).rel.isSome then s.endRelease r .d else s) s

/-- What a block owned on its core is given up: table and codebook slots, cleared, kick queues and presentations (R269, R356). -/
def State.releaseCore (s : State) (blk : Nat) : State :=
  let core := (s.block blk).core
  ((s.withdraw blk).closeQueues blk).modCore core (fun c =>
    let ts := (c.tabOwner.filter (fun e => e.2 = blk)).map Prod.fst
    let bs := (c.bookOwner.filter (fun e => e.2 = blk)).map Prod.fst
    { c with tabs := c.tabs.filter (fun e => !ts.contains e.1), tabOwner := c.tabOwner.filter (fun e => e.2 ≠ blk)
             books := c.books.filter (fun e => !bs.contains e.1), bookOwner := c.bookOwner.filter (fun e => e.2 ≠ blk) })

/-- Registrations of a block's fibres are removed (R358). -/
def State.dropWaits (s : State) (blk : Nat) : State :=
  { s with dies := s.dies.mapVal (fun _ d => { d with
      waits := (d.waits.mapVal (fun _ l => l.filter (fun x => match x with | .fibre r _ => r.blk ≠ blk | _ => true))).filter (fun e => !e.2.isEmpty) }) }

/-- A block leaves the machine: its save slot and landing slot are free, its task counts it (R320, R321, R357, R408). `state` goes
into the slot header. -/
def State.removeBlock (s : State) (blk state : Nat) : State :=
  let b := s.block blk
  let s := (s.clearBinding blk).slotWrite blk 0 (leBytes 1 state)
  let s := match b.saveSlot with | some k => s.modVi b.vi (fun v => { v with slots := setDel v.slots k }) | none => s
  let s := match b.landing with | some d => s.modDie d (fun x => { x with landed := x.landed - 1 }) | none => s
  let s := { s with
    blocks := s.blocks.erase blk
    dies := if b.ending then s.dies.mapVal (fun _ d => { d with batches := d.batches.mapVal (fun _ q =>
      if q.server = some blk then { q with dead := true } else q) }) else s.dies }
  let s := if s.blocks.any (fun e => e.2.sameCluster b) then s else { s with cbars := s.cbars.filter (fun e => e.1 / 16 ≠ b.clusterKey) }
  match s.tasks.find b.task with
  | some t =>
    let gt := if b.ending then t.gt else (b.warps.flatMap Warp.fibs).foldl (fun m f => tmax m f.ptime) t.gt
    let t' : Task := { t with live := t.live - 1, gt := gt }
    { s with tasks := s.tasks.set b.task t' }.endOfTask b.task
  | none => s

/-- The event BLOCK_FREE (R320, R321, R394). -/
def execBlockFree (s : State) : Host.Outcome State Fault Refusal :=
  let blk := s.arg.blk
  let b := s.block blk
  if b.st ≠ .resident || !(b.ending || b.warps.all Warp.retired) || !s.quiet blk then .next s
  else match s.releasing blk with
    | some u => .next u
    | none => .next (((s.released blk).releaseCore blk).dropWaits blk |>.removeBlock blk (if b.ending then 4 else 0))

/-! What ends by itself -/

/-- Saved, displaced and landing blocks of an ended task or a purged key go at once (R321, R357, R408). -/
def State.reapBlocks (s : State) : State :=
  (s.blocks.filter (fun e => e.2.ending && e.2.st != .resident)).foldl (fun s e => (s.dropWaits e.1).removeBlock e.1 0) s

/-- The kick queues of blocks that are ending close, and a binding to one is cleared (R356, R434). -/
def State.closeEnding (s : State) : State :=
  (s.blocks.filter (fun e => e.2.ending && e.2.st == .resident)).foldl (fun s e => (s.closeQueues e.1).clearBinding e.1) s

/-- Tasks that failed with no block left end (R394). -/
def State.reapTasks (s : State) : State :=
  (s.tasks.filter (fun e => e.2.live = 0 && decide (e.2.total ≤ e.2.next))).foldl (fun s e => s.endOfTask e.1) s

/-- The landings of a sender's notice that are under way, by core, queue and landing (R356). -/
def State.landingsOf (s : State) (core cmd : Nat) : List (Nat × Nat × Landing) :=
  s.cores.flatMap (fun c => c.2.kicks.filterMap (fun q => match q.2.landing with
    | some x => if x.n.core = core && x.n.cmd = cmd then some (c.1, q.1, x) else none
    | none => none))

/-- A command of a purged key (R258, R300, R356): it stops where it is, and its counter is not decremented. -/
def State.purgeCmd (s : State) (core id : Nat) (m : Cmd) : State :=
  let s := (s.landingsOf core id).foldl (fun s x => s.stopLanding x.1 x.2.1 x.2.2) s
  let s := if !m.started || m.err ≠ 0 then s else if m.engine = .matrix then s.freeTile m else s.stopRuns m
  let s := { s with
    notices := s.notices.filter (fun e => !(e.2.n.core = core && e.2.n.cmd = id))
    cores := s.cores.mapVal (fun _ c => { c with kicks := c.kicks.mapVal (fun _ q =>
      { q with pend := q.pend.filter (fun n => !(n.core = core && n.cmd = id)) }) }) }
  s.dropCmd core id

/-- Commands and presentations of keys under purge (R258, R283, R300). -/
def State.purgeCmds (s : State) : State :=
  if s.purges.isEmpty then s
  else
    let s := s.cores.foldl (fun s c => (c.2.cmds.filter (fun m => !m.2.service && s.purging m.2.vi m.2.tag)).foldl (fun s m => s.purgeCmd c.1 m.1 m.2) s) s
    (s.blocks.filter (fun e => !e.2.service && s.purging e.2.vi e.2.tag)).foldl (fun s e => s.withdraw e.1) s

end Sys2Proof.Machine
end

