-- ==== Sys2Proof/Machine/Save.lean ====
section
/-!
DEFINITION. Forced saves and restores: the save slot and its contents, BLOCK_SAVE, BLOCK_RESTORE, MIGRATE_ARRIVAL, the drain of a
virtual interface, CTXSV and CTXRS, Tamper, and the close of a batch of fault records (R177, R219, R249, R259, R269, R275, R283,
R308, R316, R318, R326, R357, R382, R396, R401 to R406, R410 to R412, R441).
-/

namespace Sys2Proof.Machine

/-! Stopping -/

/-- Every episode on a core ends (R219). -/
def State.endEpisodes (s : State) (core : Nat) : State :=
  (s.onCore core).foldl (fun s e => s.modBlock e.1 (fun b => b.mapFibs Fibre.endRunahead)) s

/-- A forced save reaches a block (R219, R283, R318, R326): its group begins to stop, presentations are withdrawn, and the episodes on
the cores it reaches end. -/
def State.stopBlock (s : State) (blk : Nat) (why : SaveReason) : State :=
  (s.groupOf blk).foldl (fun s n =>
    let b := s.block n
    if b.st ≠ .resident || b.ending || b.stopping then s
    else ((s.endEpisodes b.core).withdraw n).modBlock n (fun x => { x with
      stopping := true, reason := if n = blk || why = .preempt then why else .group })) s

/-- Is every fibre of the block at an instruction boundary, with its section closed (R316, R318)? -/
def Block.atRest (b : Block) : Bool :=
  b.warps.all (fun w => w.fibs.all (fun f => f.st == .ended || f.st == .frozen || (f.sec.isNone && !f.midway)))

/-! The contents of a slot -/

/-- The word of a bit and a phase (R405). -/
def tokenBytes (t : Option Word) : List Byte :=
  match t with
  | some p => leBytes 8 (2 ^ 63 + p.toNat)
  | none => leBytes 8 0
/-- A token as it is read back. -/
def tokenOf (d : List Byte) (o : Nat) : Option Word := if dfld d (o + 7) 1 < 128 then none else some (BitVec.ofNat 32 (dfld d o 4))

/-- The hidden token of a BARS (R405): of the first that waits. -/
def Fibre.barsToken (f : Fibre) : Option Word := f.phases.findSome? (fun e => match e.2 with | .bars t => t | _ => none)

/-- Nanoseconds in a count of core cycles. -/
def cyclesNs (n : Nat) : Nat := n * 1000 / Config.cyclesPerUs
/-- Core cycles in a count of nanoseconds, rounded up, so that a count of cycles that a save wrote comes back whole (R177). -/
def nsCycles (n : Nat) : Nat := (n * Config.cyclesPerUs + 999) / 1000

/-- Bytes 1,024 + 8l of a context (R405). -/
def Lane.saved (l : Lane) : Nat :=
  l.pc.toNat + bit1 l.handler * 2 ^ 57 + (l.park.getD 0).toNat * 2 ^ 58 + bit1 l.park.isSome * 2 ^ 61 + bit1 l.exited * 2 ^ 62

/-- The 2,048 bytes of a fibre context (R405). -/
def Fibre.context (f : Fibre) (now : Nat) : List Byte :=
  let regs := (List.range 64).flatMap (fun i => wordBytes (f.ureg i))
  let mode := f.st.code + 8 * bit1 f.trap + 16 * bit1 f.raOn + 32 * bit1 f.sec.isSome
  let froze := if f.st == .frozen then cyclesNs (now - f.frozenAt + f.frozenFor) else 0
  let count := match f.sec with | some (_, c) => now - c | none => 0
  regs ++ leBytes 2 f.q.toNat ++ leBytes 2 mode ++ wordBytes f.x ++ leBytes 8 f.ptime.toNat ++ leBytes 8 froze ++ wordBytes f.fpcs ++
    wordBytes f.g ++ leBytes 4 count ++ leBytes 4 (f.raThr % 4096) ++ leBytes 8 f.tpc.toNat ++ leBytes 4 f.tcause.toNat ++
    leBytes 4 f.tpend.toNat ++ leBytes 8 f.tval.toNat ++ leBytes 8 f.tpval.toNat ++
    (List.range 4).flatMap (fun i => leBytes 8 (f.wp.get i {}).va.toNat) ++ (List.range 4).flatMap (fun i => wordBytes (f.wp.get i {}).ctl) ++
    (List.range 4).flatMap (fun i => tokenBytes (f.tok.find i)) ++ tokenBytes f.barsToken ++
    (List.range 16).flatMap (fun i => let c := f.ctr i; wordBytes c.val ++ leBytes 4 0 ++ leBytes 8 c.kt.toNat ++ leBytes 8 c.ec.toNat) ++
    (List.range 8).flatMap (fun i => let m := f.mask i; leBytes 8 m.enr.toNat ++ leBytes 8 m.arr.toNat) ++ leBytes 96 0 ++
    (List.range 64).flatMap (fun l => leBytes 8 (if l < f.lanes.length then (f.lane l).saved else 0)) ++
    (List.range 64).flatMap (fun l => if l < f.lanes.length then wordBytes (f.lane l).sr else leBytes 4 0) ++
    (List.range 64).flatMap (fun l => leBytes 2 (f.lane l).preds.toNat) ++ leBytes 128 0

/-- A fibre's state by its code (R195). -/
def fstateOf (n : Nat) : FState :=
  match n with
  | 0 => .active | 1 => .ready | 2 => .waiting | 3 => .barrierWait | 4 => .frozen | _ => .ended

/-- A lane as a context holds it. -/
def laneOf (d : List Byte) (l : Nat) : Lane :=
  let x := dfld d (1024 + 8 * l) 8
  { pc := BitVec.ofNat 57 x, preds := BitVec.ofNat 15 (dfld d (1792 + 2 * l) 2), sr := BitVec.ofNat 32 (dfld d (1536 + 4 * l) 4),
    exited := x.testBit 62, park := if x.testBit 61 then some (BitVec.ofNat 3 (bitsOf x 58 3)) else none, handler := x.testBit 57 }

/-- A time after a restore (R382): set to `q` if the epoch is long past, else raised to it. -/
def restoreTime (old : Bool) (q t : Time) : Time := if old then q else raiseTo q t

/-- A fibre as a context gives it back, over what the context does not hold (R382, R405, R406). -/
def Fibre.reload (f : Fibre) (d : List Byte) (rec' : FaultRec) (old : Bool) (h : Time) (now : Nat) : Fibre :=
  let q := h - 0x40000000
  let w (o : Nat) : Word := BitVec.ofNat 32 (dfld d o 4)
  let x (o : Nat) : Dword := BitVec.ofNat 64 (dfld d o 8)
  let mode := dfld d 258 2
  let st := fstateOf (mode % 8)
  let toks : Map Word := (List.range 4).filterMap (fun i => (tokenOf d (376 + 8 * i)).map (fun t => (i, t)))
  let phases := f.phases.filterMap (fun e => match e.2 with
    | .bars _ => some (e.1, Phase.bars (tokenOf d 408))
    | _ => none)
  { f with
    lanes := (List.range f.lanes.length).map (laneOf d)
    s := (List.range 64).map (fun i => (i, w (4 * i)))
    q := BitVec.ofNat 15 (dfld d 256 2)
    x := w 260
    ptime := if old then h else tmax (x 264) h
    frozenAt := now, frozenFor := nsCycles (dfld d 272 8), frec := if st == .frozen then rec' else f.frec
    fpcs := w 280, g := w 284, raThr := dfld d 292 4 % 4096
    tpc := BitVec.ofNat 57 (dfld d 296 8), tcause := BitVec.ofNat 6 (dfld d 304 4), tpend := BitVec.ofNat 12 (dfld d 308 4),
    tval := x 312, tpval := x 320
    wp := (List.range 4).map (fun i => (i, { va := x (328 + 8 * i), ctl := w (360 + 4 * i) }))
    tok := toks
    phases := phases
    k := (List.range 16).map (fun i => (i, { val := w (416 + 24 * i), kt := restoreTime old q (x (424 + 24 * i)), ec := x (432 + 24 * i) }))
    j := (List.range 8).map (fun i => (i, { enr := x (800 + 16 * i), arr := x (808 + 16 * i) }))
    st := st, trap := mode.testBit 3, raOn := mode.testBit 4
    stall := if st == .barrierWait then f.stall else none
    rel := none, ra := none, raDone := [], fetched := none, quantum := 0, opf := [] }

/-- SCP and LSCP of a record as the slot holds them (log 33). -/
def scopeCode (sc : Scope) : Nat := match sc with | .b => 1 | .c => 2 | .d => 3 | _ => 0

/-- A scope as a record holds it. -/
def scopeOf (n : Nat) : Scope := if n = 1 then .b else if n = 2 then .c else if n = 3 then .d else .none

/-- The 64 bytes of a barrier record; `blk` chooses the arrivals of one block (log 33). -/
def Bar.bytes (x : Bar) (blk : Nat) : List Byte :=
  let set (l : List Nat) : Nat := (List.range 64).foldl (fun a i => if l.contains (barMember blk (i / 4) (i % 4)) then a + 2 ^ i else a) 0
  leBytes 4 x.ph.toNat ++ leBytes 1 (scopeCode x.scp) ++ leBytes 1 (scopeCode x.lscp) ++ leBytes 2 x.exp ++ leBytes 2 x.cnt ++ leBytes 6 0 ++
    leBytes 8 (set x.arr) ++ leBytes 8 (set x.drop) ++ leBytes 8 x.pmax.toNat ++ leBytes 8 x.last.toNat ++ leBytes 16 0

/-- The 8 bytes of a fibre-barrier record (R405). -/
def FBar.bytes (x : FBar) : List Byte := leBytes 4 (x.part.toNat + 16 * x.arr.toNat) ++ wordBytes x.phase

/-- Bytes of the core's stores laid into a slot in runs of one poison mark (R403). -/
def State.slotStore (s : State) (b : Block) (ia core from' n : Nat) (acc : Bool) : State :=
  let bs := (List.range n).map (fun i => (s.storeByte core (from' + i) acc, s.storePoison core (from' + i) acc))
  (layRuns [{ kind := 0, core := core, place := ia, n := n }] bs).foldl (fun s r => (s.devWrite r.addr r.bytes s.h r.poison (b.vi, b.tag)).1) s

/-- The table part of a slot (R403): images, codebooks and the mask of slots owned (log 33). -/
def State.tableBytes (s : State) (blk : Nat) : List Byte :=
  let c := s.core (s.block blk).core
  let own (n : Nat) : Bool := c.tabOwner.find n == some blk
  let live := (List.range 4).flatMap (fun n => if own n then leBytes 2080 (c.tabs.get n (0, 0)).1.toNat else leBytes 2080 0)
  let shad := (List.range 4).flatMap (fun n => if own n then leBytes 2080 (c.tabs.get n (0, 0)).2.toNat else leBytes 2080 0)
  let books := (List.range 16).flatMap (fun n => if c.bookOwner.find n = some blk then leBytes 32 (c.books.get n 0).toNat else leBytes 32 0)
  let mask := ((List.range 4).filter own).foldl (fun a n => a + 2 ^ n) 0 +
    ((List.range 16).filter (fun n => c.bookOwner.find n = some blk)).foldl (fun a n => a + 2 ^ (4 + n)) 0
  live ++ shad ++ books ++ leBytes 8 mask

/-- Offsets of the spans in a slot (R403). -/
def Block.slotScratch (b : Block) : Nat := 0x28000 + pageUp b.rspan
/-- The accumulator banks. -/
def Block.slotAcc (b : Block) : Nat := b.slotScratch + pageUp b.sspan

/-- Writes a block into its save slot (R403 to R405). -/
def State.writeSlot (s : State) (blk state : Nat) : State :=
  let b := s.block blk
  match b.saveSlot with
  | none => s
  | some k =>
    let base := (s.vi b.vi).slotAddr k
    let s := ((s.slotWrite blk 0 (s.slotHeader b state)).slotWrite blk 0x60 (leBytes 32 0)).slotWrite blk 0x27E00 (leBytes 512 0)
    let s := b.warps.zipIdx.foldl (fun s w => w.1.fibs.zipIdx.foldl (fun s f =>
      let n := 4 * w.2 + f.2
      let s := if f.1.st == .frozen then s.slotWrite blk (0x80 + 32 * n) f.1.frec.bytes else s
      s.slotWrite blk (0x1000 + 2048 * n) (f.1.context s.now)) s) s
    let s := (List.range (4 * b.warps.length)).foldl (fun s n => s.slotWrite blk (0x21000 + 64 * n) ((b.bars.get n {}).bytes blk)) s
    let s := if b.rank = 0 then (List.range 16).foldl (fun s n => s.slotWrite blk (0x22000 + 64 * n) ((s.bar blk .c n).bytes blk)) s else s
    let s := if b.coop && b.ix = 0 && b.iy = 0 && b.iz = 0 then
        (List.range 4).foldl (fun s n => s.slotWrite blk (0x22400 + 64 * n) ((s.bar blk .d n).bytes blk)) s else s
    let s := s.slotWrite blk 0x23000 (s.tableBytes blk)
    let s := b.warps.zipIdx.foldl (fun s w => (List.range 4).foldl (fun s n =>
      s.slotWrite blk (0x27C00 + 32 * w.2 + 8 * n) (w.1.fbar n).bytes) s) s
    let s := s.slotStore b (base + 0x28000) b.core b.rbase b.rspan false
    let s := s.slotStore b (base + b.slotScratch) b.core b.sbase b.sspan false
    b.banks.zipIdx.foldl (fun s e => s.slotStore b (base + b.slotAcc + Config.accBank * e.2) b.core (Config.accBank * e.1) Config.accBank true) s

/-! BLOCK_SAVE -/

/-- A block as it stands when it has been saved: where it goes next by the reason (R357, R404, R411), with what a save does not
hold taken away (R221, R308, R359, R441). -/
def Block.asSaved (b : Block) (tampered : Bool) (epoch : Dword) : Block :=
  let st : BState := if b.reason = .migrate then .landing else if tampered then .displaced else .saved
  { b with st := st, stopping := false, epoch := epoch, vec0 := {}, banks := [],
           warps := b.warps.map (fun w => { w with pend := [], side := [], yieldUntil := 0 }) }

/-- The group of a block once it is ready: every member at rest, and its engines done (R259, R308, R326). -/
def State.groupReady (s : State) (g : List Nat) : Bool :=
  g.all (fun n => let b := s.block n; b.st != .resident || b.ending || (b.stopping && b.atRest))

/-- Is a push or a remote reduction of a member that ends still outstanding (R326)? -/
def State.groupPushing (s : State) (blk : Nat) : Bool :=
  (s.groupOf blk).any (fun n => (s.block n).ending && (s.block n).st == .resident &&
    (s.cores.any (fun c => c.2.cmds.any (fun m => m.2.ref.blk == n && (m.2.op == .cpyr || m.2.op == .cpym))) ||
      s.remreds.any (fun e => e.2.ref.blk == n)))

/-- One member of a group is saved. -/
def State.saveMember (s : State) (blk : Nat) (tampered : Bool) : State :=
  let s := s.released blk
  let s := s.modBlock blk (fun x => { x with epoch := s.epoch })
  let b := s.block blk
  let bound := (s.boundBlock b.vi).any (fun e => e.1 = blk)
  let s := s.writeSlot blk (if tampered then 3 else 2)
  let s := (s.releaseCore blk).dropWaits blk
  let n := s.nextOrder
  let s := { s.modBlock blk (fun x => { x.asSaved tampered s.epoch with order := n }) with nextOrder := n + 1 }
  if bound then s.unbound b.vi else s

/-- The event BLOCK_SAVE (R318, R326, R401, R411): a block that has stopped, with its group, is withdrawn, drained, released and
written to its slot. -/
def execBlockSave (s : State) : Host.Outcome State Fault Refusal :=
  let blk := s.arg.blk
  let b := s.block blk
  let g := if b.reason = .migrate then [blk] else (s.groupOf blk).filter (fun n => (s.block n).st == .resident && !(s.block n).ending)
  if b.st ≠ .resident || b.ending || !b.stopping || !s.groupReady g then .next s
  else
    let s := g.foldl (fun s n => ((s.withdrawNotices n).closeQueues n).withdraw n) s
    if !g.all s.quiet || s.groupPushing blk then .next s
    else match g.findSome? s.releasing with
      | some u => .next u
      | none =>
        let tampered := g.any (fun n => (s.block n).reason = .tamper)
        .next (g.foldl (fun s n => s.saveMember n tampered) s)

/-! BLOCK_RESTORE and MIGRATE_ARRIVAL -/

/-- Bytes of a slot brought into a store of the core, poisoned words marked (R406). -/
def State.loadStore (s : State) (ia core to' n : Nat) (acc : Bool) : State :=
  (List.range ((n + 3) / 4)).foldl (fun s i =>
    let m := min 4 (n - 4 * i)
    s.storeWrite core (to' + 4 * i) acc (s.devBytes (ia + 4 * i) m) (s.devPoison (ia + 4 * i))) s

/-- Table and codebook slots come back under the same numbers (R269). -/
def State.loadTables (s : State) (blk base core : Nat) : State :=
  let d := s.devBytes (base + 0x23000) 17160
  let mask := dfld d 17152 8
  s.modCore core (fun c =>
    let c := ((List.range 4).filter (fun n => mask.testBit n)).foldl (fun c n => { c with
      tabOwner := c.tabOwner.set n blk
      tabs := c.tabs.set n (BitVec.ofNat 16640 (dfld d (2080 * n) 2080), BitVec.ofNat 16640 (dfld d (8320 + 2080 * n) 2080)) }) c
    ((List.range 16).filter (fun n => mask.testBit (4 + n))).foldl (fun c n => { c with
      bookOwner := c.bookOwner.set n blk, books := c.books.set n (BitVec.ofNat 256 (dfld d (16640 + 32 * n) 32)) }) c)

/-- A barrier record after a restore (R382). -/
def Bar.restored (old : Bool) (q : Time) (x : Bar) : Bar := { x with pmax := restoreTime old q x.pmax, last := restoreTime old q x.last }

/-- A barrier record as the slot gives it back, with the arrivals of one block; those of other blocks stay (R406, log 33). -/
def Bar.reload (x : Bar) (d : List Byte) (blk : Nat) (old : Bool) (q : Time) : Bar :=
  let set (l : List Nat) (o : Nat) : List Nat :=
    l.filter (fun m => !(List.range 64).any (fun i => m = barMember blk (i / 4) (i % 4))) ++
      ((List.range 64).filter (fun i => (dfld d o 8).testBit i)).map (fun i => barMember blk (i / 4) (i % 4))
  ({ x with
    ph := BitVec.ofNat 32 (dfld d 0 4), scp := scopeOf (dfld d 4 1), lscp := scopeOf (dfld d 5 1), exp := dfld d 6 2, cnt := dfld d 8 2
    arr := set x.arr 16, drop := set x.drop 24, pmax := BitVec.ofNat 64 (dfld d 32 8), last := BitVec.ofNat 64 (dfld d 40 8) }).restored old q

/-- A fault record as its bytes give it (R171). -/
def faultRecOf (d : List Byte) : FaultRec :=
  { pc := BitVec.ofNat 57 (dfld d 0 8), tval := BitVec.ofNat 64 (dfld d 8 8), rc := BitVec.ofNat 4 (dfld d 16 1), fc := BitVec.ofNat 4 (dfld d 17 1),
    warp := BitVec.ofNat 4 (dfld d 18 1 / 4), fib := BitVec.ofNat 2 (dfld d 18 1), trap := (dfld d 19 1).testBit 0, resumable := (dfld d 19 1).testBit 1,
    tag := BitVec.ofNat 16 (dfld d 20 2), core := dfld d 22 1, socket := dfld d 23 1, lanes := BitVec.ofNat 64 (dfld d 24 8) }

/-- A fibre barrier as its record gives it back (R382, R405). -/
def FBar.reload (x : FBar) (d : List Byte) (old : Bool) (q : Time) : FBar :=
  { x with part := BitVec.ofNat 4 (dfld d 0 1), arr := BitVec.ofNat 4 (dfld d 0 1 / 16), phase := BitVec.ofNat 32 (dfld d 4 4), waits := [],
           pmax := restoreTime old q x.pmax, lasts := x.lasts.mapVal (fun _ t => restoreTime old q t) }

/-- Restores one block at a placement (R227, R382, R406, R441); none if it does not fit or a table number is taken. What the slot holds
comes from its bytes. The reservations are held against the 256 KiB of R212 again at the new place, which the rule says of a launch
(DESIGN CHOICE, unsafe, log 72). -/
def State.restoreBlock (s : State) (blk : Nat) (p : Placement) : Option State :=
  let b := s.block blk
  match b.saveSlot with
  | none => none
  | some k =>
    if !s.placeOk b p then none
    else
      let base := (s.vi b.vi).slotAddr k
      let hdr := s.devBytes base 64
      let old := decide (2 ^ 33 ≤ (s.epoch - BitVec.ofNat 64 (dfld hdr 24 8)).toNat)
      let q := s.h - 0x40000000
      let b := s.placed b p
      let bar (n : Nat) (x : Bar) : Bar := x.reload (s.devBytes (base + n) 64) blk old q
      let first := b.ix = 0 && b.iy = 0 && b.iz = 0
      let warp (e : Warp × Nat) : Warp :=
        let fibs := e.1.fibs.zipIdx.map (fun f =>
          let n := 4 * e.2 + f.2
          f.1.reload (s.devBytes (base + 0x1000 + 2048 * n) 2048) (faultRecOf (s.devBytes (base + 0x80 + 32 * n) 32)) old s.h s.now)
        let fbs : Map FBar := (List.range 4).map (fun i => (i, (e.1.fbar i).reload (s.devBytes (base + 0x27C00 + 32 * e.2 + 8 * i) 8) old q))
        { e.1 with fibs := fibs, fbs := fbs, pend := [] }
      let b : Block := { b with
        warps := b.warps.zipIdx.map warp
        bars := (List.range (4 * b.warps.length)).map (fun n => (n, bar (0x21000 + 64 * n) (b.bars.get n {})))
        restores := b.restores + 1, reason := .none, stopping := false, vec0 := {} }
      let s := { s with
        blocks := s.blocks.set blk b
        cbars := s.cbars.mapVal (fun n x => if n / 16 = b.clusterKey then
          (if b.rank = 0 then bar (0x22000 + 64 * (n % 16)) x else x.restored old q) else x)
        dbars := s.dbars.mapVal (fun n x => if b.coop && n / 4 = b.task then
          (if first then bar (0x22400 + 64 * (n % 4)) x else x.restored old q) else x) }
      let iovf := dfld hdr 20 4
      let s := s.modCore b.core (fun c => { c.serves b.vi b.tag with
        iovf := c.iovf.mapIdx (fun i x => match b.banks.findIdx? (· = i) with | some n => iovf.testBit n | none => x) })
      let s := s.loadStore (base + 0x28000) b.core b.rbase b.rspan false
      let s := s.loadStore (base + b.slotScratch) b.core b.sbase b.sspan false
      let s := b.banks.zipIdx.foldl (fun s e => s.loadStore (base + b.slotAcc + Config.accBank * e.2) b.core (Config.accBank * e.1) Config.accBank true) s
      let s := (s.loadTables blk base b.core).slotWrite blk 0 (s.slotHeader b 1 ++ b.placeRecord)
      some ((b.refs blk).foldl (fun s r => if (s.fib r).st == .frozen then
        s.raiseVec0 blk (BitVec.ofNat 32 (2 ^ r.warp ||| 2 ^ (16 + r.fib))) (s.fib r).ptime else s) s)

/-- Restores the members of a group at placements, all of them or none (R326, R393). -/
def State.restoreGroup (s : State) (g : List Nat) (ps : List Placement) : Option State :=
  if ps.length ≠ g.length then none
  else (g.zip ps).foldl (fun acc e => acc.bind (fun s => s.restoreBlock e.1 e.2)) (some s)

/-- Restores a group at placements of sound clusters, once dirty level-one sectors in the regions it takes have been written back
(R234, R326); none if it cannot be. -/
def State.regroup (s : State) (g : List Nat) (ps : List Placement) : Option (State × Bool) :=
  if !s.unitSound ((g.map (fun n => (s.block n).clusterKey)).zip ps) then none
  else ((s.dropHanded (placeCores ps)).restoreGroup g ps).map (fun u => match s.handOver (placeCores ps) with
    | some w => (w, false)
    | none => (u, true))

/-- The run of a block's save slot that a restore reads (R403). -/
def State.slotRun (s : State) (blk : Nat) : Nat × Nat :=
  let b := s.block blk
  ((s.vi b.vi).slotAddr (b.saveSlot.getD 0), b.slotAcc + Config.accBank * b.accN)

/-- The event BLOCK_RESTORE (R326, R392, R406): a saved block goes after the displaced ones that fit, once the slots can be read
(R419). -/
def execBlockRestore (s : State) : Host.Outcome State Fault Refusal :=
  let blk := s.arg.blk
  let b := s.block blk
  let slots := (s.returning blk).map s.slotRun
  if !s.mayReturn blk || (b.st == .saved && s.displacedFit) then .next s
  else if !slots.all (fun e => s.readable e.1 e.2) then .next (slots.foldl (fun s e => s.readAsk e.1 e.2) s)
  else .next ((s.regroup (s.returning blk) s.arg.places).elim s Prod.fst)

/-- The event MIGRATE_ARRIVAL (R357): a block in a landing slot goes to a core of that die, and the landing slot is free. -/
def execMigrateArrival (s : State) : Host.Outcome State Fault Refusal :=
  let blk := s.arg.blk
  let b := s.block blk
  match b.st, b.landing, s.arg.places with
  | .landing, some d, [p] =>
    if p.core / 33 ≠ d || b.ending || !(s.vi b.vi).run then .next s
    else if !s.readable (s.slotRun blk).1 (s.slotRun blk).2 then .next (s.readAsk (s.slotRun blk).1 (s.slotRun blk).2)
    else match s.regroup [blk] [p] with
      | some (u, true) => .next ((u.modBlock blk (fun x => { x with landing := none })).modDie d (fun x => { x with landed := x.landed - 1 }))
      | some (u, false) => .next u
      | none => .next s
  | _, _, _ => .next s

/-! Pre-emption of a virtual interface -/

/-- Blocks of a VI that are resident. -/
def State.residentOf (s : State) (vi : Nat) : List Nat := (s.blocks.filter (fun e => e.2.vi = vi && e.2.st = .resident && !e.2.service)).map Prod.fst

/-- Every resident block of a VI begins to stop (R401). -/
def State.stopAll (s : State) (vi : Nat) : State := (s.residentOf vi).foldl (fun s n => s.stopBlock n .preempt) s

/-- The event DRAIN_LIMIT_EXPIRY (R390, R401). -/
def execDrainLimitExpiry (s : State) : Host.Outcome State Fault Refusal :=
  let v := s.vi s.arg.vi
  match v.drainAt with
  | some t => if v.force || decide (t + us (max 1 v.drainlim.toNat) ≤ s.now) then .next (s.stopAll s.arg.vi) else .next s
  | none => .next s

/-- HEAD and TAIL of the enabled queues go back to the table (R391). -/
def State.writeQueues (s : State) (vi : Nat) : State :=
  (s.vi vi).queues.foldl (fun s q => if q.2.en then
    (s.devWrite ((s.vi vi).entryAt q.1 + 16) (leBytes 8 q.2.head ++ leBytes 8 q.2.tail) s.h false (vi, 0)).1 else s) s

/-- Does a write of the device on behalf of a VI still wait for the host? -/
def State.viQueued (s : State) (vi : Nat) : Bool := s.devq.any (fun w => w.2.2.2.2.1 = vi)

/-- The event DRAIN_COMPLETE (R401, R402, R431): once its saves, its interrupt area and its queues' indices have been written. -/
def execDrainComplete (s : State) : Host.Outcome State Fault Refusal :=
  let vi := s.arg.vi
  let v := s.vi vi
  if v.run || v.starting || v.drained || !(s.residentOf vi).isEmpty || !v.areaDirty.isEmpty || s.viQueued vi then .next s
  else
    let s := s.writeQueues vi
    if s.viQueued vi then .next s
    else
    let s := s.modVi vi (fun v => { v with drained := true, drainAt := none, force := false, ctxsv := [] })
    .next (v.ctxsv.foldl (fun s e => s.modFib e.1 (fun f => f.modCtr e.2 (fun c => { c with val := c.val - 1 }))) s)

/-- CTXSV (R401, R402). -/
def execCtxsv (f : Ins) (s : State) := sysOp .ctxsv f s (fun c =>
  let vi := c.vb 0 % 2 ^ 32
  let k := ctrNum f.d
  let force := f.x.fn = 1
  if 64 ≤ vi then c.ill
  else
    let s := (c.retire c.s).stopVi vi force
    if (s.vi vi).drained then s
    else
      let s := s.modFib c.r (fun y => y.modCtr k (fun z => { z with val := z.val + 1 }))
      let s := s.modVi vi (fun v => { v with ctxsv := v.ctxsv ++ [(c.r, k)] })
      if force then s.stopAll vi else s)

/-- CTXRS (R401, R402): the counter is counted up and down at once. -/
def execCtxrs (f : Ins) (s : State) := sysOp .ctxrs f s (fun c =>
  let vi := c.vb 0 % 2 ^ 32
  if 64 ≤ vi then c.ill else (c.retire c.s).startVi vi)

/-! Tamper -/

/-- The core that a turn of a die takes (R410): the lowest-numbered deferred one, else the next in rotation. -/
def State.turnCore (s : State) (d : Nat) : Option Nat :=
  let open' (i : Nat) : Bool := s.coreOpen (33 * d + i)
  match (List.range 32).find? (fun i => open' i && decide (0 < (s.core (33 * d + i)).deferred)) with
  | some i => some i
  | none => ((List.range 32).map (fun k => ((s.die d).rotation + 1 + k) % 32)).find? open'

/-- The event TAMPER_TURN (R219, R283, R326, R410, R411): the next core of a die drains, its episodes and presentations end, and
clusters with a member there are saved; after three deferrals every block there is. -/
def execTamperTurn (s : State) : Host.Outcome State Fault Refusal :=
  let d := s.arg.die
  if (List.range 32).any (fun i => (s.core (33 * d + i)).tamper = .draining) then .next s
  else if s.now < (s.die d).turnAt + us (1000000 * s.boot.tamperS) / 32 then .next s
  else match s.turnCore d with
    | none => .next s
    | some i =>
      let c := 33 * d + i
      let again := decide (0 < (s.core c).deferred)
      let s := s.modCore c (fun x => { x with tamper := .draining, drainAt := s.now })
      let s := s.modDie d (fun x => { x with rotation := if again then x.rotation else i, turnAt := s.now })
      let mine := (s.onCore c).map Prod.fst
      let s := mine.foldl (fun s n => s.withdraw n) (s.endEpisodes c)
      let forced := if 3 ≤ (s.core c).deferred then mine else mine.filter (fun n => decide (1 < (s.block n).csize))
      .next (forced.foldl (fun s n => s.stopBlock n .tamper) s)

/-- The event TAMPER_DRAIN_TIMEOUT (R411): a drain that has not emptied its core within 20 ms is abandoned. -/
def execTamperDrainTimeout (s : State) : Host.Outcome State Fault Refusal :=
  let c := s.arg.core
  let x := s.core c
  if decide (c % 33 < 32) && x.tamper = .draining && decide (x.deferred < 3) && decide (x.drainAt + ms 20 ≤ s.now) && !(s.onCore c).isEmpty then
    .next (s.modCore c (fun x => { x with tamper := .inService, deferred := x.deferred + 1 }))
  else .next s

/-- The events of a scan (R412): one for each pair the core served, or for each VI under ALL. -/
def State.scanEvents (s : State) (c kind : Nat) : State :=
  let x := s.core c
  let a := BitVec.ofNat 64 (c / 33 + c % 33 * 16)
  if x.tall then (lanesOf x.tvis).foldl (fun s v => s.event v kind 1 0 0 a x.tpass) s
  else x.tlog.reverse.foldl (fun s e => s.event e.1 kind 0 e.2 0 a x.tpass) s

/-- An event of the package reaches every VI, and Carafe by its service cores' latches (R412, log 47). -/
def State.tellAll (s : State) (kind code : Nat) (a b : Dword) : State :=
  let s := (List.range s.boot.viCount).foldl (fun s v => s.event v kind code 0 0 a b) s
  { s with cores := s.cores.mapVal (fun k c => if k % 33 = 32 then { c with latch := true } else c) }

/-- The service cores of the live dies wait for their scan (R410). -/
def State.scanService (s : State) : State :=
  s.liveDies.foldl (fun s d => s.modCore (33 * d + 32) (fun x => if x.tamper = .quarantined then x else { x with tamper := .draining, drainAt := s.now })) s

/-- The event TAMPER_SCAN (R412): an emptied core is scanned; `arg.flag` says that it passes. -/
def execTamperScan (s : State) : Host.Outcome State Fault Refusal :=
  let c := s.arg.core
  let x := s.core c
  if x.tamper ≠ .draining || !(s.onCore c).isEmpty || !x.cmds.isEmpty then .next s
  else
    let s := s.scanEvents c (if s.arg.flag then 4 else 5)
    let clean (x : Core) : Core := { x with tlog := [], tvis := 0, tall := false, tpass := s.ns, deferred := 0 }
    if s.arg.flag then .next (s.modCore c (fun x => { clean x with tamper := .inService }))
    else .next ((s.modCore c (fun x => { clean x with tamper := .quarantined })).tellAll 7 0 (BitVec.ofNat 64 (c / 33 + c % 33 * 16)) 0)

/-- The event FAULT_BATCH_CLOSE (R396): 20 μs after its first record. -/
def execFaultBatchClose (s : State) : Host.Outcome State Fault Refusal :=
  match (s.vi s.arg.vi).batchAt with
  | some t => if t + us 20 ≤ s.now then .next (s.closeBatch s.arg.vi) else .next s
  | none => .next s

end Sys2Proof.Machine
end

