-- ==== Sys2Proof/Machine/Service.lean ====
section
/-!
DEFINITION. Service calls, the image switch, and RECALL with its sequencer (R372 to R377, R420, R426 to R430, R445).
-/

namespace Sys2Proof.Machine

/-! SVC -/

/-- Batches that wait in a die's service queue. -/
def Die.waiting (d : Die) : Nat := (d.batches.filter (fun e => !e.2.started)).length

/-- A lane's argument; free where a word of it is poisoned (R322). -/
def Ctx.svcArg (c : Ctx) (l : Nat) : BitVec 128 :=
  if c.s.opPoison c.r c.b (c.o.roles c.f).2.2.1 l then
    Config.freeWord (c.s.free + 4 * l) ++ Config.freeWord (c.s.free + 4 * l + 1) ++ Config.freeWord (c.s.free + 4 * l + 2) ++
      Config.freeWord (c.s.free + 4 * l + 3)
  else BitVec.ofNat 128 (c.vb l)

/-- Does a run of `n` bytes lie within one range with a permission (R128)? -/
def Block.wholeRange (b : Block) (va n : Nat) (perm : Range → Bool) : Bool :=
  decide (va + n ≤ 2 ^ 57) && (match b.rangeAt va with
    | some g => perm g && (g.ns || !b.ns) && decide (va + n ≤ g.vabase + g.gran * 65536)
    | none => false)

/-- SVC (R426, R427): the checks, the counter, the release, and the batch in the die's queue. -/
def execSvc (f : Ins) (s : State) := sysOp .svc f s (fun c =>
  let b := c.blk
  let va := c.va 0
  let n := 32 * b.width
  match c.s.enginePieces b 0 va n Range.w with
  | .error e => c.vaRefused va e.page
  | .ok ps =>
    if !b.wholeRange va n Range.w then c.vaRefused va none
    else if va % 32 ≠ 0 then c.raise cALN (accessVal false 0 va)
    else if 256 ≤ (c.s.die b.socket).waiting || c.s.memHeld c.r false then c.stall c.s
    else (c.counting (ctrNum f.d)).release .d (fun s =>
      let fn : BitVec 16 := match f.x with | .svc n => n | _ => 0
      let q : Batch := { ref := c.r, core := b.core, slot := (s.warp c.r.blk c.r.warp).slot, k := ctrNum f.d, fn := fn, vi := b.vi, tag := b.tag,
                         task := b.task, ns := b.ns, active := c.act, args := c.lanes.map (fun l => (l, c.svcArg l)),
                         ia := (ps.headD default).place, ti := (s.fib c.r).ptime }
      let s := c.countedRetire s
      let s := s.modDie b.socket (fun d => { d with batches := d.batches.set d.nextBatch q, nextBatch := d.nextBatch + 1 })
      let s := s.modCore (33 * b.socket + 32) (fun x => { x with latch := true })
      c.poisonedData (c.skip s)))

/-- The event SERVICE_BATCH_START (R427, R430): Carafe takes the oldest waiting batch of a die, on the image that runs; `arg.blk` is
the service block that serves it, where one does (R429). -/
def execServiceBatchStart (s : State) : Host.Outcome State Fault Refusal :=
  let d := s.arg.die
  match (s.die d).batches.find? (fun e => !e.2.started) with
  | some (id, q) =>
    let b := s.block s.arg.blk
    let q' : Batch := { q with started := true, image := s.bridge.image,
                               server := if b.service && b.st == .resident && !b.ending then some s.arg.blk else none }
    .next (s.modDie d (fun x => { x with batches := x.batches.set id q' }))
  | none => .next s

/-- A reply reaches the counter of its caller (R428): in the fibre, in its save slot, or nowhere once the caller has ended. -/
def State.replyCounter (s : State) (r : FRef) (k : Nat) (t : Time) : State :=
  let b := s.block r.blk
  match b.st with
  | .resident => if (s.fib r).st == .ended then s else s.counterDone r k t 0
  | .gone => s
  | _ => match b.saveSlot with
    | none => s
    | some slot =>
      let ctx := (s.vi b.vi).slotAddr slot + 0x1000 + 2048 * (4 * r.warp + r.fib)
      let at' := ctx + 416 + 24 * k
      if dfld (s.devBytes (ctx + 258) 1) 0 1 % 8 = 5 then s
      else
        let v := dfld (s.devBytes at' 4) 0 4
        let kt := BitVec.ofNat 64 (dfld (s.devBytes (at' + 8) 8) 0 8)
        let s := (s.devWrite at' (leBytes 4 ((v + 2 ^ 32 - 1) % 2 ^ 32)) s.h false (b.vi, b.tag)).1
        (s.devWrite (at' + 8) (leBytes 8 (tmax kt t).toNat) s.h false (b.vi, b.tag)).1

/-- Has the service block that serves a batch faulted (R429)? -/
def State.serverLost (s : State) (q : Batch) : Bool := q.dead || q.server.any (fun n => (s.block n).ending)

/-- The reply record of a lane (R427, R429): STATUS 4 where its service block was lost; function 0 echoes, functions of 0x8000 and above
are unknown, every other one answers what `arg.results` holds for the lane. -/
def Batch.replyRecord (q : Batch) (lost : Bool) (results : List (BitVec 192 × Word)) (lane : Nat) : List Byte :=
  let (r, st) := results.getD lane (0, 0)
  if lost then leBytes 24 r.toNat ++ leBytes 4 4 ++ leBytes 4 0
  else if q.fn = 0 then leBytes 16 (q.args.get lane 0).toNat ++ leBytes 16 0
  else leBytes 24 r.toNat ++ leBytes 4 (if 0x8000 ≤ q.fn.toNat then 1 else st.toNat) ++ leBytes 4 0

/-- Is the time of a line's last of four record writes beyond the span (R380)? -/
def State.replyHeld (s : State) (t0 : Time) (line : Nat) : Bool :=
  s.timeHeld (tmax t0 ((s.homeVer line).elim (s.fillTime line) (fun v => v.1.rt)) + 4)
/-- Can a line take the records of a reply now, so that the counter follows every one of them (R380, R427)? -/
def State.replyRoom (s : State) (t0 : Time) (line : Nat) : Bool := s.devReady line t0 && !s.replyHeld t0 line
/-- Asks for what the records wait for. -/
def State.replyAsk (s : State) (t0 : Time) (line : Nat) : State :=
  let u := if s.devReady line t0 then s else s.devAsk line t0
  if s.replyHeld t0 line then { u with stepReq := true } else u

/-- The event SERVICE_REPLY (R427 to R429, R467): the records at a time not before Ti, then the counter; it is held while the caller is
being saved. -/
def execServiceReply (s : State) : Host.Outcome State Fault Refusal :=
  let d := s.arg.die
  let id := s.arg.id
  match (s.die d).batches.find id with
  | none => .next s
  | some q =>
    let lanes := lanesOf q.active
    let t0 := tmax q.ti s.arg.value
    let lines := (lanes.flatMap (fun l => runLines (q.ia + 32 * l) 32)).eraseDups
    if !q.started || (s.block q.ref.blk).stopping then .next s
    else if !lines.all (s.replyRoom t0) then .next (lines.foldl (fun s n => s.replyAsk t0 n) s)
    else
      let (s, t) := lanes.foldl (fun (acc : State × Time) l =>
        let (s, w) := acc.1.devWrite (q.ia + 32 * l) (q.replyRecord (s.serverLost q) s.arg.results l) t0 false (q.vi, q.tag)
        (s, tmax acc.2 w)) (s, t0)
      let s := s.modDie d (fun x => { x with batches := x.batches.erase id })
      .next ((if s.serverLost q then s else s.attest q s.arg.results).replyCounter q.ref q.k t)

/-- Batches of a key under purge (R429): a queued one is discarded, one in service writes nothing. -/
def State.dropBatches (s : State) : State :=
  if s.purges.isEmpty then s
  else { s with dies := s.dies.mapVal (fun _ d => { d with batches := d.batches.filter (fun e => !s.purging e.2.vi e.2.tag) }) }

/-! Image switch -/

/-- The event CFGO (R422, R430): the active head starts the verification of the staged image. -/
def execCfgo (s : State) : Host.Outcome State Fault Refusal :=
  if !s.boot.ready || s.arg.head ≠ s.bridge.active then .next s else .next { s with bridge := { s.bridge with switching := true } }

/-- The event IMAGE_SWITCH (R410, R430, R445): verification of the staged image, of version `arg.value`, ends as `arg.flag` says; at a
switch the service cores are scanned. -/
def execImageSwitch (s : State) : Host.Outcome State Fault Refusal :=
  if !s.bridge.switching then .next s
  else
    let new := s.arg.value.setWidth 32
    let old := s.bridge.image
    let ok := s.arg.flag
    let b : Bridge := { s.bridge with switching := false, refused := !ok, image := if ok then new else old }
    let s := if ok then s.scanService else s
    .next ({ s with bridge := b }.tellAll 8 (if ok then 0 else 1) (new.setWidth 64) (old.setWidth 64))

/-! RECALL -/

/-- The next valid page that holds a granule of a RECALL's range: its first granule, and its leaf (R374). -/
def State.recallPage (s : State) (q : Recall) : Option (Nat × LeafSpan) :=
  (List.range (q.count - q.done)).findSome? (fun i => (s.leafSpan (q.base + 65536 * (q.done + i))).map (fun l => (q.done + i, l)))

/-- Dirty level-one sectors of a page in some cores: core, key, sector. -/
def State.pageDirt (s : State) (l : LeafSpan) (mine : Nat → Bool) : List (Nat × Nat × Nat) :=
  (s.cores.filter (fun c => mine c.1)).flatMap (fun c => (c.2.l1.filter (fun e => l.has (e.1 / 2))).flatMap (fun e =>
    ((List.range 4).filter (fun k => (e.2.sec k).mine ≠ 0)).map (fun k => (c.1, e.1, k))))

/-- Does a lane access of some cores that was translated under the page's attribute wait to be performed (R375)? -/
def State.pageAccess (s : State) (l : LeafSpan) (mine : Nat → Bool) : Bool :=
  s.blocks.any (fun e => mine e.2.core && e.2.warps.any (fun w => w.pend.any (fun p => match p.2.body with
    | .load x => x.accs.any (fun a => l.has a.line)
    | _ => false)))

/-- Is an access or request of a page by some cores outstanding (R374: of a flip, which its home holds back, a write-back or a reply)? -/
def State.pageBusy (s : State) (l : LeafSpan) (isFlip : Bool) (mine : Nat → Bool) : Bool :=
  let busy (q : Req) : Bool := l.has q.line && mine q.core && (match q.kind with
    | .register => false
    | .write _ _ wb _ => !isFlip || wb.isSome || q.reply.isSome
    | _ => !isFlip || q.reply.isSome)
  s.reqs.any (fun e => busy e.2) || (!isFlip && s.pageAccess l mine)

/-- What the write-backs of a page by some cores wait for: their homes (R418), or a step of the horizon (R380). -/
def State.dirtWaits (s : State) (l : LeafSpan) (mine : Nat → Bool) : Option State :=
  let ds := s.pageDirt l mine
  let far := ds.filter (fun e => !s.wbReady (e.2.1 / 2))
  if !far.isEmpty then some (far.foldl (fun s e => s.homeAsk (e.2.1 / 2) true) s)
  else ds.findSome? (fun e => match s.l1 e.1 e.2.1 with | some x => s.heldAt (e.2.1 / 2) (x.sec e.2.2).age | none => none)

/-- Does the write of a page's entry wait? What it waits for is asked for. -/
def State.entryWaits (s : State) (l : LeafSpan) : Option State :=
  let entry := identityIa l.pa / 128
  if s.devReady entry s.h then none else some (s.devAsk entry s.h)

/-- The level-one step of a page in some cores (R374): dirty sectors written back at their homes, lines dropped. The time is the
largest w. -/
def State.recallL1 (s : State) (l : LeafSpan) (mine : Nat → Bool) (t : Time) : State × Time :=
  let (s, t) := (s.pageDirt l mine).foldl (fun (acc : State × Time) e =>
    match acc.1.l1 e.1 e.2.1 with
    | none => acc
    | some x =>
      let k := e.2.2
      let y := x.sec k
      let bytes := ((List.range 32).filter (fun i => y.mine.getLsbD i)).map (fun i => (32 * k + i, lineByte x.data (32 * k + i)))
      let who := (acc.1.slotBlock e.1 y.slots).elim ((0, 0) : Nat × BitVec 16) (fun b => (b.2.vi, b.2.tag))
      let (s, v) := acc.1.wbWrite (e.2.1 / 2) bytes y.age y.dpoison who
      (s.noteW e.1 (y.slots.toNat ||| y.wbSlots.toNat) y.age v.wt, tmax acc.2 v.wt)) (s, t)
  ({ s with cores := s.cores.mapVal (fun k c => if mine k then { c with l1 := c.l1.filter (fun e => !l.has (e.1 / 2)) } else c) }, t)

/-- One bit field of a leaf entry's low byte changed, at the entry's home (R374, R420), and the w of the write. -/
def State.putEntry (s : State) (l : LeafSpan) (g : Nat → Nat) : State × Time :=
  s.devWrite (identityIa l.pa) (leBytes 1 (g (s.devByte (identityIa l.pa)).toNat)) s.h false (0, 0)

/-- Every chiplet drops its cached translations of a page (R370, R374). -/
def State.dropLeaves (s : State) (l : LeafSpan) : State :=
  { s with chiplets := s.chiplets.mapVal (fun _ c =>
    { c with tlb := c.tlb.filter (fun x => !(decide (x.page < l.page + l.pages) && decide (l.page < x.page + x.pages))) }) }

/-- Home copies of a page take an attribute and an owner (R374). -/
def State.takeAttr (s : State) (l : LeafSpan) (attr : Option Attr) (owner : Nat) : State :=
  match attr with
  | some a => { s with homes := s.homes.mapVal (fun line h =>
      if l.has line then { h with attr := a, owner := if a = Attr.priv then owner else 0 } else h) }
  | none => s

/-- The entry of a page takes an attribute, and its home copies and the homes' record of its owner with it (R374); the w of the
entry's write, where there is one. -/
def State.recallEntry (s : State) (l : LeafSpan) (attr : Option Attr) (owner : Nat) (t : Time) : State × Time :=
  match attr with
  | some a =>
    let (s, w) := s.putEntry l (fun b => b / 16 * 16 + b % 4 + 4 * a.code)
    let owners := (List.range l.pages).foldl (fun (m : Map Nat) i => if a = Attr.priv then m.set (l.page + i) owner else m.erase (l.page + i)) s.owners
    ({ s with owners := owners }.takeAttr l attr owner, tmax t w)
  | none => (s, t)

/-- The home copies of a page are written to memory and dropped under .mem (R374). Cached translations go first, so that a page in transit
has no fill from then on (R371, R377, log 29). -/
def State.recallHomes (s : State) (l : LeafSpan) (toMem : Bool) : State :=
  let s := s.dropLeaves l
  if !toMem then s
  else
      let mine := s.homes.filter (fun e => l.has e.1)
      let s := mine.foldl (fun s e =>
        let v : Evict := { line := e.1, pa := e.2.pa, data := e.2.data, dirty := e.2.dirty, poison := e.2.poison, rt := e.2.rt }
        let s := s.landLine e.1
        { (if s.mustReport v then { s with bmax := tmax s.bmax v.rt }.broadcast else s).landEvict v with homes := s.homes.erase e.1 }) s
      (s.evicts.filter (fun e => l.has e.2.line)).foldl (fun s e => s.landLine e.2.line) s

/-- The last steps of a page (R374): requester-side copies and cached translations are dropped, PRES is cleared; home copies that the
write-backs brought back have the new attribute. -/
def State.recallSide (s : State) (l : LeafSpan) (attr : Option Attr) (owner : Nat) : State :=
  let s := s.takeAttr l attr owner
  { s with
    homes := s.homes.mapVal (fun line h => if l.has line then { h with pres := 0 } else h)
    dies := s.dies.mapVal (fun _ d => { d with copies := d.copies.filter (fun e => !l.has e.1) }) }.dropLeaves l

/-- RECALL (R373, R374): the checks, then the request joins the sequencer. -/
def execRecall (f : Ins) (s : State) := sysOp .recall f s (fun c =>
  let base := c.va 0
  let count := c.vb 0 % 2 ^ 32
  let own := c.vb 0 / 2 ^ 32
  let (toMem, a) := match f.x with | .recall m a => (m, a.toNat) | _ => (false, 3)
  let owner := 33 * (own % 16) + own / 16 % 64
  let stop' := base + 65536 * count
  if count = 0 || decide (2 ^ 24 < count) || decide (2 ^ 10 ≤ own) || (a = 2 && !(decide (own / 16 % 64 < 33) && c.s.coreLive owner)) ||
      (a ≠ 2 && own ≠ 0) then c.ill
  else if 2 ^ 52 < stop' || spanMeet base stop' (0xFE * 2 ^ 44) (2 ^ 52) then c.raise cRNG (accessVal true 0 (base % 2 ^ 57))
  else if base % 65536 ≠ 0 then c.raise cALN (accessVal true 0 (base % 2 ^ 57))
  else if 16 ≤ c.s.recalls.length then c.stall c.s
  else
    let k := ctrNum f.d
    let s := (c.retire c.s).modFib c.r (fun y => y.modCtr k (fun z => { z with val := z.val + 1 }))
    { s with recalls := s.recalls ++ [{ ref := c.r, k := k, base := base, count := count, toMem := toMem, attr := attrOfCode a, owner := owner }] })

/-! Bias flips -/

/-- The page named by a bias request cannot be flipped (R420). -/
def State.biasBad (s : State) (page : Nat) : Bool :=
  isIdentity (65536 * page) || isMapIa (65536 * page) || isHostWindow (65536 * page) ||
    (match s.walk (65536 * page) with | .absent => true | .malformed => true | _ => false)

/-- A line of the host leaves the bridge (R416): M data go to the host, which for a page in host bias is the package's memory. -/
def State.dropHostLine (s : State) (line : Nat) : State :=
  match s.bridge.lines.find line with
  | none => s
  | some h =>
    let ia := 128 * line
    let s := if h.st ≠ .m then s
      else if isHostWindow ia then { s with bridge := { s.bridge with toHost := (line, h.data) :: s.bridge.toHost } }
      else match s.translate ia with
        | .ok l =>
          let pa := l.pa ia
          let pois := (List.range 4).foldl (fun p k => if h.poison.getLsbD k then setAdd p (pa / 32 + k) else setDel p (pa / 32 + k)) s.memPoison
          { s with mem := s.mem.writes pa (lineBytes h.data), memPoison := pois }
        | _ => s
    { s with bridge := { s.bridge with bt := tmax s.bridge.bt (h.rt + 1), lines := s.bridge.lines.erase line } }

/-- The steps of a flip of a page, once the way is free (R420): lines asked of the host for the page are not waited for. Toward the host
the level-one step comes before the home step, since the slice keeps no home copy then (R419, log 29). -/
def State.flip (s : State) (page : Nat) (toHost : Bool) : State :=
  match s.leafSpan (65536 * page) with
  | none => { s with bridge := { s.bridge with biasBusy := false, biasErr := true } }
  | some l =>
    let s := if toHost then
        let s := ((s.recallL1 l (fun _ => true) 0).1.recallHomes l true).recallSide l none 0
        { s with bridge := { s.bridge with filter := s.bridge.filter.filter (fun x => !l.has x), invPend := s.bridge.invPend.filter (fun x => !l.has x) } }
      else
        let s := (s.bridge.lines.filter (fun e => l.has e.1)).foldl (fun s e => s.dropHostLine e.1) s
        { s with bridge := { s.bridge with asked := s.bridge.asked.filter (fun e => !l.has e.1) } }
    let s := (s.putEntry l (fun b => b % 128 + 128 * bit1 toHost)).1.dropLeaves l
    { s with bridge := { s.bridge with biasBusy := false, biasDone := true } }

/-- Does the flip of a page still wait: for write-backs and replies of the page, or for answers to BISnpInv? -/
def State.flipWaits (s : State) (page : Nat) (toHost : Bool) : Option State :=
  match s.leafSpan (65536 * page) with
  | none => none
  | some l =>
    let seen := s.bridge.filter.filter l.has
    match s.entryWaits l, if !toHost then none else if s.pageBusy l true (fun _ => true) then some s else s.dirtWaits l (fun _ => true) with
    | some u, _ => some u
    | none, some u => some u
    | none, none => if toHost && !seen.isEmpty then some { s with bridge := { s.bridge with invPend := seen.foldl setAdd s.bridge.invPend } } else none

/-- The bias request under way joins the sequencer when it has room (R374, R420). -/
def State.biasQueue (s : State) : State :=
  if s.bridge.biasBusy && !s.recalls.any (fun q => q.bias.isSome) && decide (s.recalls.length < 16) then
    { s with recalls := s.recalls ++ [{ ref := ⟨0, 0, 0⟩, k := 0, base := 65536 * s.bridge.biasPage, count := 1, toMem := true, attr := none,
                                        owner := 0, bias := some s.bridge.biasDir }] }
  else s

/-- A bias request (R420, R422): performed when its turn in the RECALL sequencer comes; one that comes while another is under way
is ignored. -/
def State.biasGo (s : State) (page : Nat) (toHost : Bool) : State :=
  if s.bridge.biasBusy then s
  else
    let b : Bridge := { s.bridge with biasPage := page, biasDir := toHost, biasDone := false, biasErr := s.biasBad page, biasBusy := !s.biasBad page }
    { s with bridge := b }.biasQueue

/-- The flip at the head of the sequencer is made, if it is this one and the way is free. -/
def State.biasTurn (s : State) (page : Nat) (toHost : Bool) : State :=
  let s := s.biasQueue
  match s.recalls with
  | q :: rest => if q.bias = some toHost && q.base = 65536 * page then
      (match s.flipWaits page toHost with
       | some u => u
       | none => { s.flip page toHost with recalls := rest })
    else s
  | [] => s

/-- A bias event (R420, R465): the request, of a driver that reaches the heads only once Carafe runs, and the flip when its turn has come. -/
def State.biasEvent (s : State) (toHost : Bool) : State :=
  (if s.boot.ready then s.biasGo s.arg.index toHost else s).biasTurn s.arg.index toHost
/-- The event BIAS_FLIP_TO_DEVICE (R420). -/
def execBiasFlipToDevice (s : State) : Host.Outcome State Fault Refusal := .next (s.biasEvent false)
/-- The event BIAS_FLIP_TO_HOST (R420). -/
def execBiasFlipToHost (s : State) : Host.Outcome State Fault Refusal := .next (s.biasEvent true)

/-- The RECALL at the head of the sequencer has moved on: it ends once no page is left (R374). -/
def State.recallOn (s : State) (q : Recall) : State :=
  if (s.recallPage q).isSome then { s with recalls := q :: s.recalls.tail }
  else ({ s with recalls := s.recalls.tail }.counterDone q.ref q.k (tmax ((s.fib q.ref).ctr q.k).kt q.kt) 0).biasQueue

/-- Cores that hold lines of a page and have not made their step. -/
def State.recallCores (s : State) (l : LeafSpan) (done : List Nat) : List Nat :=
  ((s.cores.filter (fun c => !done.contains c.1 && c.2.l1.any (fun e => l.has (e.1 / 2)))).map Prod.fst)

/-- The next step of the RECALL at the head (R374, R375): the entry and the homes of a page, once no access or request of it is
outstanding; then each core in turn, `pick` first where it is one that holds lines of the page, once its accesses and requests of the page
have ended; with the last of them the dies and chiplets. -/
def State.recallStep (s : State) (q : Recall) (pick : Nat) : State :=
  match s.recallPage q with
  | none => s.recallOn q
  | some (i, l) => match q.begun with
    | none =>
      if s.pageBusy l false (fun _ => true) then s
      else match s.entryWaits l with
        | some u => u
        | none =>
          let (s, t) := s.recallEntry l q.attr q.owner q.kt
          s.recallHomes l q.toMem |>.recallOn { q with done := i, begun := some [], kt := t }
    | some done =>
      let left := s.recallCores l done
      let c := if left.contains pick then pick else left.headD 0
      if !left.isEmpty && s.pageBusy l false (fun x => x == c) then s
      else match if left.isEmpty then none else s.dirtWaits l (fun x => x == c) with
        | some u => u
        | none =>
          let (s, t) := if left.isEmpty then (s, q.kt) else s.recallL1 l (fun x => x == c) q.kt
          if 1 < left.length then s.recallOn { q with begun := some (c :: done), kt := t }
          else (s.recallSide l q.attr q.owner).recallOn { q with done := l.page + l.pages - q.base / 65536, begun := none, kt := t }

/-- The event RECALL_COMPLETION (R374): the oldest RECALL makes its next step; with the last its counter is done. `arg.core` picks the core
of a core's step. -/
def execRecallCompletion (s : State) : Host.Outcome State Fault Refusal :=
  match s.recalls with
  | [] => .next s.biasQueue
  | q :: _ => match q.bias with
    | some d => .next (s.biasTurn (q.base / 65536) d)
    | none => .next (s.recallStep q s.arg.core)

end Sys2Proof.Machine
end

