-- ==== Sys2Proof/Machine/HostPort.lean ====
section
/-!
DEFINITION. The host port: host accesses to device memory, snoops of host lines, the host-view filter, HWAIT, adoption, the
handover area, and the pages of virtual interfaces (R390, R416 to R425, R432, R456).
-/

namespace Sys2Proof.Machine

/-! Host accesses -/

/-- The PA of an address by its page, in host bias where the home is the bridge. -/
def State.paOf (s : State) (ia : Nat) : Option Nat := match s.translate ia with | .ok l => some (l.pa ia) | _ => none

/-- What a host read returned. -/
def State.hostGot (s : State) (bs : List Byte) (bad cacheable : Bool) : State :=
  { s with bridge := { s.bridge with lastRead := bs, lastPoison := bad, lastCacheable := cacheable } }

/-- The bridge's M data of a line in host bias go to memory, and the line drops to S; its times stay (R416, R419). -/
def State.shareLine (s : State) (line : Nat) : State :=
  match s.bridge.lines.find line with
  | some h =>
    let bt := s.bridge.bt
    let s := s.dropHostLine line
    { s with bridge := { s.bridge with bt := bt, lines := s.bridge.lines.set line { h with st := .s, tags := [] } } }
  | none => s

/-- Does the slice hold the line, or has it room for it (R348)? -/
def State.roomFor (s : State) (line : Nat) : Bool := (s.homes.find line).isSome || s.hasRoom (s.home (line * 128)) line

/-- The event HOST_CXL_MEM_WRITE (R348, R380, R416 to R419): the bytes of `arg.data` within the line of `arg.ia`, poisoned under `arg.flag`; in host
bias the bridge's copy of the line goes first. -/
def execHostCxlMemWrite (s : State) : Host.Outcome State Fault Refusal :=
  let ia := s.arg.ia
  let line := ia / 128
  let data := s.arg.data.take (128 - ia % 128)
  if !s.boot.ready || isHostWindow ia || s.flipping ia then .next s
  else match s.lineHome line with
    | .slice _ _ =>
      if !s.roomFor line then .next s
      else if let some u := s.heldAt line s.bridge.bt then .next u
      else
      let (s, v) := s.homeWrite line (data.zipIdx.map (fun e => (ia % 128 + e.2, e.1))) s.bridge.bt s.arg.flag (0, 0)
      .next { s with bridge := { s.bridge with bt := tmax s.bridge.bt v.wt } }
    | .bridge _ _ => match s.paOf ia with
      | some pa =>
        let s := s.dropHostLine line
        .next ({ s with
          mem := s.mem.writes pa data
          memPoison := if s.arg.flag then (List.range data.length).foldl (fun p i => setAdd p ((pa + i) / 32)) s.memPoison
            else (List.range ((pa % 32 + data.length + 31) / 32)).foldl (fun p k => let q := pa / 32 + k
              if decide (pa ≤ 32 * q) && decide (32 * q + 32 ≤ pa + data.length) then setDel p q else p) s.memPoison }.wakeHost line)
      | none => .next s
    | .refused _ => .next s

/-! Host lines -/

/-- The event SNP_DATA (R416): M data go to the host and the line drops to S; its times stay. Under `arg.flag` the snoop is SnpCur
(R414): the host gets the current data and no state changes (PRESUMED, unsafe, log 82). -/
def execSnpData (s : State) : Host.Outcome State Fault Refusal :=
  let line := s.arg.line
  if s.arg.flag then match s.bridge.lines.find line with
    | some h => .next (if h.st = .m then { s with bridge := { s.bridge with toHost := (line, h.data) :: s.bridge.toHost } } else s)
    | none => .next s
  else .next (s.shareLine line)

/-- The event SNP_INV (R359, R416): the line is written back and dropped, and BT passes its lease; registrations at .s are woken by
the host write it announces. -/
def execSnpInv (s : State) : Host.Outcome State Fault Refusal := .next ((s.dropHostLine s.arg.line).wakeHost s.arg.line)

/-- The event BRIDGE_EVICTION (R416). -/
def execBridgeEviction (s : State) : Host.Outcome State Fault Refusal := .next (s.dropHostLine s.arg.line)

/-- The event CXL_CACHE_RESPONSE (R416): the host answers a request with the line, in E under `arg.flag`, else in S; a line that was
absent begins at BT. -/
def execCxlCacheResponse (s : State) : Host.Outcome State Fault Refusal :=
  let line := s.arg.line
  match s.bridge.asked.find line with
  | none => .next s
  | some own =>
    let held := s.bridge.lines.find line
    if s.arg.data.length ≠ 128 || (held.isNone && decide (65536 ≤ s.bridge.lines.length)) then .next s
    else
      let h : HostLine := match held with
        | some h => { h with st := if s.arg.flag && h.st = .s then .e else h.st }
        | none => { st := if s.arg.flag then .e else .s, data := lineOf s.arg.data, wt := s.bridge.bt, rt := s.bridge.bt }
      let asked := if own && !s.arg.flag then s.bridge.asked else s.bridge.asked.erase line
      .next ({ s with bridge := { s.bridge with lines := s.bridge.lines.set line h, asked := asked } }.drainDevq)

/-- The event BISNPINV_RESPONSE (R418): the line leaves the host-view filter, and the device's writes of it go on. -/
def execBisnpinvResponse (s : State) : Host.Outcome State Fault Refusal :=
  let line := s.arg.line
  if s.bridge.invPend.contains line then
    .next ({ s with bridge := { s.bridge with filter := setDel s.bridge.filter line, invPend := setDel s.bridge.invPend line } }.drainDevq)
  else .next s

/-! HWAIT and adoption -/

/-- A write to HWAIT by the active head (R423): a one-shot registration in the table of the line's home die. -/
def State.hwait (s : State) (head : Nat) (v : Dword) : State :=
  let line := bitsOf v.toNat 7 45
  let d := (s.home (line * 128)).1
  let t := (s.die d).waits
  let l := t.get line []
  let room := !l.isEmpty || decide ((t.filter (fun e => !e.2.isEmpty)).length < 4096)
  if head ≠ s.bridge.active || !room then s
  else s.modDie d (fun x => { x with waits := x.waits.set line (.host head (bitsOf v.toNat 56 8) :: l) })
/-- The event HWAIT. -/
def execHwait (s : State) : Host.Outcome State Fault Refusal := .next (if s.boot.ready then s.hwait s.arg.head s.arg.value else s)

/-- May a standby head adopt (R425)? -/
def State.mayAdopt (s : State) : Bool :=
  !s.bridge.adoptForbidden && (s.bridge.adopten || s.bridge.releaseReq ||
    (!s.bridge.links.getD s.bridge.active false && decide (s.bridge.downAt + ms 100 ≤ s.now)))

/-- A request for adoption by a head (R425, R445). -/
def State.adopt (s : State) (head : Nat) : State :=
  if head = s.bridge.active || decide (1 < head) || !s.mayAdopt then s
  else
    let old := s.bridge.active
    let up := s.bridge.links.getD old false
    let lost := if up then [] else (s.bridge.lines.flatMap (fun e => if e.2.st = .m then e.2.tags else [])).eraseDups.filter (fun t => t.2 ≠ 0)
    let s := if up then s.bridge.lines.foldl (fun s e => s.dropHostLine e.1) s else s
    let b : Bridge := { s.bridge with lines := [], filter := [], invPend := [], asked := [], active := head, releaseReq := false,
                                      adoptions := s.bridge.adoptions + 1, downAt := s.now }
    let s := { s with
      bridge := b
      dies := s.dies.mapVal (fun _ d => { d with
        waits := (d.waits.mapVal (fun _ l => l.filter (fun x => match x with | .host h _ => h ≠ old | _ => true))).filter (fun e => !e.2.isEmpty) }) }
    let s := lost.foldl (fun s t => s.startPurge t.1 t.2 2 0) s
    ((List.range s.boot.viCount).foldl (fun s v => s.event v 9 0 0 0 (BitVec.ofNat 64 head) (BitVec.ofNat 64 lost.length)) s).drainDevq
/-- The event ADOPT. -/
def execAdopt (s : State) : Host.Outcome State Fault Refusal := .next (if s.boot.ready then s.adopt s.arg.head else s)

/-- The event RELEASE (R422, R425): the active head asks for a handover now. -/
def execRelease (s : State) : Host.Outcome State Fault Refusal :=
  if s.boot.ready && s.arg.head = s.bridge.active then .next { s with bridge := { s.bridge with releaseReq := true } } else .next s

/-- The event HEAD_LINK_DOWN (R425). -/
def execHeadLinkDown (s : State) : Host.Outcome State Fault Refusal :=
  let h := s.arg.head
  .next { s with bridge := { s.bridge with
    links := s.bridge.links.mapIdx (fun i x => if i = h then false else x)
    downAt := if h = s.bridge.active && s.bridge.links.getD h false then s.now else s.bridge.downAt } }
/-- The event HEAD_LINK_UP (R422): not before the heads leave reset (R465). -/
def execHeadLinkUp (s : State) : Host.Outcome State Fault Refusal :=
  if s.boot.ready then .next { s with bridge := { s.bridge with links := s.bridge.links.mapIdx (fun i x => if i = s.arg.head then true else x) } }
  else .next s

/-! Pages of virtual interfaces -/

/-- A peer window as its four words (R456). -/
def PeerWin.word (p : PeerWin) (i : Nat) : Nat :=
  match i with
  | 0 => p.ia / 65536 % 2 ^ 36 * 2 ^ 16
  | 1 => p.gran % 2 ^ 28
  | 2 => bit1 p.r + 2 * bit1 p.w + 4 * bit1 p.a + p.idev.toNat * 2 ^ 5 + bit1 p.anyDev * 2 ^ 18 + bit1 p.anyVi * 2 ^ 19 + p.ivi.toNat * 2 ^ 20
  | _ => 0
/-- A word of a peer window written. -/
def PeerWin.put (p : PeerWin) (i v : Nat) : PeerWin :=
  match i with
  | 0 => { p with ia := bitsOf v 16 36 * 65536 }
  | 1 => { p with gran := v % 2 ^ 28 }
  | 2 => { p with r := v.testBit 0, w := v.testBit 1, a := v.testBit 2, idev := BitVec.ofNat 13 (bitsOf v 5 13), anyDev := v.testBit 18,
                  anyVi := v.testBit 19, ivi := BitVec.ofNat 6 (bitsOf v 20 6) }
  | _ => p

/-- A 64-bit word of a VI page (R390, R432, R456). -/
def State.viRead (s : State) (vi off : Nat) : Nat :=
  let v := s.vi vi
  if s.boot.viCount ≤ vi then 0
  else if 0x100 ≤ off ∧ off < 0x300 then (v.wins.get ((off - 0x100) / 32) {}).word (off % 32 / 8)
  else match off with
    | 0x000 => bit1 (v.run || v.starting) + 2 * bit1 v.fh
    | 0x008 => bit1 v.drained + 2 * bit1 v.fbovf + 4 * bit1 v.evovf
    | 0x010 => v.qtbase.toNat
    | 0x018 => v.savebase.toNat
    | 0x020 => v.savecfg.toNat
    | 0x028 => v.evbase.toNat
    | 0x030 => v.evcfg.toNat + v.evhead.toNat * 2 ^ 32
    | 0x038 => v.evtail.toNat
    | 0x040 => v.fbbase.toNat
    | 0x048 => v.fbcfg.toNat + v.fbhead.toNat * 2 ^ 32
    | 0x050 => v.fbtail.toNat
    | 0x058 => v.drainlim.toNat + v.freezelim.toNat * 2 ^ 16 + v.maxprio.toNat * 2 ^ 32 + v.age.toNat * 2 ^ 48
    | 0x0C0 => v.uibase.toNat
    | 0x0C8 => bit1 v.wakeok
    | 0x0D0 => v.uirefuse.toNat
    | 0x0E8 => v.fpkey.toNat
    | _ => 0

/-- A 64-bit write to a VI page (R390, R395, R401, R408, R431, R432, R456). -/
def State.viWrite (s : State) (vi off : Nat) (x : Dword) : State :=
  let n := x.toNat
  if s.boot.viCount ≤ vi then s
  else if 0x100 ≤ off ∧ off < 0x300 then
    s.modVi vi (fun v => { v with wins := v.wins.set ((off - 0x100) / 32) ((v.wins.get ((off - 0x100) / 32) {}).put (off % 32 / 8) n) })
  else match off with
    | 0x000 => (if n.testBit 0 then s.startVi vi else s.stopVi vi false).modVi vi (fun v => { v with fh := n.testBit 1 })
    | 0x008 => s.modVi vi (fun v => { v with fbovf := v.fbovf && !n.testBit 1, evovf := v.evovf && !n.testBit 2 })
    | 0x010 => s.modVi vi (fun v => { v with qtbase := x })
    | 0x018 => s.modVi vi (fun v => { v with savebase := x })
    | 0x020 => s.modVi vi (fun v => { v with savecfg := x.setWidth 32 })
    | 0x028 => s.modVi vi (fun v => { v with evbase := x })
    | 0x030 => s.modVi vi (fun v => { v with evcfg := x.setWidth 5, evhead := BitVec.ofNat 32 (n / 2 ^ 32) })
    | 0x040 => s.modVi vi (fun v => { v with fbbase := x })
    | 0x048 => s.modVi vi (fun v => { v with fbcfg := x.setWidth 5, fbhead := BitVec.ofNat 32 (n / 2 ^ 32) })
    | 0x058 => s.modVi vi (fun v => { v with
        drainlim := x.setWidth 16, freezelim := BitVec.ofNat 16 (n / 2 ^ 16), maxprio := BitVec.ofNat 7 (n / 2 ^ 32), age := BitVec.ofNat 8 (n / 2 ^ 48) })
    | 0x060 => s.rearm vi x
    | 0x068 => s.startPurge vi (x.setWidth 16) 3 0
    | 0x0C0 => s.modVi vi (fun v => { v with uibase := x })
    | 0x0C8 => s.modVi vi (fun v => { v with wakeok := n.testBit 0 })
    | 0x0D0 => s.clearRefuse vi
    | 0x0D8 => s.uidoor vi x 0
    | 0x0E0 => s.permsync vi (n % 256)
    | 0x0E8 => s.modVi vi (fun v => { v with fpkey := x.setWidth 16 })
    | _ => s

/-! Pages of the I/O die, and what reaches them from a head -/

/-- The fields of a control address (R471). -/
def caSocket (ca : Nat) : Nat := bitsOf ca 36 4
/-- The unit. -/
def caUnit (ca : Nat) : Nat := bitsOf ca 30 6
/-- The offset. -/
def caOff (ca : Nat) : Nat := bitsOf ca 0 30

/-- The bridge page of a head (R422). -/
def State.bridgeRead (s : State) (head off : Nat) : Dword :=
  let b := s.bridge
  match off with
  | 0x000 => BitVec.ofNat 64 (bit1 b.adopten + 2 * bit1 b.releaseReq)
  | 0x008 => BitVec.ofNat 64 (bit1 (b.active == head) + 2 * bit1 (b.links.getD (1 - head) false) + 256 * b.adoptions.toNat)
  | 0x010 => b.hobase
  | 0x020 => b.bt
  | 0x028 => BitVec.ofNat 64 (65536 * b.biasPage + bit1 b.biasDir)
  | 0x030 => BitVec.ofNat 64 (bit1 b.biasBusy + 2 * bit1 b.biasDone + 4 * bit1 b.biasErr)
  | 0x040 => b.cfstage
  | 0x050 => BitVec.ofNat 64 (bit1 b.switching + 2 * bit1 b.refused + 65536 * b.image.toNat)
  | _ => 0

/-- A register of the VI pages and bridge pages, by its offset on I/O die 14 (R471). -/
def State.ioPage (s : State) (off : Nat) : Dword :=
  if 0x10_0000 ≤ off ∧ off < 0x14_0000 then BitVec.ofNat 64 (s.viRead ((off - 0x10_0000) / 4096) (off % 4096))
  else if 0x20_0000 ≤ off ∧ off < 0x20_2000 then s.bridgeRead ((off - 0x20_0000) / 4096) (off % 4096)
  else 0

/-- Does a control address name a register that a head reaches from outside (R390, R422, R465, R471): of a VI page, or of its own bridge page,
once the heads are out of reset? -/
def State.hostReaches (s : State) (head ca : Nat) : Bool :=
  let off := caOff ca
  s.boot.ready && caSocket ca = 14 && caUnit ca = 0 && ca % 8 = 0 && decide (ca < 2 ^ 40) &&
    ((decide (0x10_0000 ≤ off) && decide (off < 0x14_0000)) ||
     (decide (head < 2) && decide (0x20_0000 + 4096 * head ≤ off) && decide (off < 0x20_1000 + 4096 * head)))

/-- A read of a register page by a head (R390, R422, R465, R466, R468): of its device page at offset `arg.index` from step 1 of boot on;
once Carafe runs, of the page of a VI or of the head's own bridge page where `arg.address` names one. Eight bytes. -/
def State.pageGot (s : State) : State :=
  let ca := s.arg.address.toNat
  if ca = 0 then
    if s.boot.step = 0 then s else s.hostGot ((s.boot.devicePage.drop s.arg.index).take 8) false false
  else if s.hostReaches s.arg.head ca then s.hostGot (leBytes 8 (s.ioPage (caOff ca)).toNat) false false
  else s

/-- The event HOST_CXL_MEM_READ (R348, R380, R416 to R419, R465; of a register page under `arg.flag`): `arg.index` bytes within the line of `arg.ia`, once the home has room for the
line and may give the lease; at BT with a lease of 1, or in host bias
from the host's own memory, after M data that the bridge holds of the line. -/
def execHostCxlMemRead (s : State) : Host.Outcome State Fault Refusal :=
  let ia := s.arg.ia
  let line := ia / 128
  let n := min s.arg.index (128 - ia % 128)
  if s.arg.flag then .next s.pageGot
  else if !s.boot.ready || isHostWindow ia || s.flipping ia then .next s
  else match s.lineHome line with
    | .slice _ _ =>
      if !s.homeHolds line false then .next s
      else if let some u := s.heldRead line s.bridge.bt .noAlloc then .next u
      else
      let (s, v) := s.grant line s.bridge.bt .noAlloc none
      let known := s.bridge.filter.contains line
      let room := known || decide (s.bridge.filter.length < 32768)
      let b : Bridge := { s.bridge with bt := tmax s.bridge.bt v.wt, filter := if room then setAdd s.bridge.filter line else s.bridge.filter }
      let bs := verBytes v (ia % 128) n
      .next ({ s with bridge := b }.hostGot (justBytes bs) (anyPoison bs) room)
    | .bridge _ _ => match s.paOf ia with
      | some pa =>
        let s := s.shareLine line
        .next (s.hostGot (s.mem.bytes pa n) ((List.range n).any (fun i => s.memPoison.contains ((pa + i) / 32))) true)
      | none => .next s
    | .refused _ => .next s

/-! The handover area -/

/-- The first 256 bytes of a VI page, the indices of its queues and its service batches, as the handover area holds them (R424). -/
def State.handoverVi (s : State) (vi : Nat) : List Byte :=
  let page := (List.range 32).flatMap (fun i => leBytes 8 (s.viRead vi (8 * i)))
  let queues := (List.range 128).flatMap (fun p => let q := s.queue vi p; leBytes 8 q.head ++ leBytes 8 q.tail)
  let mine := ((s.dies.flatMap (fun d => d.2.batches)).filter (fun e => e.2.vi = vi)).take 64
  let batches := mine.flatMap (fun e => leBytes 4 e.2.task ++ leBytes 2 e.2.tag.toNat ++ leBytes 2 e.2.fn.toNat ++ leBytes 8 e.2.k)
  page ++ queues ++ batches ++ leBytes (1024 - batches.length) 0

/-- Runs of 16 bytes that differ from what stands in memory (R424). -/
def State.changedRuns (s : State) (ia : Nat) (bs : List Byte) : List (Nat × List Byte) :=
  (List.range ((bs.length + 15) / 16)).filterMap (fun i =>
    let x := (bs.drop (16 * i)).take 16
    if s.devBytes (ia + 16 * i) x.length = x then none else some (ia + 16 * i, x))

/-- The runs of the handover area that are to be written, SEQ apart (R424); what no item takes is zero. -/
def State.handoverRuns (s : State) : List (Nat × List Byte) :=
  let ho := s.bridge.hobase.toNat
  s.changedRuns (ho + 8) (leBytes 8 s.bridge.active ++ leBytes 8 s.epoch.toNat ++ leBytes 8 s.bridge.bt.toNat ++ leBytes 0xFE0 0) ++
  (List.range 64).flatMap (fun v => s.changedRuns (ho + 0x1000 + 4096 * v) (s.handoverVi v ++ leBytes 768 0))

/-- The event HANDOVER_UPDATE (R424): SEQ odd, the items that changed, SEQ even, once every line of them can be written; nothing where
no item changed. -/
def execHandoverUpdate (s : State) : Host.Outcome State Fault Refusal :=
  let ho := s.bridge.hobase.toNat
  if ho = 0 then .next s
  else
    let seq := s.bridge.handSeq
    let runs := s.handoverRuns
    let lines := (ho / 128 :: runs.map (fun e => e.1 / 128)).eraseDups
    let far := lines.filter (fun l => !s.devReady l s.h)
    let tables := (s.vis.filter (fun e => e.2.drained && e.2.qtbase ≠ 0)).map (fun e => e.2.qtbase.toNat)
    if !far.isEmpty then .next (far.foldl (fun s l => s.devAsk l s.h) s)
    else if !tables.all (fun a => s.readable a 4096) then .next (tables.foldl (fun s a => s.readAsk a 4096) s)
    else if runs.isEmpty then .next s
    else
      let s := (s.devWrite ho (leBytes 8 (seq + 1).toNat) s.h false (0, 0)).1
      let s := runs.foldl (fun s e => (s.devWrite e.1 e.2 s.h false (0, 0)).1) s
      let s := (s.devWrite ho (leBytes 8 (seq + 2).toNat) s.h false (0, 0)).1
      .next { s with bridge := { s.bridge with handSeq := seq + 2 } }

end Sys2Proof.Machine
end

