-- ==== Sys2Proof/Machine/Fabric.lean ====
section
/-!
DEFINITION. The fabric: ports, flits and packets, routing, requests and their timers, peer windows, the fabric space, and the
forms PNOTIFY and PATOM (R446 to R462).
-/

namespace Sys2Proof.Machine

/-! Ports and packets -/

/-- A port. -/
def State.port (s : State) (p : Nat) : Port := s.fabric.ports.get p {}
/-- The state with the fabric changed. -/
def State.modFabric (s : State) (g : Fabric → Fabric) : State := { s with fabric := g s.fabric }
/-- The state with a port changed. -/
def State.modPort (s : State) (p : Nat) (g : Port → Port) : State := s.modFabric (fun f => { f with ports := f.ports.set p (g (f.ports.get p {})) })
/-- Is the port Up (R447)? -/
def State.portUp (s : State) (p : Nat) : Bool := decide (p < 96) && (s.port p).st == .up
/-- The code of a virtual channel in the model's table of credits. -/
def vcCode (v : Vc) : Nat := match v with | .classO => 0 | .classU => 1 | .escape => 2 | .mgmt => 3
/-- STATE of PCTL (R457). -/
def PortSt.code (x : PortSt) : Nat := match x with | .down => 0 | .training => 1 | .up => 2 | .failed => 3
/-- Is it a management packet (R453)? -/
def isMgmt (k : Packet) : Bool :=
  match k.body with | .mgmtRead .. | .mgmtWrite .. | .mgmtValue .. | .portNotice .. => true | _ => false
/-- Are these the data of a PCPY? -/
def isData (b : PktBody) : Bool := match b with | .data .. => true | _ => false
/-- Does the packet ask something of a module? -/
def isAsk (k : Packet) : Bool := match k.body with | .read .. | .write .. | .atom .. | .notice .. => true | _ => false

/-- Bytes of data that a packet carries. -/
def bodySize (b : PktBody) : Nat :=
  match b with
  | .write _ d _ => d.length
  | .data d _ => d.length
  | .atom _ _ _ vs => 16 * vs.length
  | .olds vs _ => 8 * vs.length
  | _ => 0
/-- Flits of a packet: payloads of 232 bytes, of its data alone, since no rule says what else of it a payload holds (R446; DESIGN CHOICE,
unsafe, log 83). -/
def flitsOf (k : Packet) : Nat := max 1 ((bodySize k.body + 231) / 232)

/-- The next flit of a port (R446): its header carries the acknowledgement of what came in, a negative acknowledgement that is due, and the
credits of its channel to return (log 83). -/
def Port.flit (x : Port) (vc : Vc) (packet : Option Packet) (part : Bool) : Flit :=
  { vc := vc, seq := x.txSeq, good := true, ack := if x.rxSeq = 0 then none else some (x.rxSeq - 1), nack := x.nacks.head?,
    credit := x.owed.get (vcCode vc) 0, packet := packet, part := part }
/-- A flit leaves: it stands in the replay buffer; one with a payload takes a credit (R446, R450). -/
def Port.push (x : Port) (fl : Flit) : Port :=
  let c := vcCode fl.vc
  { x with replay := x.replay ++ [fl], txSeq := x.txSeq + 1, nacks := [], ackDue := false, owed := x.owed.erase c
           credits := if fl.packet.isSome || fl.part then x.credits.set c (x.credits.get c 0 - 1) else x.credits }

/-- Flits of a packet leave by a port while there are credits and room in the replay buffer (R446, R450): how many have then left, of
which `gone` had before. -/
def State.leave (s : State) (p : Nat) (k : Packet) (gone : Nat) : State × Nat :=
  let x := s.port p
  let n := min (flitsOf k - gone) (min (x.credits.get (vcCode k.vc) 0) (256 - x.replay.length))
  if !s.portUp p || n = 0 then (s, gone)
  else
    let last (i : Nat) : Bool := decide (gone + i + 1 = flitsOf k)
    let s := s.modPort p (fun x => (List.range n).foldl (fun x i => x.push (x.flit k.vc (if last i then some k else none) (!last i))) x)
    (if gone + n = flitsOf k then s.modFabric (fun f => { f with sent := (p, k) :: f.sent }) else s, gone + n)

/-- A packet at the port it goes by: it leaves, or what is left of it waits behind those of its channel (R446, R450). -/
def State.queueAt (s : State) (p : Nat) (k : Packet) (esc : Bool) (came : Option Nat) : State :=
  let k : Packet := if esc then { k with vc := .escape } else k
  let (s, gone) := if s.fabric.transit.any (fun e => e.2.port = p && e.2.packet.vc == k.vc) then (s, 0) else s.leave p k 0
  if gone = flitsOf k then s
  else s.modFabric (fun f =>
    { f with transit := f.transit.set f.nextT { packet := k, port := p, since := s.now, escape := esc, came := came, gone := gone }
             nextT := f.nextT + 1 })

/-- What waits at a port goes while it can, in order. -/
def State.pumpPort (s : State) (p : Nat) : State :=
  (s.fabric.transit.filter (fun e => e.2.port = p)).foldl (fun s e =>
    let (s, gone) := s.leave p e.2.packet e.2.gone
    let left (m : Map Transit) : Map Transit :=
      if gone = flitsOf e.2.packet then m.erase e.1 else m.set e.1 { e.2 with gone := gone, since := s.now }
    if gone = e.2.gone then s else s.modFabric (fun f => { f with transit := left f.transit })) s

/-- The virtual channels. -/
def channels : List Vc := [.classO, .classU, .escape, .mgmt]
/-- What is due to the partner and no payload has carried goes in flits without payload: credits of each channel, a negative
acknowledgement, an acknowledgement (R446, log 83). -/
def State.tellPartner (s : State) (p : Nat) : State :=
  if !s.portUp p then s
  else s.modPort p (fun x =>
    let x := channels.foldl (fun x vc => if x.owed.get (vcCode vc) 0 = 0 || decide (256 ≤ x.replay.length) then x else x.push (x.flit vc none false)) x
    if (x.nacks.isEmpty && !x.ackDue) || decide (256 ≤ x.replay.length) then x else x.push (x.flit .mgmt none false))

/-- A counter of dropped packets of a port goes up, saturating (R449, R453, R457). -/
def State.countDrop (s : State) (p : Nat) (key : Bool) : State :=
  s.modPort p (fun x => if key then { x with dropk := satInc x.dropk 1 } else { x with dropr := satInc x.dropr 1 })

/-- The candidate ports of an entry that are Up, ascending (R449). -/
def State.liveCands (s : State) (e : Route) : List Nat := (List.range 96).filter (fun p => e.cand.getLsbD p && s.portUp p)

/-- Routing of R449. A packet of this module that no entry routes came by no port: it is counted at the port that the entry's ESC names
(DESIGN CHOICE, unsafe, log 94). -/
def State.route (s : State) (k : Packet) (src : Option Nat) : State :=
  let e := s.fabric.routes.get k.dst {}
  let live := s.liveCands e
  if !e.v then s.countDrop (src.getD e.esc.toNat) false
  else if k.vc == .escape || live.isEmpty then
    (if s.portUp e.esc.toNat then s.queueAt e.esc.toNat k true src else s)
  else if k.vc == .classU then s.queueAt (live.headD 0) k false src
  else s.queueAt (live.getD (Config.flowHash k.src k.dst % live.length) 0) k false src

/-- A packet goes on its way (R448, R449): to this module, or by a port. A module without an identifier takes and sends
management packets alone. -/
def State.transmit (s : State) (k : Packet) (src : Option Nat) : State :=
  let f := s.fabric
  if !f.assigned && !(isMgmt k) then s
  else if k.dst = f.devid.toNat then s.modFabric (fun f => { f with inbox := f.inbox.set f.nextT { port := src, packet := k }, nextT := f.nextT + 1 })
  else s.route k src

/-! Requests -/

/-- Must a new class-O packet to a module be held back (R451)? -/
def State.pairHeld (s : State) (dst : Nat) : Bool := s.fabric.reqs.any (fun e => e.2.old && e.2.packet.dst = dst)

/-- The fibre of a request that is a notice, and the module and VI it goes to (R460). -/
def FabReq.notice (q : FabReq) : Option (FRef × Nat × Nat) :=
  match q.kind, q.packet.body with
  | .pnotify r _ _, .notice vi _ _ => some (r, q.packet.dst, vi)
  | _, _ => none
/-- The request of this module whose packet this is. -/
def State.reqOf (s : State) (k : Packet) : Option (Nat × FabReq) :=
  if isAsk k then s.fabric.reqs.find? (fun e => e.2.packet.engine = k.engine && e.2.packet.seq = k.seq && e.2.packet.dst = k.dst) else none
/-- Must a packet of this module wait: a path has changed (R451), or it is a notice and an earlier one of its fibre to the same VI has no
answer yet (R460)? -/
def State.mustHold (s : State) (k : Packet) : Bool :=
  (k.classO && s.pairHeld k.dst) ||
  (match s.reqOf k with
   | some (id, q) => q.notice.isSome && s.fabric.reqs.any (fun e => decide (e.1 < id) && e.2.notice == q.notice)
   | none => false)

/-- A packet of this module that is not held back goes; a request counts as sent from now (R452). -/
def State.sendNow (s : State) (k : Packet) : State :=
  let s := match s.reqOf k with
    | some (id, q) => s.modFabric (fun f => { f with reqs := f.reqs.set id { q with sends := 1, sentAt := s.now } })
    | none => s
  s.transmit k none
/-- A new packet of this module goes, or is held back (R451, R460). -/
def State.emit (s : State) (k : Packet) : State :=
  if s.mustHold k then s.modFabric (fun f => { f with heldBack := f.heldBack ++ [k] }) else s.sendNow k

/-- Sends a request of this module (R452); its number is `nextReq` before. -/
def State.fabSend (s : State) (core : Nat) (kind : FabKind) (vi : Nat) (tag : BitVec 16) (dst : Nat) (vc : Vc) (body : PktBody) : State :=
  let f := s.fabric
  let k : Packet := { src := f.devid.toNat, dst := dst, unassigned := false, vi := vi, key := (s.vi vi).fpkey, vc := vc, classO := vc == .classO,
                      engine := core, seq := f.seq, body := body }
  (s.modFabric (fun f => { f with
    reqs := f.reqs.set f.nextReq { packet := k, kind := kind, vi := vi, tag := tag, sends := 0 }
    nextReq := f.nextReq + 1
    seq := f.seq + 1 })).emit k

/-- Packets held back that need not be any longer go, in order (R451, R460). -/
def State.releasePairs (s : State) : State :=
  s.fabric.heldBack.foldl (fun s k => s.emit k) (s.modFabric (fun f => { f with heldBack := [] }))

/-- The path to destinations has changed: class-O requests on their way there hold back new ones (R451). -/
def State.pathChanged (s : State) (p : Nat → Bool) : State :=
  s.modFabric (fun f => { f with reqs := f.reqs.mapVal (fun _ q =>
    if q.packet.vc == .classO && decide (0 < q.sends) && p q.packet.dst then { q with old := true } else q) })

/-- Destinations that name a port as candidate. -/
def State.viaPort (s : State) (p d : Nat) : Bool := (s.fabric.routes.get d {}).cand.getLsbD p

/-! Failure notices -/

/-- A notice to every manager (R454). -/
def State.portNotice (s : State) (p : Nat) : State :=
  let f := s.fabric
  let ms := (List.range 8).filterMap (fun n => let e := f.mgrs.get n (0, false); if e.2 then some e.1.toNat else none)
  ms.foldl (fun s m =>
    let k : Packet := { src := if f.assigned then f.devid.toNat else 0, dst := m, unassigned := !f.assigned, vi := 0, key := 0xFFFF,
                        vc := .mgmt, engine := 0, seq := 0,
                        body := .portNotice f.devid.toNat p (BitVec.ofNat 2 (s.port p).st.code) s.ns }
    s.emit k) s

/-- A port stops carrying traffic: its replay buffer is lost, what waits there is routed again (R447, R454). -/
def State.portStops (s : State) (p : Nat) (st : PortSt) : State :=
  let s := s.modPort p (fun x => { x with st := st, replay := [], retries := 0, credits := [], nacks := [], ackDue := false, owed := [], asked := none })
  let s := s.pathChanged (s.viaPort p)
  let mine := s.fabric.transit.filter (fun e => e.2.port = p)
  mine.foldl (fun s e => (s.modFabric (fun f => { f with transit := f.transit.erase e.1 })).route e.2.packet e.2.came) s

/-- A port fails (R446, R447, R454). -/
def State.portFails (s : State) (p : Nat) : State :=
  ((s.portStops p .failed).modPort p (fun x => { x with lost := true })).portNotice p

/-- EN is written 1 (R447): Down and Failed ports train. -/
def State.portEnable (s : State) (p : Nat) : State :=
  if (s.port p).en || decide (96 ≤ p) then s
  else s.modPort p (fun x => { x with en := true, st := .training, trainAt := s.now })
/-- EN is written 0 (R447): a Failed port stays so until EN is 1 again. -/
def State.portDisable (s : State) (p : Nat) : State :=
  let x := s.port p
  if !x.en then s
  else
    let s := s.modPort p (fun x => { x with en := false })
    match x.st with
    | .failed => s
    | .up => s.portStops p .down
    | _ => s.modPort p (fun x => { x with st := .down })

/-- The event PORT_ENABLE (R447). -/
def execPortEnable (s : State) : Host.Outcome State Fault Refusal := .next (s.portEnable s.arg.port)
/-- The event PORT_DISABLE (R447). -/
def execPortDisable (s : State) : Host.Outcome State Fault Refusal := .next (s.portDisable s.arg.port)

/-- The event TRAINING_COMPLETE (R447, R454, R457): the partner's identifier is learnt; `arg.index` is the credits that each channel
starts with. -/
def execTrainingComplete (s : State) : Host.Outcome State Fault Refusal :=
  let p := s.arg.port
  let x := s.port p
  if x.st != .training || decide (96 ≤ p) || decide (x.trainAt + ms 10 ≤ s.now) then .next s
  else
    let n := s.arg.index
    let s := s.modPort p (fun x => { x with st := .up, peer := s.arg.partner.getD 0, peerv := s.arg.partner.isSome, lost := false,
                                            credits := [(0, n), (1, n), (2, n), (3, n)], replay := [], retries := 0, txSeq := 0, rxSeq := 0 })
    let s := s.pathChanged (s.viaPort p)
    .next (if x.lost then s.portNotice p else s)

/-- The event TRAINING_TIMEOUT (R447): 10 ms without completing. -/
def execTrainingTimeout (s : State) : Host.Outcome State Fault Refusal :=
  let x := s.port s.arg.port
  if x.st == .training && decide (x.trainAt + ms 10 ≤ s.now) then .next (s.portFails s.arg.port) else .next s

/-- The event PORT_FAILURE (R446, R454): lock is lost, or nothing has come for 1 μs. -/
def execPortFailure (s : State) : Host.Outcome State Fault Refusal :=
  if s.portUp s.arg.port then .next (s.portFails s.arg.port) else .next s

/-! Flits -/

/-- The event FLIT_RECEIVE (R446): acknowledgements and credits are taken; a flit whose CRC fails is negatively acknowledged, one out
of order is left to the replay. The credit of a flit that completes no packet goes back at once (log 83). -/
def execFlitReceive (s : State) : Host.Outcome State Fault Refusal :=
  let p := s.arg.port
  match s.arg.flit with
  | none => .next s
  | some fl =>
    let x := s.port p
    if !s.portUp p then .next s
    else if !fl.good then .next ((s.modPort p (fun x => { x with nacks := x.rxSeq :: x.nacks })).tellPartner p)
    else if fl.seq ≠ x.rxSeq then .next s
    else
      let left := match fl.ack with | some a => x.replay.filter (fun y => decide (a < y.seq)) | none => x.replay
      let x' : Port := { x with
        rxSeq := x.rxSeq + 1
        credits := x.credits.set (vcCode fl.vc) (x.credits.get (vcCode fl.vc) 0 + fl.credit)
        replay := left
        retries := if left.length = x.replay.length then x.retries else 0
        ackDue := x.ackDue || fl.part || fl.packet.isSome
        owed := if fl.part then x.owed.set (vcCode fl.vc) (x.owed.get (vcCode fl.vc) 0 + 1) else x.owed
        asked := if fl.nack.isSome then fl.nack else x.asked }
      let s := ((s.modPort p (fun _ => x')).pumpPort p).tellPartner p
      match fl.packet with
      | some k => .next (s.modFabric (fun f => { f with arrivals := f.arrivals.set f.nextT (p, k), nextT := f.nextT + 1 }))
      | none => .next s

/-- The event FLIT_REPLAY (R446, R457): the flits from the one asked for on are sent again; once eight replays in a row have failed, the
port fails. -/
def execFlitReplay (s : State) : Host.Outcome State Fault Refusal :=
  let p := s.arg.port
  let x := s.port p
  match x.asked with
  | none => .next s
  | some n =>
    if !s.portUp p then .next s
    else
      let again := (x.replay.filter (fun y => decide (n ≤ y.seq))).filterMap (fun y => y.packet.map (fun k => (p, k)))
      if 8 ≤ x.retries then .next ((s.modPort p (fun x => { x with asked := none })).portFails p)
      else
        let s := s.modPort p (fun x => { x with asked := none, retries := x.retries + 1, replays := satInc x.replays 1 })
        .next (s.modFabric (fun f => { f with sent := again.reverse ++ f.sent }))

/-! Arrivals -/

/-- Does a key table accept a packet key (R453)? -/
def keyOk (keys : Map (BitVec 16)) (k : BitVec 16) : Bool :=
  keys.any (fun e => e.2 ≠ 0 && e.2.extractLsb' 0 15 == k.extractLsb' 0 15 && (e.2.getLsbD 15 || k.getLsbD 15))

/-- Is a device in a valid MGRn (R453)? -/
def State.isManager (s : State) (d : Nat) : Bool := s.fabric.mgrs.any (fun e => e.2.2 && e.2.1.toNat = d)

/-- Is the packet of class O, and an earlier one of its pair is still in the list (R451)? -/
def pairBehind (l : List (Nat × Packet)) (id : Nat) (k : Packet) : Bool :=
  k.classO && l.any (fun e => decide (e.1 < id) && e.2.classO && e.2.src = k.src && e.2.dst = k.dst)

/-- The event PACKET_ARRIVAL (R446, R448, R449, R451, R453): the packet named by `arg`, which a flit brought, is accepted by its key, then
delivered or sent on, class-O packets of a pair in order; the credit of its last flit goes back. -/
def execPacketArrival (s : State) : Host.Outcome State Fault Refusal :=
  let id := s.arg.id
  match s.fabric.arrivals.find id with
  | none => .next s
  | some (p, k) =>
    if pairBehind (s.fabric.arrivals.map (fun e => (e.1, e.2.2))) id k then .next s
    else
    let s := ((s.modFabric (fun f => { f with arrivals := f.arrivals.erase id })).modPort p (fun x =>
      { x with owed := x.owed.set (vcCode k.vc) (x.owed.get (vcCode k.vc) 0 + 1) })).tellPartner p
    let ok := if isMgmt k then k.key = 0xFFFF && (k.dst ≠ s.fabric.devid.toNat || s.isManager k.src) else keyOk (s.port p).keys k.key
    if ok then .next (s.transmit k (some p)) else .next (s.countDrop p true)

/-- The event ESCAPE_MOVE (R450): a packet that has waited 2 μs goes to the escape channel, whole: one of which flits have left waits on
(log 83). -/
def execEscapeMove (s : State) : Host.Outcome State Fault Refusal :=
  match s.fabric.transit.find s.arg.id with
  | none => .next s
  | some t =>
    let e := s.fabric.routes.get t.packet.dst {}
    if t.escape || t.gone ≠ 0 || decide (s.now < t.since + us 2) || !e.v || !s.portUp e.esc.toNat then .next s
    else
      let s := s.modFabric (fun f => { f with transit := f.transit.erase s.arg.id })
      let s := if t.packet.src = s.fabric.devid.toNat then s.pathChanged (fun d => d = t.packet.dst) else s
      .next (s.queueAt e.esc.toNat t.packet true t.came)

/-- The event ESCAPE_DROP (R450): a packet that has waited 100 μs on an escape channel is dropped. -/
def execEscapeDrop (s : State) : Host.Outcome State Fault Refusal :=
  match s.fabric.transit.find s.arg.id with
  | none => .next s
  | some t =>
    if t.escape && decide (t.since + us 100 ≤ s.now) then
      .next ((s.modPort t.port (fun x => { x with drope := satInc x.drope 1 })).modFabric (fun f => { f with transit := f.transit.erase s.arg.id }))
    else .next s

/-! The fabric space -/

/-- Bytes of a register of the fabric space at an offset (R457): where it begins, its size and its value. -/
def State.fabReg (s : State) (off : Nat) : Nat × Nat × Nat :=
  let f := s.fabric
  if off < 8 then (0, 8, f.devid.toNat + 2 ^ 15 * bit1 f.assigned)
  else if 0x10 ≤ off ∧ off < 0x50 then
    let n := (off - 0x10) / 8
    let e := f.mgrs.get n (0, false)
    (0x10 + 8 * n, 8, e.1.toNat + 2 ^ 15 * bit1 e.2)
  else if 0x100 ≤ off ∧ off < 0x400 then
    let p := (off - 0x100) / 8
    let x := s.port p
    (0x100 + 8 * p, 8, bit1 x.en + 2 * x.st.code + 8 * x.peer.toNat + 2 ^ 16 * bit1 x.peerv)
  else if 0x1000 ≤ off ∧ off < 0x4000 then
    let p := (off - 0x1000) / 128
    let k := (off - 0x1000) % 128 / 2
    (0x1000 + 128 * p + 2 * k, 2, ((s.port p).keys.get k 0).toNat)
  else if 0x4000 ≤ off ∧ off < 0x4C00 then
    let x := s.port ((off - 0x4000) / 32)
    let i := (off - 0x4000) % 32 / 8
    (off / 8 * 8, 8, (if i = 0 then x.dropr else if i = 1 then x.dropk else if i = 2 then x.drope else x.replays).toNat)
  else if 0x1_0000 ≤ off ∧ off < 0x3_0000 then
    let e := f.routes.get ((off - 0x1_0000) / 16) {}
    (off / 16 * 16, 16, e.cand.toNat + 2 ^ 96 * e.esc.toNat + 2 ^ 103 * (2 * bit1 e.v))
  else (off / 8 * 8, 8, 0)

/-- `n` bytes of the fabric space. -/
def State.fabRead (s : State) (off n : Nat) : Nat :=
  leNat ((List.range n).map (fun i => let (b, _, v) := s.fabReg (off + i); BitVec.ofNat 8 (v / 2 ^ (8 * (off + i - b)))))

/-- A whole register written (R457). A routing entry whose ESC is above 95 is left as it is. -/
def State.fabPut (s : State) (base v : Nat) : State :=
  if base = 0 then s.modFabric (fun f => { f with devid := BitVec.ofNat 13 v, assigned := v.testBit 15 })
  else if 0x10 ≤ base ∧ base < 0x50 then s.modFabric (fun f => { f with mgrs := f.mgrs.set ((base - 0x10) / 8) (BitVec.ofNat 13 v, v.testBit 15) })
  else if 0x100 ≤ base ∧ base < 0x400 then
    let p := (base - 0x100) / 8
    if v.testBit 0 then s.portEnable p else s.portDisable p
  else if 0x1000 ≤ base ∧ base < 0x4000 then
    s.modPort ((base - 0x1000) / 128) (fun x => { x with keys := x.keys.set ((base - 0x1000) % 128 / 2) (BitVec.ofNat 16 v) })
  else if 0x4000 ≤ base ∧ base < 0x4C00 then
    let i := (base - 0x4000) % 32 / 8
    if v ≠ 0 then s
    else s.modPort ((base - 0x4000) / 32) (fun x =>
      if i = 0 then { x with dropr := 0 } else if i = 1 then { x with dropk := 0 } else if i = 2 then { x with drope := 0 } else { x with replays := 0 })
  else if 0x1_0000 ≤ base ∧ base < 0x3_0000 then
    let d := (base - 0x1_0000) / 16
    if 95 < bitsOf v 96 7 then s
    else (s.modFabric (fun f => { f with routes := f.routes.set d { cand := BitVec.ofNat 96 v, esc := BitVec.ofNat 7 (v / 2 ^ 96), v := v.testBit 104 } })).pathChanged (fun x => x = d)
  else s

/-- `n` bytes written into the fabric space, register by register. -/
def State.fabWrite (s : State) (off n v : Nat) : State :=
  let regs := (distinct ((List.range n).map (fun i => (s.fabReg (off + i)).1)))
  regs.foldl (fun s b =>
    let (_, size, old) := s.fabReg b
    let new := leNat ((List.range size).map (fun i =>
      if decide (off ≤ b + i) && decide (b + i < off + n) then BitVec.ofNat 8 (v / 2 ^ (8 * (b + i - off))) else BitVec.ofNat 8 (old / 2 ^ (8 * i))))
    s.fabPut b new) s

/-- An answer of this module to a packet; one without an identifier answers by the port the packet came by (R448). The data of a PCPY are
of class U, every other answer of class O (R449). -/
def State.answer (s : State) (port : Option Nat) (k : Packet) (vi : Nat) (body : PktBody) : State :=
  let f := s.fabric
  let out : Packet := { src := if f.assigned then f.devid.toNat else 0, dst := k.src, unassigned := !f.assigned, vi := vi,
                        key := if isMgmt k then 0xFFFF else (s.vi vi).fpkey, vc := if isMgmt k then .mgmt else if isData body then .classU else .classO,
                        classO := !isData body, engine := k.engine, seq := k.seq, body := body }
  match f.assigned, port with
  | false, some p => s.queueAt p out false none
  | _, _ => s.emit out

/-- Is a packet for this module behind an earlier class-O packet of its pair (R451)? -/
def State.inboxBehind (s : State) (id : Nat) (k : Packet) : Bool := pairBehind (s.fabric.inbox.map (fun e => (e.1, e.2.packet))) id k

/-- The event MANAGEMENT_PACKET (R448, R457): a manager reads or writes the fabric space; a register, key or entry is one whole. -/
def execManagementPacket (s : State) : Host.Outcome State Fault Refusal :=
  let id := s.arg.id
  match s.fabric.inbox.find id with
  | none => .next s
  | some ⟨port, k, _⟩ =>
    if !(isMgmt k) || s.inboxBehind id k then .next s
    else
      let s := s.modFabric (fun f => { f with inbox := f.inbox.erase id })
      match k.body with
      | .mgmtRead off => .next (s.answer port k 0 (.mgmtValue (s.fabReg off).2.2))
      | .mgmtWrite off v =>
        let s := s.fabPut (s.fabReg off).1 v
        .next (s.answer port k 0 (.mgmtValue (s.fabReg off).2.2))
      | _ => .next s

/-! Inbound accesses -/

/-- The fields of a peer pointer (R455): device, VI, window, offset. -/
def peerDev (p : Dword) : Nat := bitsOf p.toNat 51 13
/-- RVI. -/
def peerVi (p : Dword) : Nat := bitsOf p.toNat 45 6
/-- WIN. -/
def peerWin (p : Dword) : Nat := bitsOf p.toNat 41 4
/-- OFF. -/
def peerOff (p : Dword) : Nat := bitsOf p.toNat 0 41

/-- Does a page admit peers: MANUAL, in device bias, non-secure (R456)? -/
def State.peerPage (s : State) (ia : Nat) : Bool := match s.lineHome (ia / 128) with | .slice .manual true => true | _ => false

/-- The IA an inbound access leads to, or none where it is refused (R456). -/
def State.peerIa (s : State) (k : Packet) (ptr : Dword) (n : Nat) (perm : PeerWin → Bool) : Option Nat :=
  let v := s.vi (peerVi ptr)
  let w := v.wins.get (peerWin ptr) {}
  let off := peerOff ptr
  let ia := w.ia + off
  if v.run && w.gran ≠ 0 && (w.anyDev || w.idev.toNat = k.src) && (w.anyVi || w.ivi.toNat = k.vi) && perm w &&
      decide (off + n ≤ w.gran * 65536) && (List.range ((ia % 65536 + n + 65535) / 65536)).all (fun i => s.peerPage (ia / 65536 * 65536 + i * 65536))
  then some ia else none

/-- One HomeWrite of bytes of a line, each with its poison (R230, R385). -/
def State.homeWriteMarked (s : State) (ia : Nat) (bs : List (Byte × Bool)) (stamp : Time) (who : Nat × BitVec 16) : State × Ver :=
  let line := ia / 128
  let off := ia % 128
  let (s, v) := s.homeWrite line (bs.zipIdx.map (fun e => (off + e.2, e.1.1))) stamp false who
  let secs := distinct ((bs.zipIdx.filter (fun e => e.1.2)).map (fun e => (off + e.2) / 32))
  (s.poisonHome line secs, { v with poison := secs.foldl (fun p k => setBit p k true) v.poison })

/-- FT takes a time (R456). -/
def State.raiseFt (s : State) (t : Time) : State := s.modFabric (fun f => { f with ft := tmax f.ft t })

/-- What an inbound request does and answers (R456, R460); `none` while the host still holds a line of it, its page flips, or a time it
would make is beyond the span (R380, R418, R420). A read makes no lease. -/
def State.inbound (s : State) (k : Packet) : Option (State × Nat × PktBody) :=
  match k.body with
  | .read ptr n => match s.peerIa k ptr n PeerWin.r with
    | none => some (s, peerVi ptr, .refusal)
    | some ia =>
      if (splitAt' (n / 128 + 2) 128 ia n).any (fun e => !s.homeReady (e.1 / 128) false) then none
      else some (s, peerVi ptr, .data (s.iaBytes ia n) ((List.range n).map (fun i => s.iaPoison (ia + i))))
  | .write ptr data bad => match s.peerIa k ptr data.length PeerWin.w with
    | none => some (s, peerVi ptr, .refusal)
    | some ia =>
      let parts := splitAt' (data.length / 128 + 2) 128 ia data.length
      if parts.any (fun e => !s.homeReady (e.1 / 128) true || (s.heldAt (e.1 / 128) s.fabric.ft).isSome) then none
      else
        let s := parts.foldl (fun (s : State) e =>
          let bs := (List.range e.2).map (fun i => (data.getD (e.1 - ia + i) 0, bad.getD (e.1 - ia + i) false))
          let (s, v) := s.homeWriteMarked e.1 bs s.fabric.ft (peerVi ptr, 0)
          s.raiseFt v.wt) s
        some (s, peerVi ptr, .ack)
  | .atom ptr aop ty vals => match s.peerIa k ptr ty.bytes PeerWin.a with
    | none => some (s, peerVi ptr, .refusal)
    | some ia =>
      if ia % ty.bytes ≠ 0 then some (s, peerVi ptr, .refusal)
      else if !s.homeReady (ia / 128) true || (s.heldAt (ia / 128) s.fabric.ft).isSome then none
      else
        let lanes := vals.zipIdx.map (fun e => (e.2, e.1.extractLsb' 0 64, e.1.extractLsb' 64 64))
        let (s, v, olds, poisoned) := s.homeAtomic (ia / 128) (ia % 128) aop.toNat ty lanes s.fabric.ft (peerVi ptr, 0)
        some ((if poisoned then s else s.raiseFt v.wt), peerVi ptr, .olds (olds.map Prod.snd) poisoned)
  | .notice vi vector payload =>
    if !s.sendReady vi vector (.peer k.src k.vi) then none
    else
    let (s, ok) := s.acceptSend vi vector payload s.fabric.ft (.peer k.src k.vi)
    some (s, vi, .answer ok)
  | _ => none

/-- The last 1,024 completed requests of a source are kept (R452). -/
def noteDone (l : List (Nat × Nat × BitVec 16 × Nat × PktBody)) (src eng : Nat) (seq : BitVec 16) (vi : Nat) (b : PktBody) :
    List (Nat × Nat × BitVec 16 × Nat × PktBody) :=
  (src, eng, seq, vi, b) :: (((l.filter (fun e => e.1 = src)).take 1023) ++ l.filter (fun e => e.1 ≠ src))

/-- The lines that an inbound request reads or writes, and whether it writes. -/
def State.inLines (s : State) (k : Packet) : List Nat × Bool :=
  let (ptr, n, wr) : Dword × Nat × Bool := match k.body with
    | .read ptr n => (ptr, n, false) | .write ptr d _ => (ptr, d.length, true) | .atom ptr _ ty _ => (ptr, ty.bytes, true) | _ => (0, 0, false)
  match s.peerIa k ptr n (fun _ => true) with
  | some ia => ((splitAt' (n / 128 + 2) 128 ia n).map (fun e => e.1 / 128), wr)
  | none => ([], wr)

/-- Has the inbound engine of a port a permit free toward each slice of some lines: of four, those that waiting requests of the port hold
are taken (R349)? -/
def State.inPermit (s : State) (port : Option Nat) (lines : List Nat) : Bool :=
  lines.all (fun l => decide (((s.fabric.inbox.filter (fun e => e.2.sent && e.2.port == port &&
    (s.inLines e.2.packet).1.any (fun x => s.home (x * 128) == s.home (l * 128)))).length) < 4))

/-- Asks for what an inbound request waits for: the host, or a step of the horizon (R380, R418, R420). -/
def State.inAsk (s : State) (k : Packet) : State :=
  match k.body with
  | .notice vi vector _ => s.sendAsk vi vector
  | _ =>
    let (ls, wr) := s.inLines k
    ls.foldl (fun s l => if wr then s.devAsk l s.fabric.ft else s.homeAsk l false) s

/-- The event INBOUND_PEER_ACCESS (R349, R451, R452, R456): a request for this module is performed once and answered; requests of a pair of
class O go in order, and one that must wait holds a permit toward each of its slices. -/
def execInboundPeerAccess (s : State) : Host.Outcome State Fault Refusal :=
  let id := s.arg.id
  match s.fabric.inbox.find id with
  | none => .next s
  | some m =>
    let k := m.packet
    if !(isAsk k) || s.inboxBehind id k then .next s
    else
      let gone (s : State) : State := s.modFabric (fun f => { f with inbox := f.inbox.erase id })
      match s.fabric.doneRecs.find? (fun e => e.1 = k.src && e.2.1 = k.engine && e.2.2.1 = k.seq) with
      | some e => .next ((gone s).answer m.port k e.2.2.2.1 e.2.2.2.2)
      | none =>
        if !m.sent && !s.inPermit m.port (s.inLines k).1 then .next s
        else match s.inbound k with
          | some (u, vi, body) =>
            let u := (gone u).modFabric (fun f => { f with doneRecs := noteDone f.doneRecs k.src k.engine k.seq vi body })
            .next (u.answer m.port k vi body)
          | none => .next ((s.inAsk k).modFabric (fun f => { f with inbox := f.inbox.set id { m with sent := true } }))

/-! The ends of requests -/

/-- A destination of MCST or MRED was dropped: its record (R444, R462). -/
def State.dropRecord (s : State) (r : FRef) (addr va : Nat) : State :=
  let b := s.block r.blk
  s.faultRecord b.vi addr va 7 false b.tag b.task

/-- A command with one request answered. -/
def Cmd.answered (m : Cmd) (id : Nat) : Cmd := { m with reqs := m.reqs.filter (· ≠ id) }

/-- PCPY's data arrive, or its request was refused or failed (R459). -/
def State.pcpyDone (s : State) (core cmd id : Nat) (body : Option PktBody) : State :=
  match (s.core core).cmds.find cmd with
  | none => s
  | some m =>
    let m := m.answered id
    let b := s.block m.ref.blk
    match body with
    | some (.data bytes bad) =>
      let bs := bytes.zipIdx.map (fun e => (e.1, bad.getD e.2 false))
      (match s.enginePieces b (dfld m.desc 20 1) (dfld m.desc 8 8) bytes.length Range.w with
       | .ok ps => s.setCmd core cmd { m with runs := layRuns ps bs }
       | .error e => s.cmdRng core cmd m e)
    | some .refusal => s.setCmd core cmd { m with err := ecRecord 0 7 m.a.toNat }
    | _ => s.setCmd core cmd { m with err := ecRecord 0 8 m.a.toNat }

/-- A peer destination of MCST or MRED is answered (R444). Of a command that a purge took, one that was refused leaves its record all the
same (R462). -/
def State.mcastDone (s : State) (q : FabReq) (core cmd id addr : Nat) (body : Option PktBody) : State :=
  match (s.core core).cmds.find cmd with
  | none => match body with
    | some .ack | some (.olds _ _) => s
    | _ => s.faultRecord q.vi addr 0 7 false q.tag 0
  | some m =>
    let m := m.answered id
    match body with
    | some .ack => s.setCmd core cmd { m with done := m.done + 1 }
    | some (.olds _ bad) => s.setCmd core cmd (if bad then m else { m with done := m.done + 1 })
    | _ => (s.setCmd core cmd { m with dropped := m.dropped + 1 }).dropRecord m.ref addr 0

/-- An answer leaves its warp-slot entry if no other request still serves it. -/
def State.endAnswer (s : State) (r : FRef) (pend : Nat) : State :=
  let more := s.fabric.reqs.any (fun e => match e.2.kind with | .patom q p _ _ _ => q = r && p = pend | _ => false)
  if more then s else s.modWarp r.blk r.warp (fun w => { w with pend := w.pend.erase pend })

/-- The other words of a PATOM leave its destination alone: it is unpredictable in every active lane (R142, R461). -/
def State.spoilPatom (s : State) (r : FRef) (pend : Nat) : State :=
  s.modFabric (fun f => { f with reqs := f.reqs.mapVal (fun _ q => match q.kind with
    | .patom q' p ls off _ => if q' = r && p = pend then { q with kind := .patom q' p ls off true } else q
    | _ => q) })

/-- Lanes of PATOM take their old values, or zero with a fault record; a poisoned reply leaves the destination unpredictable in every
active lane (R142, R461). -/
def State.patomDone (s : State) (q : FabReq) (r : FRef) (pend : Nat) (lanes : List Nat) (spoilt : Bool) (body : Option PktBody) : State :=
  let dest := match (s.warp r.blk r.warp).pend.find pend with | some p => p.dv | none => []
  let (ptr, ty) : Dword × Ty := match q.packet.body with | .atom ptr _ ty _ => (ptr, ty) | _ => (0, .none)
  let write (s : State) (vs : List Dword) : State := match dest with
    | e :: _ => if spoilt then s else s.landEffs r (lanes.zipIdx.flatMap (fun x => vregEffs e.1 ty.words x.1 (vs.getD x.2 0).toNat))
    | [] => s
  match body with
  | some (.olds vs bad) =>
    if bad then
      let effs : List Eff := dest.flatMap (fun e => (lanesOf e.2).map (fun l => .vreg e.1 l 0))
      let s := ({ s with free := s.free + effs.length }.landEffs r (garble s.free effs)).spoilPatom r pend
      (s.endAnswer r pend).consumePoison r 0
    else (write s vs).endAnswer r pend
  | _ =>
    let b := s.block r.blk
    let s := lanes.foldl (fun s _ => s.faultRecord b.vi ptr.toNat 0 9 false b.tag b.task) (write s [])
    s.endAnswer r pend

/-- A request ends: with its answer, or none where it failed (R452, R459 to R462). -/
def State.fabDone (s : State) (id : Nat) (q : FabReq) (body : Option PktBody) : State :=
  let s := s.modFabric (fun f => { f with reqs := f.reqs.erase id })
  let s := match q.kind with
    | .pcpy core cmd => s.pcpyDone core cmd id body
    | .mcast core cmd addr => s.mcastDone q core cmd id addr body
    | .patom r pend lanes _ spoilt => s.patomDone q r pend lanes spoilt body
    | .pnotify r p pend =>
      let ok := match body with | some (.answer ok) => ok | _ => false
      (s.modWarp r.blk r.warp (fun w => { w with pend := w.pend.erase pend })).landEff r (.upred p ok)
  s.releasePairs

/-- The event FABRIC_REPLY (R451, R452): an answer for this module reaches the request it names; one that names none is discarded. -/
def execFabricReply (s : State) : Host.Outcome State Fault Refusal :=
  let id := s.arg.id
  match s.fabric.inbox.find id with
  | none => .next s
  | some ⟨_, k, _⟩ =>
    if isAsk k || isMgmt k || s.inboxBehind id k then .next s
    else
      let s := s.modFabric (fun f => { f with inbox := f.inbox.erase id })
      match s.fabric.reqs.find? (fun e => e.2.packet.engine = k.engine && e.2.packet.seq = k.seq && e.2.packet.dst = k.src && decide (0 < e.2.sends)) with
      | some e => .next (s.fabDone e.1 e.2 (some k.body))
      | none => .next s

/-- The event FABRIC_REQUEST_TIMER (R452): 200 μs without an answer; resent five times, then failed. -/
def execFabricRequestTimer (s : State) : Host.Outcome State Fault Refusal :=
  let id := s.arg.id
  match s.fabric.reqs.find id with
  | none => .next s
  | some q =>
    if q.sends = 0 || decide (s.now < q.sentAt + us 200) then .next s
    else if 6 ≤ q.sends then .next (s.fabDone id q none)
    else
      let s := s.modFabric (fun f => { f with reqs := f.reqs.set id { q with sends := q.sends + 1, sentAt := s.now, old := false } })
      .next ((s.transmit q.packet none).releasePairs)

/-- Has no flit of a request's packet left the module (R462)? -/
def State.unsent (s : State) (q : FabReq) : Bool :=
  let same (k : Packet) : Bool := isAsk k && k.src = q.packet.src && k.engine = q.packet.engine && k.seq = q.packet.seq
  q.sends = 0 || (q.sends = 1 && s.fabric.transit.any (fun e => same e.2.packet && e.2.came.isNone && e.2.gone = 0))

/-- Does a purge, or the end of its command, take a request away (R258, R462)? A peer destination that has been sent is still awaited. -/
def State.forgets (s : State) (q : FabReq) : Bool :=
  match q.kind with
  | .pcpy core cmd => ((s.core core).cmds.find cmd).isNone
  | .mcast core cmd _ => ((s.core core).cmds.find cmd).isNone && s.unsent q
  | .patom r _ _ _ _ => s.purging q.vi q.tag && !(s.block r.blk).service
  | .pnotify r _ _ => s.purging q.vi q.tag && !(s.block r.blk).service

/-- A request is forgotten: its packet is discarded if it has not been sent, and its answer will name none (R462). -/
def State.forget (s : State) (id : Nat) (q : FabReq) : State :=
  let same (k : Packet) : Bool := isAsk k && k.src = q.packet.src && k.engine = q.packet.engine && k.seq = q.packet.seq
  s.modFabric (fun f => { f with
    reqs := f.reqs.erase id
    heldBack := f.heldBack.filter (fun k => !same k)
    transit := f.transit.filter (fun e => !(same e.2.packet && e.2.came.isNone && e.2.gone = 0)) })

/-- Requests that purges take away; what they held back goes (R451, R462). -/
def State.dropFabric (s : State) : State :=
  let mine := s.fabric.reqs.filter (fun e => s.forgets e.2)
  if mine.isEmpty then s
  else (mine.foldl (fun s e =>
    let s := s.forget e.1 e.2
    match e.2.kind with
    | .patom r pend _ _ _ => s.endAnswer r pend
    | .pnotify r p pend => (s.modWarp r.blk r.warp (fun w => { w with pend := w.pend.erase pend })).landEff r (.upred p false)
    | _ => s) s).releasePairs

/-! The forms of fibres -/

/-- Do PATOM lanes or peer destinations of the fibre still await their acknowledgement (R460)? -/
def State.peersPending (s : State) (r : FRef) : Bool :=
  s.fabric.reqs.any (fun e => match e.2.kind with
    | .patom q _ _ _ _ => q = r
    | .mcast core cmd _ => ((s.core core).cmds.find cmd).any (fun m => m.ref = r)
    | _ => false) ||
  (s.core (s.block r.blk).core).cmds.any (fun e => e.2.ref = r && !e.2.started && (e.2.op == .mcst || e.2.op == .mred))

/-- PNOTIFY (R460). -/
def execPnotify (f : Ins) (s : State) := sysOp .pnotify f s (fun c =>
  let b := c.blk
  let t := c.vb 0 % 2 ^ 32
  let q := upredDest f.d
  let v := c.vecNum f.a
  if bitsOf t 13 3 ≠ 0 || bitsOf t 22 10 ≠ 0 || decide (63 < v) then c.ill
  else if c.s.peersPending c.r then c.stall c.s
  else c.release .s (fun s =>
    let id := (s.warp c.r.blk c.r.warp).nextPend
    let s := c.retire s
    let s := s.addPend c.r { fib := c.r.fib, dq := if q = 15 then [] else [q], entries := 1, since := s.now, body := .answer false }
    s.fabSend b.core (.pnotify c.r q id) b.vi b.tag (bitsOf t 0 13) .classO (.notice (bitsOf t 16 6) v (BitVec.ofNat 32 (c.vb 0 / 2 ^ 32)))))

/-- One lane of PATOM (R461): its offset, or the refusal. -/
def Ctx.patomAcc (c : Ctx) (lane : Nat) : Except Bad Acc :=
  let off : Int := bitsOf (c.va lane) 0 41 + (match c.f.b with | .imm x => sext 16 x.toNat | _ => sext 32 (c.vb lane))
  if off < 0 ∨ 2 ^ 41 ≤ off then .error { cls := cRNG, lane := lane, addr := off, sp := true }
  else .ok { lane := lane, addr := BitVec.ofNat 64 off.toNat, place := off.toNat }

/-- PATOM (R461): one request for each word, its lanes in ascending order. One that reads a poisoned operand sends nothing, so that no
unpredictable value reaches the other VI, and raises POI (R9, R62, R322). -/
def execPatom (f : Ins) (s : State) := issueWith .patom f s (fun c _ => c.raEnd) (fun c =>
  match c.accesses c.patomAcc true false false with
  | .error b => c.refuse b
  | .ok as =>
    let o := f.x.order
    let as := c.withData (f.x.aop = 9) as
    let b := c.blk
    let p := c.va (c.lanes.headD 0)
    let go (s : State) : State :=
      if c.poisoned then { c with s := s }.finish { effs := c.lanes.flatMap (fun l => vregEffs c.dreg f.x.ty.words l 0) }
      else
      let id := (s.warp c.r.blk c.r.warp).nextPend
      let s := c.skip (c.retire s)
      let s := s.addPend c.r { fib := c.r.fib, dv := (List.range f.x.ty.words).map (fun k => (c.dreg + k, c.act)), entries := 1, since := s.now,
                               body := .answer (o == .acq || o == .ar) }
      (distinct (as.map Acc.place)).foldl (fun (s : State) off =>
        let mine := as.filter (fun a => a.place = off)
        let ptr : Dword := BitVec.ofNat 64 (p / 2 ^ 41 * 2 ^ 41 + off)
        s.fabSend b.core (.patom c.r id (mine.map Acc.lane) off false) b.vi b.tag (peerDev ptr) .classO
          (.atom ptr (BitVec.ofNat 4 f.x.aop) f.x.ty (mine.map (fun a => a.w ++ a.v)))) s
    if c.s.memHeld c.r false then c.stall c.s
    else if o == .rel || o == .ar then (if c.s.peersPending c.r then c.stall c.s else c.release .s go)
    else go c.s)

end Sys2Proof.Machine
end

