-- ==== Sys2Proof/Machine/Commands.lean ====
section
/-!
DEFINITION. The multi-destination stores MCST and MRED, the remote copy PCPY, and the starts and completions of every engine
command (R251, R254, R443, R444, R459).
-/

namespace Sys2Proof.Machine

/-! MCST and MRED -/

/-- N, LEN, and a destination of the list: ADDR and the identifier word (R443). -/
def listN (d : List Byte) : Nat := dfld d 0 1
/-- LEN. -/
def listLen (d : List Byte) : Nat := dfld d 2 2
/-- ADDR of destination `i`. -/
def listAddr (d : List Byte) (i : Nat) : Nat := dfld d (16 + 16 * i) 8
/-- The identifier word of destination `i`. -/
def listDev (d : List Byte) (i : Nat) : Nat := dfld d (24 + 16 * i) 2

/-- The first failure of a list (R257, R443); 0 if it is sound. -/
def listCheck (m : Cmd) : Nat :=
  let d := m.desc
  let n := listN d
  let len := listLen d
  let ok := decide (1 ≤ n) && decide (n ≤ 8)
  let bad := !dzero d 1 1 || !dzero d 6 10 ||
    (ok && (List.range n).any (fun i => bitsOf (listDev d i) 13 2 ≠ 0 || !dzero d (26 + 16 * i) 6))
  if bad then 1
  else if !ok || (if m.op = .mcst then len = 0 || len % 4 ≠ 0 || decide (128 < len) else len ≠ 0) then 2
  else if m.op = .mcst && m.b.toNat % 4 ≠ 0 then 3
  else 0

/-- Bytes that one destination takes. -/
def Cmd.destBytes (m : Cmd) : Nat := if m.op = .mcst then listLen m.desc else m.f.x.ty.bytes

/-- Issues MCST or MRED with its list, 16 + 16N bytes (R261, R443). -/
def Ctx.issueList (c : Ctx) : State :=
  if !c.mayCommand .copy then c.stall c.s
  else
    let va := c.va 0
    c.withDesc va 16 (fun s bs t =>
      let n := (bs.headD (0, false)).1.toNat
      let n := if n ≤ 8 then n else 0
      match s.enginePieces c.blk 0 ((va : Int) + 16) (16 * n) Range.r with
      | .error e => ({ c with s := s } : Ctx).vaRefused va e.page
      | .ok ps => match s.clearing c.blk.core c.fib.ptime ps false with
        | some s => c.stall s
        | none =>
          let (s, more, u) := s.readPieces c.blk.core c.fib.ptime ps
          let all := bs ++ more
          let m : Cmd := { c.command .copy with a := BitVec.ofNat 64 va, b := BitVec.ofNat 64 (c.vb 0), desc := justBytes all,
                                                descPoison := anyPoison all, kt := tmax t u }
          let off : Nat := m.b.toNat % 2 ^ 32
          let m : Cmd := { m with reads := if m.op = .mcst && listCheck m = 0 then c.blk.regionOf 1 (off : Int) ((off : Int) + listLen m.desc) else [] }
          ((c.retire s).accept m).descPoison c m.descPoison)

/-- MCST. -/
def execMcst (f : Ins) (s : State) := sysOp .mcst f s Ctx.issueList
/-- MRED. -/
def execMred (f : Ins) (s : State) := sysOp .mred f s Ctx.issueList

/-- Where a local destination lies, or none where it is dropped (R444). -/
def State.destPiece (s : State) (m : Cmd) (addr : Nat) : Option Piece :=
  let b := s.block m.ref.blk
  let n := m.destBytes
  let mis := if m.op = .mcst then addr % 4 ≠ 0 || decide (128 < addr % 128 + n) else addr % n ≠ 0
  if mis then none
  else match s.vaPiece b (if m.op = .mcst then Range.w else Range.a) addr n with
    | .ok p => some p
    | .error _ => none

/-- MCST performs one destination: a single HomeWrite, or the level-one cache of a PRIVATE page (R444, R255). -/
def State.mcstWrite (s : State) (m : Cmd) (p : Piece) (bs : List (Byte × Bool)) : State × Time :=
  let key := l1Key (p.place / 128) p.ns
  if p.attr == .priv then
    (s.dirty p.core key .priv (bs.zipIdx.map (fun e => (p.place % 128 + e.2, e.1.1))) (s.warp m.ref.blk m.ref.warp).slot m.ti (anyPoison bs), m.kt)
  else
    let (s, v) := s.homeWriteMarked p.place bs m.ti (m.vi, m.tag)
    (s.wroteBack p.core key none v, tmax m.kt v.wt)

/-- MRED performs one destination (R444, R240, R136): the state, the time, and whether the location was sound. -/
def State.mredAt (s : State) (m : Cmd) (p : Piece) : State × Time × Bool :=
  let key := l1Key (p.place / 128) p.ns
  let ty := m.f.x.ty
  let off := p.place % 128
  if p.attr == .priv then
    let (s, _) := s.privLine p.core p
    match s.l1Read p.core key off ty.bytes 0 with
    | some (x, _, bad) =>
      if bad then (s, m.kt, false)
      else
        let y := leBytes ty.bytes (aopApply m.f.x.aop ty x m.b.toNat 0)
        (s.dirty p.core key .priv (y.zipIdx.map (fun e => (off + e.2, e.1))) (s.warp m.ref.blk m.ref.warp).slot m.ti false, m.kt, true)
    | none => (s, m.kt, false)
  else
    let (s, v, _, bad) := s.homeAtomic (p.place / 128) off m.f.x.aop ty [(0, m.b, 0)] m.ti (m.vi, m.tag)
    if bad then (s, m.kt, false) else (s.wroteBack p.core key none v, tmax m.kt v.wt, true)

/-- The request to a peer destination: ADDR is its peer pointer (R444, R455). -/
def State.sendDest (s : State) (core id : Nat) (m : Cmd) (addr dev : Nat) (bs : List (Byte × Bool)) : State :=
  let ptr : Dword := BitVec.ofNat 64 addr
  s.fabSend core (.mcast core id addr) m.vi m.tag dev .classO
    (if m.op = .mcst then .write ptr (justBytes bs) (bs.map Prod.snd) else .atom ptr (BitVec.ofNat 4 m.f.x.aop) m.f.x.ty [m.b.setWidth 128])

/-- One destination of a list (R444). -/
def State.oneDest (s : State) (core id i : Nat) (m : Cmd) (bs : List (Byte × Bool)) : State × Cmd :=
  let addr := listAddr m.desc i
  let dev := listDev m.desc i
  let dropped (s : State) (va : Nat) : State × Cmd := (s.dropRecord m.ref addr va, { m with dropped := m.dropped + 1 })
  if dev.testBit 15 then
    if s.feature m.service 5 then
      (s.sendDest core id m addr (bitsOf dev 0 13) bs, { m with reqs := s.fabric.nextReq :: m.reqs })
    else dropped s 0
  else match s.destPiece m addr with
    | none => dropped s addr
    | some p =>
      if m.op = .mcst then
        let (s, t) := s.mcstWrite m p bs
        (s, { m with kt := t, done := m.done + 1 })
      else
        let (s, t, ok) := s.mredAt m p
        (s, { m with kt := t, done := if ok then m.done + 1 else m.done })

/-- Starts MCST or MRED (R444): every destination is written, dropped or on its way; STATUS is laid out. -/
def State.startList (s : State) (core id : Nat) (m : Cmd) : State :=
  let b := s.block m.ref.blk
  let code := listCheck m
  if code ≠ 0 then s.failCmd core id m code m.a.toNat
  else
    let n := listN m.desc
    let len := if m.op = .mcst then listLen m.desc else 0
    let off : Nat := m.b.toNat % 2 ^ 32
    match s.enginePieces b 1 (off : Nat) len Range.r, s.vaPiece b Range.w (m.a.toNat + 4) 2 with
    | .error e, _ => s.cmdRng core id m e
    | _, .error e => s.cmdRng core id m e
    | .ok src, .ok status =>
      let own := (List.range n).filterMap (fun i => if (listDev m.desc i).testBit 15 then none else s.destPiece m (listAddr m.desc i))
      match s.clearing core m.ti (status :: own) true with
      | some s => s
      | none =>
        let (s, bs, _) := s.readPieces core m.ti (if len = 0 then [] else src)
        let (s, m) := (List.range n).foldl (fun acc i => acc.1.oneDest core id i acc.2 bs) (s, m)
        s.setCmd core id { m with started := true, runs := layRuns [status] [(0, false), (0, false)] }

/-- STATUS as the command ends with it (R443). -/
def Cmd.withStatus (m : Cmd) : Cmd :=
  { m with runs := m.runs.map (fun r => { r with bytes := [BitVec.ofNat 8 m.done, BitVec.ofNat 8 m.dropped] }) }

/-! PCPY -/

/-- The first failure of a PCPY descriptor (R459); 0 if it is sound. -/
def pcpyCheck (d : List Byte) : Nat :=
  let len := dfld d 16 4
  if !dzero d 21 11 || decide (1 < dfld d 20 1) then 1
  else if len = 0 || len % 4 ≠ 0 || decide (2 ^ 24 < len) then 2
  else if dfld d 0 8 % 2 ^ 41 % 4 ≠ 0 || dfld d 8 8 % 4 ≠ 0 then 3
  else 0

/-- PCPY (R459). -/
def execPcpy (f : Ins) (s : State) := sysOp .pcpy f s (fun c =>
  c.issueDesc .copy 32 [] (fun c m =>
    let da := dfld m.desc 8 8
    if pcpyCheck m.desc = 0 then { m with writes := c.blk.regionOf (dfld m.desc 20 1) da (da + dfld m.desc 16 4) } else m))

/-- Does a class-O request on its way name an address of the source (R449)? -/
def State.named (s : State) (src : Dword) (n : Nat) : Bool :=
  s.fabric.reqs.any (fun e => match (if e.2.packet.classO then Vc.classO else Vc.classU), e.2.packet.body with
    | .classO, .write p d _ => p.toNat / 2 ^ 41 = src.toNat / 2 ^ 41 && spanMeet (peerOff p) (peerOff p + d.length) (peerOff src) (peerOff src + n)
    | .classO, .read p k => p.toNat / 2 ^ 41 = src.toNat / 2 ^ 41 && spanMeet (peerOff p) (peerOff p + k) (peerOff src) (peerOff src + n)
    | .classO, .atom p _ ty _ => p.toNat / 2 ^ 41 = src.toNat / 2 ^ 41 && spanMeet (peerOff p) (peerOff p + ty.bytes) (peerOff src) (peerOff src + n)
    | _, _ => false)

/-- Home copies pinned for data on their way to them (R348). -/
def State.pinHomes (s : State) (lines : List Nat) : State :=
  { s with homes := s.homes.mapVal (fun k h => if lines.contains k then { h with pins := h.pins + 1 } else h) }
/-- The lines at slices that a fabric fill allocates: of each slice as many as it has permits toward it (R348, R349). -/
def State.fillable (s : State) (dst : List Piece) : List Nat :=
  let lines := (pieceLines (dst.filter (fun p => p.attr != .priv))).filter (fun l => match s.lineHome l with | .slice _ _ => true | _ => false)
  lines.foldl (fun acc l => if (acc.filter (fun x => s.home (x * 128) == s.home (l * 128))).length < 4 then acc ++ [l] else acc) []

/-- Starts a PCPY: one request for the whole source range; the lines its data come to are pinned (R348, R459). -/
def State.startPcpy (s : State) (core id : Nat) (m : Cmd) : State :=
  let b := s.block m.ref.blk
  let code := pcpyCheck m.desc
  let len := dfld m.desc 16 4
  let src : Dword := BitVec.ofNat 64 (dfld m.desc 0 8)
  if code ≠ 0 then s.failCmd core id m code m.a.toNat
  else match s.enginePieces b (dfld m.desc 20 1) (dfld m.desc 8 8 : Nat) len Range.w with
    | .error e => s.cmdRng core id m e
    | .ok dst => match s.clearing core m.ti dst false with
      | some s => s
      | none =>
        let rid := s.fabric.nextReq
        let lines := s.fillable dst
        ((lines.foldl (fun s l => s.fill l) s).pinHomes lines |>.setCmd core id { m with started := true, reqs := [rid], pinned := lines }).fabSend core (.pcpy core id) m.vi m.tag (peerDev src)
          (if s.named src len then .classO else .classU) (.read src len)

/-! Starts and completions -/

/-- Starts a command that may start (R254, R276); NOTIFY is no command of the engines. -/
def State.startCmd (s : State) (core id : Nat) (m : Cmd) : State :=
  if m.started then s
  else if m.engine = .matrix then (if s.matrixHeld core id m then s
    else (s.modCore core (fun c => { c with lastCtx := some ((s.block m.ref.blk).context m) })).startMatrix core id m)
  else if m.op = .notify || s.cmdHeld core id m then s
  else match m.op with
    | .chain => s.startChain core id m
    | .tblld | .cbld => s.startImage core id m
    | .cpyr | .cpym => s.startPush core id m
    | .mcst | .mred => s.startList core id m
    | .pcpy => s.startPcpy core id m
    | _ => s.startCopy core id m

/-- The event COMMAND_START. -/
def execCommandStart (s : State) : Host.Outcome State Fault Refusal :=
  match (s.core s.arg.core).cmds.find s.arg.id with
  | some m => .next (s.startCmd s.arg.core s.arg.id m)
  | none => .next s

/-- Does an earlier matrix command of the same accumulator context hold the completion back (R276)? -/
def State.matrixBehind (s : State) (core id : Nat) (m : Cmd) : Bool :=
  (s.core core).cmds.any (fun e => decide (e.1 < id) && e.2.engine = .matrix &&
    (s.block e.2.ref.blk).context e.2 == (s.block m.ref.blk).context m)

/-- Completes a started command that awaits nothing (R251, R255, R444, R459). -/
def State.finishCmd (s : State) (core id : Nat) (m : Cmd) : State :=
  if !m.started || !m.reqs.isEmpty || m.op = .notify then s
  else if m.engine = .matrix then (if s.matrixBehind core id m then s else s.completeMatrix core id m)
  else if (m.op = .mcst || m.op = .mred) && m.err = 0 then s.completeCmd core id m.withStatus
  else s.completeCmd core id m

/-- The event COMMAND_COMPLETION. -/
def execCommandCompletion (s : State) : Host.Outcome State Fault Refusal :=
  match (s.core s.arg.core).cmds.find s.arg.id with
  | some m => .next (s.finishCmd s.arg.core s.arg.id m)
  | none => .next s

end Sys2Proof.Machine
end

