-- ==== Sys2Proof/Machine/Registers.lean ====
section
/-!
DEFINITION. Control registers and their forms CSRR, CSRW and HALT; reset, boot, features, power and telemetry
(R8, R383, R422, R463 to R477).
-/

namespace Sys2Proof.Machine

/-! Pages of control registers -/

/-- The chiplet page (R472). -/
def State.chipletPage (s : State) (c off : Nat) : Dword :=
  let x := s.chiplet c
  match off with
  | 0x000 => x.ttroot
  | 0x008 => x.mtime
  | 0x010 => x.temp.setWidth 64
  | 0x018 => x.power.setWidth 64
  | 0x020 => x.cecnt
  | 0x028 => x.uecnt
  | 0x030 => x.scrubs.setWidth 64
  | 0x038 => BitVec.ofNat 64 x.tlb.length
  | _ => 0

/-- A write to a chiplet page (R471, R472). -/
def State.chipletWrite (s : State) (c off : Nat) (v : Dword) : State :=
  match off with
  | 0x000 => s.modChiplet c (fun x => { x with ttroot := v &&& 0x00000FFFFFFF0001 })
  | 0x020 => if v = 0 then s.modChiplet c (fun x => { x with cecnt := 0 }) else s
  | 0x028 => if v = 0 then s.modChiplet c (fun x => { x with uecnt := 0 }) else s
  | _ => s

/-- A write to the bridge page of a head (R420, R422, R423, R425, R430): the standby head's, but for ADOPT, is ignored. -/
def State.bridgeWrite (s : State) (head off : Nat) (v : Dword) : State :=
  let n := v.toNat
  if off = 0x018 then (if v = 1 then s.adopt head else s)
  else if head ≠ s.bridge.active then s
  else match off with
    | 0x000 => { s with bridge := { s.bridge with adopten := n.testBit 0, releaseReq := s.bridge.releaseReq || n.testBit 1 } }
    | 0x010 => { s with bridge := { s.bridge with hobase := BitVec.ofNat 64 (n / 4096 * 4096) } }
    | 0x028 => if n.testBit 1 then s.biasGo (bitsOf n 16 36) (n.testBit 0)
        else { s with bridge := { s.bridge with biasPage := bitsOf n 16 36, biasDir := n.testBit 0 } }
    | 0x038 => s.hwait head v
    | 0x040 => { s with bridge := { s.bridge with cfstage := v } }
    | 0x048 => if v = 1 then { s with bridge := { s.bridge with switching := true } } else s
    | _ => s

/-- Does a control address name a register of the table (R471, R474)? I/O dies are always live. -/
def State.caOk (s : State) (ca : Nat) : Bool :=
  let k := caSocket ca
  decide (ca < 2 ^ 40) &&
    (if k < 6 then s.boot.dies.getLsbD k && decide (caUnit ca ≤ 32) && decide (caOff ca < 0x10000)
     else if k < 14 then s.boot.chiplets.getLsbD (k - 6) && caUnit ca = 0 && decide (caOff ca < 0x10000)
     else if k = 14 then caUnit ca = 0 && decide (caOff ca < 0x300000)
     else caUnit ca = 0 && decide (caOff ca < 0x10000))

/-- The register at a control address (R471); nothing is assigned on the link calibration page. -/
def State.csr (s : State) (ca : Nat) : Dword :=
  let k := caSocket ca
  let off := caOff ca
  if k < 6 then s.corePage (33 * k + caUnit ca) off
  else if k < 14 then s.chipletPage k off
  else if k = 14 then
    (if 0x1_0000 ≤ off ∧ off < 0x4_0000 then BitVec.ofNat 64 (s.fabRead (off - 0x1_0000) 8)
     else s.ioPage off)
  else 0

/-- A write to the register at a control address (R8, R471). -/
def State.csrPut (s : State) (ca : Nat) (v : Dword) : State :=
  let k := caSocket ca
  let off := caOff ca
  if k < 6 then s.corePageWrite (33 * k + caUnit ca) off v
  else if k < 14 then s.chipletWrite k off v
  else if k = 14 then
    (if 0x1_0000 ≤ off ∧ off < 0x4_0000 then s.fabWrite (off - 0x1_0000) 8 v.toNat
     else if 0x10_0000 ≤ off ∧ off < 0x14_0000 then s.viWrite ((off - 0x10_0000) / 4096) (off % 4096) v
     else if 0x20_0000 ≤ off ∧ off < 0x20_2000 then s.bridgeWrite ((off - 0x20_0000) / 4096) (off % 4096) v
     else s)
  else s

/-- A write to a page of a VI that must wait for the host, with what it waits for asked of it (R419). -/
def State.csrWaits (s : State) (ca : Nat) (v : Dword) : Option State :=
  let off := caOff ca
  if caSocket ca = 14 ∧ 0x10_0000 ≤ off ∧ off < 0x14_0000 then s.pageWaits ((off - 0x10_0000) / 4096) (off % 4096) v 0 else none

/-- The event REGISTER_WRITE (R8, R390, R422, R471): a head writes a register that it reaches, by its control address. -/
def execRegisterWrite (s : State) : Host.Outcome State Fault Refusal :=
  let ca := s.arg.address.toNat
  if s.hostReaches s.arg.head ca then .next ((s.csrWaits ca s.arg.value).getD (s.csrPut ca s.arg.value)) else .next s

/-! CSRR, CSRW and HALT -/

/-- The checks of a control address, and the wait for earlier accesses (R474), before `k`. -/
def Ctx.csrForm (c : Ctx) (k : Nat → State) : State :=
  let ca := c.va 0
  if c.blk.ns || !c.s.caOk ca then c.raise cRNG (accessVal true 0 ca)
  else if ca % 8 ≠ 0 then c.raise cALN (accessVal true 0 ca)
  else if c.s.accessing c.r || c.s.memHeld c.r false then c.stall c.s
  else k ca

/-- CSRR (R473, R474). -/
def execCsrr (f : Ins) (s : State) := sysOp .csrr f s (fun c =>
  c.csrForm (fun ca => c.finish { effs := destEffs c.d 2 0 (c.s.csr ca).toNat }))
/-- CSRW (R473, R474). -/
def execCsrw (f : Ins) (s : State) := sysOp .csrw f s (fun c =>
  c.csrForm (fun ca =>
    let v : Dword := BitVec.ofNat 64 (c.vb 0)
    match c.s.csrWaits ca v with
    | some u => c.stall u
    | none => (c.retire c.s).csrPut ca v))
/-- HALT (R475). -/
def execHalt (f : Ins) (s : State) := sysOp .halt f s (fun c =>
  if (c.s.core c.blk.core).latch then (c.retire c.s).modCore c.blk.core (fun x => { x with latch := false }) else c.stall c.s)

/-- The event EVSET (R475). -/
def execEvset (s : State) : Host.Outcome State Fault Refusal := .next (s.modCore s.arg.core (fun x => { x with latch := true }))

/-! Features -/

/-- The event FEATACC_WRITE (R468): only while every VI is drained; bit 0 stays 1, a bit not offered stays 0. -/
def execFeataccWrite (s : State) : Host.Outcome State Fault Refusal :=
  if s.boot.ready && (List.range s.boot.viCount).all (fun v => (s.vi v).drained) then
    .next { s with boot := { s.boot with featacc := (s.arg.feat &&& s.boot.offered) ||| 1 } }
  else .next s

/-! Reset and boot -/

/-- The event RESET (R383): the machine as after reset. Package memory keeps its bytes (log 4); what moves next, and the counter
of free values, are the model's. -/
def execReset (s : State) : Host.Outcome State Fault Refusal :=
  .next { State.reset with mem := s.mem, memPoison := s.memPoison, agenda := s.agenda, turn := s.turn, free := s.free }

/-- What the records other than LIVE set (R464). -/
def State.configure (s : State) (st : BootStore) : State :=
  let vis := cfgOf st 6
  let count := match vis with | some n => bitsOf n 0 64 | none => 64
  let dev := (cfgOf st 2).getD 0
  { s with
    boot := { s.boot with tamperS := (cfgOf st 3).getD 60, scrubH := (cfgOf st 4).getD 24, viCount := count, cap := (cfgOf st 7).getD 3400 }
    bridge := { s.bridge with adoptForbidden := ((cfgOf st 5).getD 0).testBit 0 }
    fabric := { s.fabric with devid := BitVec.ofNat 13 dev, assigned := dev.testBit 15 } }

/-- The live parts that a LIVE record names (R464). -/
def State.liveParts (s : State) (n : Nat) : State :=
  let dies := bitsOf n 0 6
  let live := (List.range 6).filter (fun d => dies.testBit d)
  { s with boot := { s.boot with
      dies := BitVec.ofNat 6 dies
      chiplets := BitVec.ofNat 8 (bitsOf n 6 8)
      slices := live.map (fun d => (d, BitVec.ofNat 16 (bitsOf n (14 + 49 * d) 16)))
      coreMask := live.map (fun d => (d, BitVec.ofNat 33 (bitsOf n (30 + 49 * d) 33))) } }

/-- Step 1 of boot (R463 to R466): the records are read and checked; the LIVE record that applies, or the end of boot. -/
def State.bootRecords (s : State) (st : BootStore) : State :=
  let s := { s with boot := { s.boot with step := 1, store := st } }
  match cfgOf st 1 with
  | none =>
    let n := (st.records.filter (fun r => cfgFormed r && cfgType r = 1)).length
    { s with boot := { s.boot with err := true, nolive := true, detail := BitVec.ofNat 16 n } }
  | some live => (s.configure st).liveParts live

/-- Step 2 (R465): both signatures of the stored image; if they verify, the scans of step 3 begin. -/
def State.bootImage (s : State) : State :=
  if sigOk s.boot.store.image.sig then ({ s with boot := { s.boot with step := 2 } }).scanService
  else { s with boot := { s.boot with err := true, cfbad := true } }

/-- Is a live service core still to be scanned? -/
def State.scanning (s : State) : Bool := s.liveDies.any (fun d => (s.core (33 * d + 32)).tamper = .draining)

/-- The blocks with which the stored image starts Carafe on a die's service core (R465, log 95); a quarantined one runs none (R412). -/
def State.startCarafe (s : State) (d : Nat) : State :=
  let img := s.boot.store.image
  let core := 33 * d + 32
  match kernelOf img.descriptor 0, rangeSet img.ranges with
  | some k, some rs =>
    let b : Block := { (Task.shape { tr := { warps := img.warps }, ker := k, ranges := rs }) with service := true, start := s.h }
    let fits := decide (img.warps ≤ Config.slots) && decide (b.rspan + b.sspan ≤ Config.storeBytes - Config.l1Floor)
    if s.coreOpen core && fits then s.seat b 0 ⟨core, 0, pageUp b.rspan⟩ none else s
  | _, _ => s

/-- Step 5 (R465, R468, R470): Carafe starts on every live service core and enables the VIs at their reset values; FEATOFF is published, the
heads leave reset. -/
def State.bootCarafe (s : State) : State :=
  let st := s.boot.store
  let secure := match cfgOf st 6 with | some n => bitsOf n 64 64 | none => 0
  let s := s.liveDies.foldl State.startCarafe s
  { s with
    boot := { s.boot with step := 5, ready := true, offered := (st.offered &&& 0x3F) ||| 1 }
    bridge := { s.bridge with image := st.image.version }
    vis := (List.range s.boot.viCount).map (fun v => (v, { ns := !secure.testBit v })) }

/-- The event BOOT (R410, R412, R463 to R468, R470): the next step of boot, in order; step 3 ends when no live service core waits for
its scan; the folds of step 4 are functions of the live parts (R367). -/
def execBoot (s : State) : Host.Outcome State Fault Refusal :=
  if s.boot.err then .next s
  else match s.boot.step with
    | 0 => .next (s.bootRecords s.arg.store)
    | 1 => .next s.bootImage
    | 2 => .next (if s.scanning then s else { s with boot := { s.boot with step := 3 } })
    | 3 => .next { s with chiplets := s.chiplets.mapVal (fun _ c => { c with ttroot := 0 }), boot := { s.boot with step := 4 } }
    | 4 => .next s.bootCarafe
    | _ => .next s

/-! Power, temperature, telemetry -/

/-- The event POWER_THROTTLE (R464, R476): the power measured over a millisecond is `arg.value2` in mW, the hottest die is at
`arg.index` sixteenths of a degree. At the cap or at 105 °C the core clock falls by 50 MHz, to 350 MHz at least; else it rises
again. -/
def execPowerThrottle (s : State) : Host.Outcome State Fault Refusal :=
  let cause := decide (1000 * s.boot.cap ≤ s.arg.value2.toNat) || decide (1680 ≤ s.arg.index)
  .next { s with throttle := if cause then min 7 (s.throttle + 1) else s.throttle - 1 }

/-- The event THERMAL_STOP (R476): a die at `arg.index` sixteenths of a degree, 115 °C or more, stops the module. -/
def execThermalStop (s : State) : Host.Outcome State Fault Refusal :=
  if 1840 ≤ s.arg.index then .next { s with stopped := true, bridge := { s.bridge with links := [false, false] } } else .next s

/-- The event TELEMETRY_SAMPLE (R472, R477): TEMP and POWER of a core, or under `arg.flag` of a chiplet. -/
def execTelemetrySample (s : State) : Host.Outcome State Fault Refusal :=
  let t : BitVec 16 := s.arg.value.setWidth 16
  if s.arg.flag then .next (s.modChiplet s.arg.chiplet (fun c => { c with temp := t, power := s.arg.value2 }))
  else .next (s.modCore s.arg.core (fun c => { c with temp := t, power := s.arg.value2 }))

end Sys2Proof.Machine
end

