-- ==== Sys2Proof/Machine/Dispatch.lean ====
section
/-!
DEFINITION. One arm for each constructor of Instr: the call of its meaning.
-/

namespace Sys2Proof.Machine

/-- What an instruction or an event does to the state. -/
def exec (i : Instr) (s : State) : Host.Outcome State Fault Refusal :=
  match i with
  | .iadd f => Sys2Proof.Machine.execIadd f s
  | .isub f => Sys2Proof.Machine.execIsub f s
  | .iaddc f => Sys2Proof.Machine.execIaddc f s
  | .isubb f => Sys2Proof.Machine.execIsubb f s
  | .imul f => Sys2Proof.Machine.execImul f s
  | .imulh f => Sys2Proof.Machine.execImulh f s
  | .imad f => Sys2Proof.Machine.execImad f s
  | .imadw f => Sys2Proof.Machine.execImadw f s
  | .imin f => Sys2Proof.Machine.execImin f s
  | .imax f => Sys2Proof.Machine.execImax f s
  | .iabs f => Sys2Proof.Machine.execIabs f s
  | .ineg f => Sys2Proof.Machine.execIneg f s
  | .iclamp f => Sys2Proof.Machine.execIclamp f s
  | .isad f => Sys2Proof.Machine.execIsad f s
  | .idp4 f => Sys2Proof.Machine.execIdp4 f s
  | .idp2 f => Sys2Proof.Machine.execIdp2 f s
  | .and f => Sys2Proof.Machine.execAnd f s
  | .or f => Sys2Proof.Machine.execOr f s
  | .xor f => Sys2Proof.Machine.execXor f s
  | .andn f => Sys2Proof.Machine.execAndn f s
  | .orn f => Sys2Proof.Machine.execOrn f s
  | .not f => Sys2Proof.Machine.execNot f s
  | .blut f => Sys2Proof.Machine.execBlut f s
  | .shl f => Sys2Proof.Machine.execShl f s
  | .shr f => Sys2Proof.Machine.execShr f s
  | .sar f => Sys2Proof.Machine.execSar f s
  | .rol f => Sys2Proof.Machine.execRol f s
  | .ror f => Sys2Proof.Machine.execRor f s
  | .fshl f => Sys2Proof.Machine.execFshl f s
  | .fshr f => Sys2Proof.Machine.execFshr f s
  | .bfe f => Sys2Proof.Machine.execBfe f s
  | .bfi f => Sys2Proof.Machine.execBfi f s
  | .brev f => Sys2Proof.Machine.execBrev f s
  | .popc f => Sys2Proof.Machine.execPopc f s
  | .clz f => Sys2Proof.Machine.execClz f s
  | .ctz f => Sys2Proof.Machine.execCtz f s
  | .bmsk f => Sys2Proof.Machine.execBmsk f s
  | .prmt f => Sys2Proof.Machine.execPrmt f s
  | .icmpp f => Sys2Proof.Machine.execIcmpp f s
  | .iset f => Sys2Proof.Machine.execIset f s
  | .sel f => Sys2Proof.Machine.execSel f s
  | .mov f => Sys2Proof.Machine.execMov f s
  | .movi f => Sys2Proof.Machine.execMovi f s
  | .lea f => Sys2Proof.Machine.execLea f s
  | .psetp f => Sys2Proof.Machine.execPsetp f s
  | .ptov f => Sys2Proof.Machine.execPtov f s
  | .vtop f => Sys2Proof.Machine.execVtop f s
  | .fadd f => Sys2Proof.Machine.execFadd f s
  | .fsub f => Sys2Proof.Machine.execFsub f s
  | .fmul f => Sys2Proof.Machine.execFmul f s
  | .ffma f => Sys2Proof.Machine.execFfma f s
  | .fmin f => Sys2Proof.Machine.execFmin f s
  | .fmax f => Sys2Proof.Machine.execFmax f s
  | .fsetp f => Sys2Proof.Machine.execFsetp f s
  | .fset f => Sys2Proof.Machine.execFset f s
  | .fclass f => Sys2Proof.Machine.execFclass f s
  | .frnd f => Sys2Proof.Machine.execFrnd f s
  | .fscale f => Sys2Proof.Machine.execFscale f s
  | .fgetexp f => Sys2Proof.Machine.execFgetexp f s
  | .fgetman f => Sys2Proof.Machine.execFgetman f s
  | .padd2 f => Sys2Proof.Machine.execPadd2 f s
  | .pmul2 f => Sys2Proof.Machine.execPmul2 f s
  | .pfma2 f => Sys2Proof.Machine.execPfma2 f s
  | .pmin2 f => Sys2Proof.Machine.execPmin2 f s
  | .pmax2 f => Sys2Proof.Machine.execPmax2 f s
  | .psetp2 f => Sys2Proof.Machine.execPsetp2 f s
  | .dadd f => Sys2Proof.Machine.execDadd f s
  | .dmul f => Sys2Proof.Machine.execDmul f s
  | .dfma f => Sys2Proof.Machine.execDfma f s
  | .dmin f => Sys2Proof.Machine.execDmin f s
  | .dmax f => Sys2Proof.Machine.execDmax f s
  | .dsetp f => Sys2Proof.Machine.execDsetp f s
  | .cvt f => Sys2Proof.Machine.execCvt f s
  | .cvtsr f => Sys2Proof.Machine.execCvtsr f s
  | .pack2 f => Sys2Proof.Machine.execPack2 f s
  | .unpk2 f => Sys2Proof.Machine.execUnpk2 f s
  | .pack4 f => Sys2Proof.Machine.execPack4 f s
  | .unpk4 f => Sys2Proof.Machine.execUnpk4 f s
  | .qcb4 f => Sys2Proof.Machine.execQcb4 f s
  | .dqcb4 f => Sys2Proof.Machine.execDqcb4 f s
  | .frcp f => Sys2Proof.Machine.execFrcp f s
  | .frsq f => Sys2Proof.Machine.execFrsq f s
  | .fsqrt f => Sys2Proof.Machine.execFsqrt f s
  | .fex2 f => Sys2Proof.Machine.execFex2 f s
  | .flg2 f => Sys2Proof.Machine.execFlg2 f s
  | .fsin f => Sys2Proof.Machine.execFsin f s
  | .fcos f => Sys2Proof.Machine.execFcos f s
  | .fsinr f => Sys2Proof.Machine.execFsinr f s
  | .fcosr f => Sys2Proof.Machine.execFcosr f s
  | .ftanh f => Sys2Proof.Machine.execFtanh f s
  | .fsigm f => Sys2Proof.Machine.execFsigm f s
  | .tblev f => Sys2Proof.Machine.execTblev f s
  | .fdivf f => Sys2Proof.Machine.execFdivf f s
  | .ldg f => Sys2Proof.Machine.execLdg f s
  | .stg f => Sys2Proof.Machine.execStg f s
  | .lds f => Sys2Proof.Machine.execLds f s
  | .sts f => Sys2Proof.Machine.execSts f s
  | .lda f => Sys2Proof.Machine.execLda f s
  | .sta f => Sys2Proof.Machine.execSta f s
  | .ldo f => Sys2Proof.Machine.execLdo f s
  | .sto f => Sys2Proof.Machine.execSto f s
  | .atomg f => Sys2Proof.Machine.execAtomg f s
  | .atoms f => Sys2Proof.Machine.execAtoms f s
  | .redg f => Sys2Proof.Machine.execRedg f s
  | .reds f => Sys2Proof.Machine.execReds f s
  | .casg f => Sys2Proof.Machine.execCasg f s
  | .cass f => Sys2Proof.Machine.execCass f s
  | .pref f => Sys2Proof.Machine.execPref f s
  | .fence f => Sys2Proof.Machine.execFence f s
  | .bra f => Sys2Proof.Machine.execBra f s
  | .brx f => Sys2Proof.Machine.execBrx f s
  | .call f => Sys2Proof.Machine.execCall f s
  | .callx f => Sys2Proof.Machine.execCallx f s
  | .ret f => Sys2Proof.Machine.execRet f s
  | .exit f => Sys2Proof.Machine.execExit f s
  | .rje f => Sys2Proof.Machine.execRje f s
  | .rjw f => Sys2Proof.Machine.execRjw f s
  | .rjx f => Sys2Proof.Machine.execRjx f s
  | .rjrd f => Sys2Proof.Machine.execRjrd f s
  | .vote f => Sys2Proof.Machine.execVote f s
  | .matchW f => Sys2Proof.Machine.execMatchW f s
  | .elect f => Sys2Proof.Machine.execElect f s
  | .shfl f => Sys2Proof.Machine.execShfl f s
  | .redw f => Sys2Proof.Machine.execRedw f s
  | .scanw f => Sys2Proof.Machine.execScanw f s
  | .vtou f => Sys2Proof.Machine.execVtou f s
  | .fibsw f => Sys2Proof.Machine.execFibsw f s
  | .fbara f => Sys2Proof.Machine.execFbara f s
  | .fbarw f => Sys2Proof.Machine.execFbarw f s
  | .fibqState f => Sys2Proof.Machine.execFibqState f s
  | .fibqRec f => Sys2Proof.Machine.execFibqRec f s
  | .fresume f => Sys2Proof.Machine.execFresume f s
  | .rsr f => Sys2Proof.Machine.execRsr f s
  | .wsr f => Sys2Proof.Machine.execWsr f s
  | .setx f => Sys2Proof.Machine.execSetx f s
  | .addx f => Sys2Proof.Machine.execAddx f s
  | .trap f => Sys2Proof.Machine.execTrap f s
  | .tret f => Sys2Proof.Machine.execTret f s
  | .bpt f => Sys2Proof.Machine.execBpt f s
  | .nop f => Sys2Proof.Machine.execNop f s
  | .yield f => Sys2Proof.Machine.execYield f s
  | .ractlOff f => Sys2Proof.Machine.execRactlOff f s
  | .ractlOn f => Sys2Proof.Machine.execRactlOn f s
  | .ractlThr f => Sys2Proof.Machine.execRactlThr f s
  | .npb f => Sys2Proof.Machine.execNpb f s
  | .npe f => Sys2Proof.Machine.execNpe f s
  | .uiadd f => Sys2Proof.Machine.execUiadd f s
  | .uisub f => Sys2Proof.Machine.execUisub f s
  | .uimul f => Sys2Proof.Machine.execUimul f s
  | .ublut f => Sys2Proof.Machine.execUblut f s
  | .ushl f => Sys2Proof.Machine.execUshl f s
  | .ushr f => Sys2Proof.Machine.execUshr f s
  | .uicmpp f => Sys2Proof.Machine.execUicmpp f s
  | .umov f => Sys2Proof.Machine.execUmov f s
  | .umovi f => Sys2Proof.Machine.execUmovi f s
  | .ulea f => Sys2Proof.Machine.execUlea f s
  | .usel f => Sys2Proof.Machine.execUsel f s
  | .upopc f => Sys2Proof.Machine.execUpopc f s
  | .cpy f => Sys2Proof.Machine.execCpy f s
  | .gath f => Sys2Proof.Machine.execGath f s
  | .scat f => Sys2Proof.Machine.execScat f s
  | .chain f => Sys2Proof.Machine.execChain f s
  | .kwait f => Sys2Proof.Machine.execKwait f s
  | .kadj f => Sys2Proof.Machine.execKadj f s
  | .krd f => Sys2Proof.Machine.execKrd f s
  | .opf f => Sys2Proof.Machine.execOpf f s
  | .gang f => Sys2Proof.Machine.execGang f s
  | .mma f => Sys2Proof.Machine.execMma f s
  | .mmas f => Sys2Proof.Machine.execMmas f s
  | .accz f => Sys2Proof.Machine.execAccz f s
  | .acczSt f => Sys2Proof.Machine.execAcczSt f s
  | .accld f => Sys2Proof.Machine.execAccld f s
  | .acccvt f => Sys2Proof.Machine.execAcccvt f s
  | .accscl f => Sys2Proof.Machine.execAccscl f s
  | .tblld f => Sys2Proof.Machine.execTblld f s
  | .tblswp f => Sys2Proof.Machine.execTblswp f s
  | .cbld f => Sys2Proof.Machine.execCbld f s
  | .bara f => Sys2Proof.Machine.execBara f s
  | .barw f => Sys2Proof.Machine.execBarw f s
  | .bars f => Sys2Proof.Machine.execBars f s
  | .barx f => Sys2Proof.Machine.execBarx f s
  | .cpyr f => Sys2Proof.Machine.execCpyr f s
  | .cpym f => Sys2Proof.Machine.execCpym f s
  | .redr f => Sys2Proof.Machine.execRedr f s
  | .notify f => Sys2Proof.Machine.execNotify f s
  | .kickcfgOpen f => Sys2Proof.Machine.execKickcfgOpen f s
  | .kickcfgFree f => Sys2Proof.Machine.execKickcfgFree f s
  | .kickcfgClose f => Sys2Proof.Machine.execKickcfgClose f s
  | .migrate f => Sys2Proof.Machine.execMigrate f s
  | .waita f => Sys2Proof.Machine.execWaita f s
  | .wakea f => Sys2Proof.Machine.execWakea f s
  | .ptadv f => Sys2Proof.Machine.execPtadv f s
  | .spawn f => Sys2Proof.Machine.execSpawn f s
  | .join f => Sys2Proof.Machine.execJoin f s
  | .svc f => Sys2Proof.Machine.execSvc f s
  | .uisend f => Sys2Proof.Machine.execUisend f s
  | .uiwait f => Sys2Proof.Machine.execUiwait f s
  | .uiack f => Sys2Proof.Machine.execUiack f s
  | .uihdlVi f => Sys2Proof.Machine.execUihdlVi f s
  | .uihdlBlk f => Sys2Proof.Machine.execUihdlBlk f s
  | .uihdlMask f => Sys2Proof.Machine.execUihdlMask f s
  | .mcst f => Sys2Proof.Machine.execMcst f s
  | .mred f => Sys2Proof.Machine.execMred f s
  | .pcpy f => Sys2Proof.Machine.execPcpy f s
  | .pnotify f => Sys2Proof.Machine.execPnotify f s
  | .patom f => Sys2Proof.Machine.execPatom f s
  | .csrr f => Sys2Proof.Machine.execCsrr f s
  | .csrw f => Sys2Proof.Machine.execCsrw f s
  | .ctxsv f => Sys2Proof.Machine.execCtxsv f s
  | .ctxrs f => Sys2Proof.Machine.execCtxrs f s
  | .recall f => Sys2Proof.Machine.execRecall f s
  | .halt f => Sys2Proof.Machine.execHalt f s
  | .unassignedOpcode word => Sys2Proof.Machine.execUnassignedOpcode word s
  | .fetchReturn => Sys2Proof.Machine.execFetchReturn s
  | .loadCompletion => Sys2Proof.Machine.execLoadCompletion s
  | .runaheadEntry => Sys2Proof.Machine.execRunaheadEntry s
  | .quantumExpiry => Sys2Proof.Machine.execQuantumExpiry s
  | .freezeLimitExpiry => Sys2Proof.Machine.execFreezeLimitExpiry s
  | .npx => Sys2Proof.Machine.execNpx s
  | .commandStart => Sys2Proof.Machine.execCommandStart s
  | .commandCompletion => Sys2Proof.Machine.execCommandCompletion s
  | .l1Eviction => Sys2Proof.Machine.execL1Eviction s
  | .homeGrant => Sys2Proof.Machine.execHomeGrant s
  | .homeWrite => Sys2Proof.Machine.execHomeWrite s
  | .homeAtomic => Sys2Proof.Machine.execHomeAtomic s
  | .waitRegistration => Sys2Proof.Machine.execWaitRegistration s
  | .requesterSideRead => Sys2Proof.Machine.execRequesterSideRead s
  | .requesterSideDrop => Sys2Proof.Machine.execRequesterSideDrop s
  | .requestReply => Sys2Proof.Machine.execRequestReply s
  | .requestTimer => Sys2Proof.Machine.execRequestTimer s
  | .fillPinRelease => Sys2Proof.Machine.execFillPinRelease s
  | .l2Eviction => Sys2Proof.Machine.execL2Eviction s
  | .memoryWriteback => Sys2Proof.Machine.execMemoryWriteback s
  | .memoryFill => Sys2Proof.Machine.execMemoryFill s
  | .translationWalk => Sys2Proof.Machine.execTranslationWalk s
  | .beaconBroadcast => Sys2Proof.Machine.execBeaconBroadcast s
  | .beaconReport => Sys2Proof.Machine.execBeaconReport s
  | .sweepPass => Sys2Proof.Machine.execSweepPass s
  | .horizonStep => Sys2Proof.Machine.execHorizonStep s
  | .refresh => Sys2Proof.Machine.execRefresh s
  | .scrub => Sys2Proof.Machine.execScrub s
  | .storeError => Sys2Proof.Machine.execStoreError s
  | .memoryError => Sys2Proof.Machine.execMemoryError s
  | .purgeReport => Sys2Proof.Machine.execPurgeReport s
  | .taskTake => Sys2Proof.Machine.execTaskTake s
  | .blockAdmission => Sys2Proof.Machine.execBlockAdmission s
  | .bypassLimit => Sys2Proof.Machine.execBypassLimit s
  | .blockFree => Sys2Proof.Machine.execBlockFree s
  | .overflowStoreDrain => Sys2Proof.Machine.execOverflowStoreDrain s
  | .blockSave => Sys2Proof.Machine.execBlockSave s
  | .blockRestore => Sys2Proof.Machine.execBlockRestore s
  | .migrateArrival => Sys2Proof.Machine.execMigrateArrival s
  | .drainLimitExpiry => Sys2Proof.Machine.execDrainLimitExpiry s
  | .drainComplete => Sys2Proof.Machine.execDrainComplete s
  | .recallCompletion => Sys2Proof.Machine.execRecallCompletion s
  | .noticeArrival => Sys2Proof.Machine.execNoticeArrival s
  | .noticeResend => Sys2Proof.Machine.execNoticeResend s
  | .noticeLanding => Sys2Proof.Machine.execNoticeLanding s
  | .serviceReply => Sys2Proof.Machine.execServiceReply s
  | .sendAccept => Sys2Proof.Machine.execSendAccept s
  | .keeperAreaWrite => Sys2Proof.Machine.execKeeperAreaWrite s
  | .faultBatchClose => Sys2Proof.Machine.execFaultBatchClose s
  | .tamperTurn => Sys2Proof.Machine.execTamperTurn s
  | .tamperDrainTimeout => Sys2Proof.Machine.execTamperDrainTimeout s
  | .tamperScan => Sys2Proof.Machine.execTamperScan s
  | .submit => Sys2Proof.Machine.execSubmit s
  | .rearm => Sys2Proof.Machine.execRearm s
  | .purge => Sys2Proof.Machine.execPurge s
  | .viPreempt => Sys2Proof.Machine.execViPreempt s
  | .viResume => Sys2Proof.Machine.execViResume s
  | .uidoor => Sys2Proof.Machine.execUidoor s
  | .permsync => Sys2Proof.Machine.execPermsync s
  | .uirefuseClear => Sys2Proof.Machine.execUirefuseClear s
  | .hostCxlMemRead => Sys2Proof.Machine.execHostCxlMemRead s
  | .hostCxlMemWrite => Sys2Proof.Machine.execHostCxlMemWrite s
  | .snpData => Sys2Proof.Machine.execSnpData s
  | .snpInv => Sys2Proof.Machine.execSnpInv s
  | .bridgeEviction => Sys2Proof.Machine.execBridgeEviction s
  | .bisnpinvResponse => Sys2Proof.Machine.execBisnpinvResponse s
  | .biasFlipToDevice => Sys2Proof.Machine.execBiasFlipToDevice s
  | .biasFlipToHost => Sys2Proof.Machine.execBiasFlipToHost s
  | .hwait => Sys2Proof.Machine.execHwait s
  | .adopt => Sys2Proof.Machine.execAdopt s
  | .release => Sys2Proof.Machine.execRelease s
  | .handoverUpdate => Sys2Proof.Machine.execHandoverUpdate s
  | .cfgo => Sys2Proof.Machine.execCfgo s
  | .imageSwitch => Sys2Proof.Machine.execImageSwitch s
  | .feataccWrite => Sys2Proof.Machine.execFeataccWrite s
  | .evset => Sys2Proof.Machine.execEvset s
  | .portEnable => Sys2Proof.Machine.execPortEnable s
  | .portDisable => Sys2Proof.Machine.execPortDisable s
  | .trainingComplete => Sys2Proof.Machine.execTrainingComplete s
  | .trainingTimeout => Sys2Proof.Machine.execTrainingTimeout s
  | .portFailure => Sys2Proof.Machine.execPortFailure s
  | .flitReceive => Sys2Proof.Machine.execFlitReceive s
  | .flitReplay => Sys2Proof.Machine.execFlitReplay s
  | .packetArrival => Sys2Proof.Machine.execPacketArrival s
  | .escapeMove => Sys2Proof.Machine.execEscapeMove s
  | .escapeDrop => Sys2Proof.Machine.execEscapeDrop s
  | .fabricRequestTimer => Sys2Proof.Machine.execFabricRequestTimer s
  | .fabricReply => Sys2Proof.Machine.execFabricReply s
  | .inboundPeerAccess => Sys2Proof.Machine.execInboundPeerAccess s
  | .managementPacket => Sys2Proof.Machine.execManagementPacket s
  | .reset => Sys2Proof.Machine.execReset s
  | .boot => Sys2Proof.Machine.execBoot s
  | .powerThrottle => Sys2Proof.Machine.execPowerThrottle s
  | .thermalStop => Sys2Proof.Machine.execThermalStop s
  | .telemetrySample => Sys2Proof.Machine.execTelemetrySample s
  | .registerWrite => Sys2Proof.Machine.execRegisterWrite s
  | .instructionCompletion => Sys2Proof.Machine.execInstructionCompletion s
  | .remoteReduction => Sys2Proof.Machine.execRemoteReduction s
  | .serviceBatchStart => Sys2Proof.Machine.execServiceBatchStart s
  | .cxlCacheResponse => Sys2Proof.Machine.execCxlCacheResponse s
  | .headLinkDown => Sys2Proof.Machine.execHeadLinkDown s
  | .headLinkUp => Sys2Proof.Machine.execHeadLinkUp s

end Sys2Proof.Machine
end

