-- ==== Sys2Proof/Machine/Settle.lean ====
section
/-!
DEFINITION. What follows from a state by itself between two moves: fibres and warps that end, barriers, latches, WAITA
and releases that go on, purged commands, stalls that clear, and the election of the active fibre of each slot (R153 to
R160, R174, R219, R237, R258, R282, R300, R312, R359, R408); the choice of the next move and the step that makes it (log 1).
-/

namespace Sys2Proof.Machine

/-! Fibres, warps and what they wait for -/

/-- A fibre none of whose lanes is unexited ends (R153); an open section closes with it. -/
def Fibre.settleEnd (f : Fibre) : Fibre :=
  if f.allExited && f.st != .ended then { f with st := .ended, stall := none, ra := none, sec := none, rel := f.fenceRel } else f

/-- A warp whose fibres have all ended retires (R153). -/
def Warp.settleRetire (w : Warp) : Warp := { w with retired := w.fibs.all (fun f => f.st = .ended) }

/-- Fibre barriers go on (R160, R256): commands that have left their core are waited for no longer, and their counters' times
reach the arrivals'. -/
def Warp.settleFbs (w : Warp) (live : List Nat) : Warp :=
  let w : Warp := { w with fbs := w.fbs.mapVal (fun _ x => { x with
    waits := x.waits.filter (fun e => live.contains e.1)
    pmax := (x.waits.filter (fun e => !live.contains e.1)).foldl (fun t e => tmax t ((w.fibs.getD e.2.1 {}).ctr e.2.2).kt) x.pmax }) }
  (List.range 4).foldl (fun w b => w.settleFb b) w

/-- Ends and fibre barriers of a resident block. -/
def State.settleBlock (s : State) (n : Nat) : State :=
  let b := s.block n
  if b.st != .resident then s
  else
    let live := (s.core b.core).cmds.map Prod.fst
    let s := s.modBlock n (fun b =>
      let b := b.mapFibs Fibre.settleEnd
      { b with warps := b.warps.map (fun w => (w.settleRetire).settleFbs live) })
    let b := s.block n
    if b.allFrozen && !b.ending then s.endFrozen n (b.firstFrozen s.now).rc.toNat (b.firstFrozen s.now) else s

/-- Would the instruction the fibre is stalled at go on now? It is tried from a state in which the fibre is Active, and in a
block that stops as in one that does not, but for an NPB, which waits for the save (R318). -/
def State.wouldGo (run : Instr → State → Host.Outcome State Fault Refusal) (s : State) (r : FRef) (x : Stall) : Bool :=
  let go := s.modBlock r.blk (fun b => { b with stopping := b.stopping && x.op == .npb })
  let t := { go.modFib r (fun f => { f with st := .active, stall := none, quantum := 0 }) with cur := ⟨r, x.pc, false⟩ }
  if s.presented r x.pc then false
  else match run (x.op.instr x.f) t with
  | .next u => (u.fib r).stall.isNone || decide (u.nextReq ≠ s.nextReq) || decide (u.bridge ≠ s.bridge) ||
      decide ((u.fib r).phases ≠ (s.fib r).phases) || decide ((u.core (s.block r.blk).core).latches ≠ (s.core (s.block r.blk).core).latches)
  | _ => true

/-- The end of an episode where another fibre of the slot has become Ready (R219). -/
def State.settleRa (s : State) (r : FRef) : State :=
  match (s.fib r).ra with
  | some e =>
    let now := s.readyOthers r
    if now.all e.ready.contains then s.setEpisode r { e with ready := now } else s.modFib r Fibre.endRunahead
  | none => s

/-- The instruction at which a path of a fibre stands that waits: the one it was stalled at, or, of a fibre that a restore left
Waiting, the one a fetch brings (R177). -/
def State.waitsAt (s : State) (r : FRef) (pc : VA) : Option Stall :=
  match s.standsAt r pc with
  | some x => some x
  | none => match s.fetch (s.block r.blk) pc with
    | .word w => wordAt pc w
    | _ => none

/-- Has the condition cleared on which a Waiting fibre waits (R157)? A restored one, whose stall is not recorded, may go on when one of
its paths may (R177). -/
def State.waitOver (run : Instr → State → Host.Outcome State Fault Refusal) (s : State) (r : FRef) : Bool :=
  match (s.fib r).stall with
  | some x => s.wouldGo run r x
  | none => (s.fib r).pcs.any (fun pc => match s.waitsAt r pc with | some x => s.wouldGo run r x | none => true)

/-- A waiting fibre whose stall has cleared becomes Ready (R157). -/
def State.settleWait (run : Instr → State → Host.Outcome State Fault Refusal) (s : State) (r : FRef) : State :=
  if (s.fib r).st == .waiting && !(s.block r.blk).ending && s.waitOver run r then
    s.modFib r (fun f => { f with st := .ready, stall := none })
  else s

/-- Is the path at `pc` stalled under R157? One that has no word waits for its fetch. -/
def State.pathStalled (run : Instr → State → Host.Outcome State Fault Refusal) (s : State) (r : FRef) (pc : VA) : Bool :=
  s.presented r pc ||
  (match s.standsAt r pc with
   | some x => !s.mayIssue r pc || !s.wouldGo run r x
   | none => true)

/-- The paths of a fibre that may enter runahead, as R211 asks of them. -/
def State.noteStuck (run : Instr → State → Host.Outcome State Fault Refusal) (s : State) (r : FRef) : State :=
  let f := s.fib r
  let stuck := if f.st == .active && f.raOn && f.raC != 0 && f.ra.isNone && !f.trap then f.pcs.filter (s.pathStalled run r) else []
  if stuck = f.stuck then s else s.modFib r (fun f => { f with stuck := stuck })

/-- The same of every fibre of a resident block. -/
def State.noteAll (run : Instr → State → Host.Outcome State Fault Refusal) (s : State) : State :=
  (s.blocks.flatMap (fun e => if e.2.st = .resident then e.2.refs e.1 else [])).foldl (fun s r => s.noteStuck run r) s

/-- An active fibre whose stall at an instruction that switches still lasts gives the slot up when another is Ready (R156). One that
its stopping block holds back becomes Ready and gives it to another that is still inside an instruction or a section (R316, R318),
which R156 does not list among the switch events (DESIGN CHOICE, unsafe, log 89). -/
def State.settleFibre (run : Instr → State → Host.Outcome State Fault Refusal) (s : State) (r : FRef) : State :=
  let f := s.fib r
  let other (i : Nat) (g : Fibre) : Bool := decide (i ≠ r.fib) && g.st == .ready && !s.held ⟨r.blk, r.warp, i⟩
  if (s.block r.blk).ending then s
  else if f.ra.isSome then s.settleRa r
  else if f.st != .active then s
  else if f.stall.any (fun x => yields x.op x.f && s.otherReady r && !s.wouldGo run r x) then s.modFib r (fun f => { f with st := .waiting })
  else if s.held r && (s.warp r.blk r.warp).fibs.zipIdx.any (fun e => other e.2 e.1) then s.modFib r (fun f => { f with st := .ready })
  else s

/-! The active fibre of a slot -/

/-- The first fibre in a state, in increasing order after `i`, wrapping round. -/
def Warp.nextIn (w : Warp) (st : FState) (i : Nat) : Option Nat :=
  let n := w.fibs.length
  ((List.range n).map (fun k => (i + 1 + k) % n)).find? (fun k => (w.fibs.getD k {}).st = st)

/-- The fibres with one made Active; any other that was Active becomes Ready. -/
def activate (fs : List Fibre) (i : Nat) : List Fibre :=
  fs.mapIdx (fun k f => if k = i then { f with st := .active } else if f.st = .active then { f with st := .ready } else f)

/-- Election of R156: the fibre that holds the slot keeps it, else the first Ready one after the last active takes it. -/
def Warp.elect (w : Warp) : Warp :=
  match w.fibs.findIdx? (fun f => f.st = .active) with
  | some i => { w with active := some i, lastActive := i, fibs := activate w.fibs i }
  | none => match w.nextIn .ready w.lastActive with
    | some i => { w with active := some i, lastActive := i, fibs := activate (w.fibs.modify i (fun f => { f with quantum := 0 })) i }
    | none => { w with active := none }

/-- Does the slot hold exactly the fibre it names as active, and leave no Ready fibre without one (R155, R156)? -/
def Warp.elected (w : Warp) : Bool :=
  match w.active with
  | some i => (w.fibs.getD i {}).st == .active && (List.range w.fibs.length).all (fun k => k == i || (w.fibs.getD k {}).st != .active)
  | none => w.fibs.all (fun f => f.st != .active && f.st != .ready)

/-- Every slot of every block is elected. -/
def State.elected (s : State) : Bool := s.blocks.all (fun e => e.2.warps.all Warp.elected)

/-- The election in every slot. -/
def State.electAll (s : State) : State :=
  { s with blocks := s.blocks.mapVal (fun _ b => { b with warps := b.warps.map Warp.elect }) }

/-! Settling -/

/-- The fibres of resident blocks. -/
def State.liveRefs (s : State) : List FRef :=
  s.blocks.flatMap (fun e => if e.2.st = .resident then e.2.refs e.1 else [])

/-- What purges and ends take away at once (R258, R321, R356, R394, R408, R429, R442, R462). -/
def State.settlePurge (s : State) : State :=
  ((((s.findQueued.closeEnding.purgeCmds.dropSends).dropBatches).dropFabric).reapBlocks).reapTasks

/-- Everything that follows from a state by itself; writes of the device that waited are made where they can be (R380, R418, R420). -/
def settle (run : Instr → State → Host.Outcome State Fault Refusal) (s : State) : State :=
  let s := (s.blocks.map Prod.fst).foldl (fun s n => s.settleBlock n) s
  let s := s.settleBars
  let s := (s.cores.map Prod.fst).foldl (fun s c => s.settleLatches c) s
  let s := s.liveRefs.foldl (fun s r => ((s.settleWaita r).settleRelease r).settleArrivals r) s
  let s := s.settlePurge.drainDevq.settleKeeper
  let s := s.liveRefs.foldl (fun s r => s.settleWait run r) s
  let s := s.liveRefs.foldl (fun s r => s.settleFibre run r) s
  s.electAll.noteAll run

/-! What moves -/

/-- Runs the word a path holds: its instruction, or ILL with the first illegal field (R61 step 3, R63). -/
def State.runWord (s : State) (r : FRef) (pc : VA) (w : BitVec 96) (late : Bool) : Host.Outcome State Fault Refusal :=
  let s := { s.modFib r (fun f => { f with fetched := none }) with cur := ⟨r, pc, late⟩ }
  match decodeWord w.toNat with
  | .ok i => exec i s
  | .error e => .next (s.fetchIll r pc w e.bit)

/-- A path issues: its word from the hand or by a fetch, then the instruction. One core cycle passes (log 2). -/
def State.issue (s : State) (r : FRef) (pc : VA) (late : Bool) : Host.Outcome State Fault Refusal :=
  let s := { s with now := s.now + 1 }.passLead r
  if !s.mayIssue r pc || !s.turnOf r pc then .next s
  else
    let s := s.serve r pc
    match s.inHand r pc with
    | some w => s.runWord r pc w late
    | none => match s.fetch (s.block r.blk) pc with
      | .word w => (s.buffer r pc w).runWord r pc w late
      | x => .next (s.fetchFault r pc x)

/-- One move. -/
def State.move (s : State) (m : Move) : Host.Outcome State Fault Refusal :=
  match m with
  | .issue r pc late => s.issue r pc late
  | .event i a => exec i { s with arg := a }
  | .pass n => .next { s with now := s.now + n }

/-- Paths that may issue now. -/
def State.issueMoves (s : State) : List Move :=
  s.liveRefs.flatMap (fun r => ((s.fib r).pcs.filter (fun pc => s.mayIssue r pc)).map (fun pc => .issue r pc false))

/-- Events of requests, outstanding instructions, engine commands and reductions that may be due. -/
def State.accessMoves (s : State) : List Move :=
  s.reqs.map (fun e => .event .requestReply { id := e.1 }) ++
  (s.reqs.filter (fun e => match e.2.kind with | .read .. => true | _ => false)).map (fun e => .event .requesterSideRead { id := e.1 }) ++
  s.reqs.map (fun e => .event (match e.2.kind with
    | .read .. => .homeGrant | .write .. => .homeWrite | .atomic .. => .homeAtomic | .register => .waitRegistration) { id := e.1 }) ++
  s.reqs.map (fun e => .event .requestTimer { id := e.1 }) ++
  s.liveRefs.flatMap (fun r => ((s.warp r.blk r.warp).pend.filter (fun e => e.2.fib = r.fib)).map (fun e => match e.2.body with
    | .load _ => .event .loadCompletion { ref := r, id := e.1 }
    | _ => .event .instructionCompletion { ref := r, id := e.1 })) ++
  s.cores.flatMap (fun c => c.2.cmds.map (fun m =>
    if m.2.started then .event .commandCompletion { core := c.1, id := m.1 } else .event .commandStart { core := c.1, id := m.1 })) ++
  s.remreds.map (fun e => .event .remoteReduction { id := e.1 }) ++
  ((s.homes.filter (fun e => e.2.pins ≠ 0 && !s.pinning e.1)).map Prod.fst ++
    s.dies.flatMap (fun d => (d.2.copies.filter (fun e => e.2.pins ≠ 0 && !s.pinning e.1)).map Prod.fst)).map (fun l => .event .fillPinRelease { line := l }) ++
  s.evicts.map (fun e => .event .memoryWriteback { id := e.1 })

/-- Events of fibres and blocks that may be due. -/
def State.blockMoves (s : State) : List Move :=
  s.liveRefs.flatMap (fun r =>
    let f := s.fib r
    (if 256 ≤ f.quantum then [Move.event .quantumExpiry { ref := r }] else []) ++
    (if f.sec.isSome then [.event .npx { ref := r }] else []) ++
    (if f.st = .frozen then [.event .freezeLimitExpiry { ref := r }] else []) ++
    (match s.trigger r with
     | some _ => f.stuck.map (fun pc => Move.event .runaheadEntry { ref := r, pc := pc })
     | none => [])) ++
  s.blocks.flatMap (fun e =>
    (if e.2.st = .resident && (e.2.ending || e.2.warps.all Warp.retired) then [Move.event .blockFree { blk := e.1 }] else []) ++
    (if e.2.st = .resident && e.2.stopping then [.event .blockSave { blk := e.1 }] else []))

/-- Events of Grinder, Tamper (whose scans pass), the keepers, the kick queues and Carafe's queues that may be due. -/
def State.systemMoves (s : State) : List Move :=
  s.sends.map (fun e => .event .sendAccept { id := e.1 }) ++
  s.notices.flatMap (fun e => [.event .noticeArrival { id := e.1 }, .event .noticeResend { id := e.1 }]) ++
  s.cores.flatMap (fun c => (c.2.kicks.filter (fun q => !q.2.pend.isEmpty || q.2.landing.isSome)).map (fun q => .event .noticeLanding { core := c.1, index := q.1 })) ++
  (s.dies.filter (fun d => d.2.batches.any (fun b => !b.2.started))).map (fun d => .event .serviceBatchStart { die := d.1 }) ++
  (if s.recalls.isEmpty then [] else [.event .recallCompletion {}]) ++
  (if s.overflow.isEmpty then [] else [.event .overflowStoreDrain {}]) ++
  (if s.heads.isEmpty then [] else [.event .taskTake {}]) ++
  (if s.tasks.any (fun e => e.2.passedAt.isSome) then [.event .bypassLimit {}] else []) ++
  (s.liveDies.filter (fun d => decide ((s.die d).turnAt + us (1000000 * s.boot.tamperS) / 32 ≤ s.now))).map (fun d => .event .tamperTurn { die := d }) ++
  (s.cores.filter (fun c => c.2.tamper = .draining)).flatMap (fun c =>
    [.event .tamperDrainTimeout { core := c.1 }, .event .tamperScan { core := c.1, flag := true }]) ++
  s.purges.map (fun p => .event .purgeReport { vi := p.vi, tag := p.tag }) ++
  s.vis.flatMap (fun v =>
    (if v.2.drainAt.isSome then [Move.event .drainComplete { vi := v.1 }, .event .drainLimitExpiry { vi := v.1 }] else []) ++
    (match v.2.areaDirty with | i :: _ => [.event .keeperAreaWrite { vi := v.1, index := i }] | [] => []) ++
    (if v.2.batchAt.isSome then [.event .faultBatchClose { vi := v.1 }] else [])) ++
  (if s.bridge.hobase = 0 then [] else [.event .handoverUpdate {}])

/-- Events of boot once it has begun, of the fabric and of time that may be due. -/
def State.packageMoves (s : State) : List Move :=
  (if s.boot.step ≠ 0 && decide (s.boot.step < 5) && !s.boot.err then [.event .boot {}] else []) ++
  s.fabric.ports.flatMap (fun p => (if p.2.st = .training then [.event .trainingTimeout { port := p.1 }] else []) ++
    (if p.2.asked.isSome then [.event .flitReplay { port := p.1 }] else [])) ++
  s.fabric.arrivals.map (fun e => .event .packetArrival { id := e.1 }) ++
  s.fabric.inbox.map (fun e => .event (if isMgmt e.2.packet then .managementPacket else if isAsk e.2.packet then .inboundPeerAccess else .fabricReply) { id := e.1 }) ++
  s.fabric.reqs.map (fun e => .event .fabricRequestTimer { id := e.1 }) ++
  s.fabric.transit.map (fun e => .event (if e.2.escape then .escapeDrop else .escapeMove) { id := e.1 }) ++
  (if s.stepReq then ((s.liveDies ++ s.liveChiplets).filter (fun d => !s.swept.contains d)).map (fun d => .event .sweepPass { die := d }) ++
    [.event .horizonStep {}] else []) ++
  (s.chiplets.filter (fun c => c.2.reporting)).map (fun c => .event .beaconReport { chiplet := c.1 }) ++
  (if s.chiplets.any (fun c => c.2.seen ≠ s.bmax) then [.event .beaconBroadcast {}] else [])

/-- Events of the machine's own agents that may be due. -/
def State.eventMoves (s : State) : List Move := s.accessMoves ++ s.blockMoves ++ s.systemMoves ++ s.packageMoves

/-- The next move where the agenda is empty (log 1): one of the moves that may be due, in turn; one cycle passes where there
is none. -/
def State.pick (s : State) : Move :=
  let ms := s.issueMoves ++ s.eventMoves
  ms.getD (s.turn % max 1 ms.length) (.pass 1)

/-- The next move, and the state with it taken from the agenda. -/
def State.takeMove (s : State) : Move × State :=
  match s.agenda with
  | m :: rest => (m, { s with agenda := rest })
  | [] => (s.pick, { s with turn := s.turn + 1 })

/-- One move and what follows from it; nothing moves after a thermal stop (R476). -/
def State.tick (s : State) : Host.Outcome State Fault Refusal :=
  if s.stopped then .fault .moduleStopped
  else
    let m := s.takeMove
    match m.2.move m.1 with
    | .next t => .next (settle exec t)
    | .fault e => .fault e
    | .refused e => .refused e

end Sys2Proof.Machine
end

