-- ==== Sys2Proof/Machine/Step.lean ====
section
/-!
DEFINITION. The step of the machine, and where its next instruction stands: a block of Carafe on the service core of die 0
whose one range maps a page of package memory through the identity window (R54, R364).
-/

namespace Sys2Proof.Machine

/-- One step: the next move of the agenda or of the machine's own order, and what follows from it (log 1). -/
def step (s : State) : Host.Outcome State Fault Refusal := s.tick

/-- A machine with at least one die, slice and chiplet live, and the service core of die 0; a booted one is left as it is. -/
def State.withParts (s : State) : State :=
  if s.liveSlices.length = 0 || s.liveChiplets.length = 0 || !s.coreLive 32 then
    { s with boot := { s.boot with
      dies := s.boot.dies ||| 1
      chiplets := s.boot.chiplets ||| 1
      slices := s.boot.slices.set 0 (s.boot.slices.get 0 0 ||| 1)
      coreMask := s.boot.coreMask.set 0 (s.boot.coreMask.get 0 0 ||| (1#33 <<< 32)) } }
  else s

/-- The package address at which the word is placed. -/
def fetchPa : Nat := 0x100000
/-- The address at which the block's fibre stands. -/
def fetchVa : VA := 0x100000000

/-- Package memory with a word at `fetchPa`, in the home copy of its line too where there is one. -/
def State.placeWord (s : State) (w : Nat) : State :=
  let bytes := leBytes 12 w
  let line := identityIa fetchPa / 128
  let s := { s with mem := s.mem.writes fetchPa bytes, memPoison := s.memPoison.filter (· ≠ fetchPa / 32) }
  match s.homes.find line with
  | some h => { s with homes := s.homes.set line { h with data := lineMerge h.data (bytes.zipIdx.map (fun e => (e.2, e.1))), poison := 0 } }
  | none => s

/-- The block that runs the word: one warp of 32 lanes, one fibre of 448 registers. -/
def fetchBlock : Block :=
  let fib : Fibre := { budget := 448, lanes := List.replicate 32 { pc := fetchVa }, st := .active, lead := 0xFFFFFFFF }
  { st := .resident, service := true, core := 32, width := 32, budgets := [448], entries := [fetchVa], ras := [0],
    ranges := [{ vabase := fetchVa.toNat, gran := 1, iabase := identityIa fetchPa, r := true, w := true, x := true, a := true }],
    warps := [{ fibs := [fib], active := some 0 }] }

/-- The state with a word where the next step fetches its instruction: the word in memory, the block, and its fibre's issue as
the next move. -/
def State.withFetchWord (s : State) (nbits w : Nat) : State :=
  let s := (s.withParts).placeWord (w % 2 ^ (min nbits 96))
  { s with
    blocks := s.blocks.set s.nextBlk fetchBlock
    nextBlk := s.nextBlk + 1
    stopped := false
    agenda := [.issue ⟨s.nextBlk, 0, 0⟩ fetchVa false] }

end Sys2Proof.Machine
end

