-- ==== Sys2Proof/Safety.lean ====
section
/-!
DEFINITION. The terms of the claims: the states a safe run keeps (R6, R155, R156), when an instruction passes every check
before its own work (R61 steps 1 to 6), and what an instruction on registers leaves behind it (R61 steps 9 and 10).
-/

namespace Sys2Proof.Machine

/-- Package memory and the stores of the cores are in canonical form. -/
def State.memWf (s : State) : Bool :=
  s.mem.wf && s.cores.all (fun c => c.2.uni.wf && c.2.acc.wf)

/-- A safe state. -/
def State.safe (s : State) : Bool := s.memWf && s.elected

/-- The context in which the form's meaning runs at the fibre and PC of `cur`, with its operands resolved. -/
def State.ctx (s : State) (o : Op) (f : Ins) (d a b x : Loc) : Ctx :=
  { s := s, o := o, f := f, r := s.cur.ref, pc := s.cur.pc, late := s.cur.late
    path := (s.fib s.cur.ref).issuePath s.cur.pc
    act := s.activeSet s.cur.ref o f ((s.fib s.cur.ref).issuePath s.cur.pc)
    d := d, a := a, b := b, c := x }

/-- The instruction of form `o` with fields `f` stands at the fibre and PC of `cur`, outside runahead; it passes the checks
of R61 steps 1 to 6, a lane is active, and the scoreboard has room and no hazard (R58, R307). Its context is `c`. -/
structure Ready (o : Op) (f : Ins) (s : State) (c : Ctx) : Prop where
  ctx : c = s.ctx o f c.d c.a c.b c.c
  issue : s.mayIssue s.cur.ref s.cur.pc = true
  legal : s.illegalBit (s.block s.cur.ref.blk).service o f = none
  privilege : o.cls = .s → (s.block s.cur.ref.blk).service = true
  normal : (s.fib s.cur.ref).ra = none
  guard : (s.warp s.cur.ref.blk s.cur.ref.warp).hazard s.cur.ref.fib [] [] (guardUse o f) c.path = false
  active : c.act ≠ 0
  operands : ctxLocs s s.cur.ref o f = .ok (c.d, c.a, c.b, c.c)
  clear : (s.warp s.cur.ref.blk s.cur.ref.warp).hazard s.cur.ref.fib c.regsV c.regsU (predUse o f)
    (if clsUniform o.cls then BitVec.allOnes 64 else c.act) = false
  room : entriesNeeded o f ≤ (s.warp s.cur.ref.blk s.cur.ref.warp).freeEntries

/-- The value a list of changes leaves in a vector register. -/
def vregAfter (es : List Eff) (i l : Nat) (v : Word) : Word :=
  es.foldl (fun v e => match e with | .vreg j k x => if j = i ∧ k = l then x else v | _ => v) v
/-- The value a list of changes leaves in a lane predicate. -/
def predAfter (es : List Eff) (p l : Nat) (b : Bool) : Bool :=
  es.foldl (fun b e => match e with | .pred q k x => if q = p ∧ k = l then x else b | _ => b) b
/-- The value a list of changes leaves in a uniform register. -/
def uregAfter (es : List Eff) (n : Nat) (v : Word) : Word :=
  es.foldl (fun v e => match e with | .ureg m x => if m = n then x else v | _ => v) v
/-- The value a list of changes leaves in a uniform predicate. -/
def upredAfter (es : List Eff) (n : Nat) (b : Bool) : Bool :=
  es.foldl (fun b e => match e with | .upred m x => if m = n then x else b | _ => b) b

/-- A lane without what an instruction on registers may change. -/
def Lane.bare (l : Lane) : Lane := { l with pc := 0, preds := 0, sr := 0 }
/-- A fibre without what an instruction on registers may change. -/
def Fibre.bare (f : Fibre) : Fibre :=
  { f with lanes := f.lanes.map Lane.bare, s := [], q := 0, x := 0, fpcs := 0, stall := none, quantum := 0 }
/-- The state without what an instruction on registers of a fibre may change. -/
def State.bare (s : State) (r : FRef) : State :=
  { s.modFib r Fibre.bare with
    cores := s.cores.set (s.block r.blk).core { s.core (s.block r.blk).core with uni := [], uniPoison := [] }
    free := 0 }

/-- Does a list of changes write the register word at a store offset? -/
def writesAt (b : Block) (w : Nat) (es : List Eff) (o : Nat) : Bool :=
  es.any (fun e => match e with | .vreg i l _ => b.regOff w i l == o | _ => false)

/-- Does a list of changes write a register word that lies in word `m` of the store? -/
def marksAt (b : Block) (w : Nat) (es : List Eff) (m : Nat) : Bool :=
  es.any (fun e => match e with | .vreg i l _ => b.regOff w i l / 4 == m | _ => false)

/-- What an instruction on registers leaves: each register, predicate and flag that `x` names at its last value, the path's
lanes at the next instruction or their targets, and everything else as it was. -/
structure After (c : Ctx) (x : Res) (t : State) : Prop where
  reg : ∀ i l, l < c.blk.width → t.reg c.r i l = vregAfter x.effs i l (c.s.reg c.r i l)
  store : ∀ n a, (n = c.blk.core → ∀ o, writesAt c.blk c.r.warp x.effs o = true → a < o ∨ o + 4 ≤ a) →
    (t.core n).uni.read a = (c.s.core n).uni.read a
  mark : ∀ n m, (t.core n).uniPoison.contains m = ((c.s.core n).uniPoison.contains m &&
    !(decide (n = c.blk.core) && marksAt c.blk c.r.warp x.effs m))
  pc : ∀ l, ((t.fib c.r).lane l).pc =
    (x.goto.reverse.find? (fun e => e.1 = l)).elim (if c.path.getLsbD l then c.pc + 12 else (c.fib.lane l).pc) Prod.snd
  pred : ∀ l p, p < 15 → ((t.fib c.r).lane l).pred p = predAfter x.effs p l ((c.fib.lane l).pred p)
  sr : ∀ l, ((t.fib c.r).lane l).sr = (x.sr.reverse.find? (fun e => e.1 = l)).elim (c.fib.lane l).sr Prod.snd
  ureg : ∀ n, (t.fib c.r).ureg n = uregAfter x.effs n (c.fib.ureg n)
  upred : ∀ n, n < 15 → (t.fib c.r).upred n = upredAfter x.effs n (c.fib.upred n)
  flags : (t.fib c.r).fpcs = c.fib.fpcs ||| (effFlags x.effs).setWidth 32
  index : (t.fib c.r).x = x.x.getD c.fib.x
  rest : t.bare c.r = c.s.bare c.r

end Sys2Proof.Machine
end

