-- ==== Sys2Proof/Certificates/Slice0/Obligations.lean ====
section
/-!
DEFINITION. The statements for the provers: what the spec's rules say that the machine does. The rules of the
instructions stand as tables that a statement names; every statement about an instruction gives the whole state it leaves.
-/

namespace Sys2Proof.Rules

open Sys2Proof Sys2Proof.Machine

/-! ## Instructions on registers -/

/-- Which destination a change writes: a register, a predicate, a uniform register or predicate, or the flags. -/
def aimOf (e : Eff) : Nat × Nat × Nat :=
  match e with
  | .vreg i l _ => (0, i, l)
  | .pred p l _ => (1, p, l)
  | .ureg n _ => (2, n, 0)
  | .upred n _ => (3, n, 0)
  | .vpoison i l => (4, i, l)
  | .flags _ => (5, 0, 0)

/-- A poisoned source register (R62, R142, R322): the destinations take values of any kind, no flag, generator or target of the
instruction changes, and POI is raised. -/
def PoisonDoes (o : Op) (f : Ins) (s : State) (c : Ctx) (effs : List Eff) : Prop :=
  ∃ es t, (∀ d, d ∈ es.map aimOf ↔ d ∈ effs.map aimOf ∧ d.1 ≠ 5) ∧ After c { effs := es } t ∧
    exec (o.instr f) s = .next (t.raise c.r cPOI 0 c.pc c.path false 0)

/-- The forms of a list do on every active lane what `rule` says of the lane's values, and nothing else: where no source is
poisoned, no enabled flag is set and the result is written at once. Where an enabled flag is set, FPX is raised after all that, with the
next instruction for its PC and the flags in TVAL (R39); where a source is poisoned, POI. -/
def LanesDo (ops : List Op) (rule : Op → Ins → LaneIn → LaneOut) : Prop :=
  ∀ o ∈ ops, ∀ f s c, Ready o f s c →
    let x := c.laneRes (rule o f)
    let fpx := fpxSet c.fib.fpcs x.effs
    (c.poisoned = false → c.late = false → fpx = 0 → ∃ t, exec (o.instr f) s = .next t ∧ After c x t) ∧
    (c.poisoned = false → fpx ≠ 0 → ∃ t, After c x t ∧
      exec (o.instr f) s = .next (t.raise c.r 5 (fpx.setWidth 64) (c.pc + 12) ((t.fib c.r).path (c.pc + 12)) false 0)) ∧
    (c.poisoned = true → PoisonDoes o f s c x.effs)

/-- The forms of R90. -/
def intForms : List Op :=
  [.iadd, .isub, .imul, .imulh, .imad, .imadw, .imin, .imax, .iabs, .ineg, .iclamp, .isad, .idp4, .idp2, .iaddc, .isubb]

/-- Byte or half `k` of a register as SG reads it, `w` bits wide (R90). -/
def dotPart (signed : Bool) (w x k : Nat) : Int :=
  if signed then sext w (x / 2 ^ (w * k) % 2 ^ w) else ((x / 2 ^ (w * k) % 2 ^ w : Nat) : Int)

/-- The exact value F(a, b, c) of R90. -/
def intExact (o : Op) (f : Ins) (i : LaneIn) : Int :=
  let t := if o = .imad ∨ o = .imadw ∨ o = .iclamp ∨ o = .isad then mTy f.x.m else f.x.ty
  let a := intVal t i.a
  let b := intVal t i.b
  let c := intVal t i.c
  let sa := decide (f.x.m % 8 ≤ 1)
  let sb := decide (f.x.m % 2 = 0)
  let part (w k : Nat) : Int := dotPart sa w i.a k * dotPart sb w i.b k
  match o with
  | .iadd => a + b
  | .isub => a - b
  | .imul => a * b
  | .imulh => a * b / ((2 ^ t.bits : Nat) : Int)
  | .imad => a * b + c
  | .imadw => a * b + intVal (if t = .i32 then .i64 else .n64) i.c
  | .imin => if a ≤ b then a else b
  | .imax => if a ≤ b then b else a
  | .iabs => if a < 0 then -a else a
  | .ineg => -a
  | .iclamp => if c ≤ (if a ≤ b then b else a) then c else (if a ≤ b then b else a)
  | .isad => (if a < b then b - a else a - b) + c
  | .idp4 => part 8 0 + part 8 1 + part 8 2 + part 8 3 + sext 32 i.c
  | .idp2 => part 16 0 + part 16 1 + sext 32 i.c
  | _ => 0

/-- The result type of R90. -/
def intType (o : Op) (f : Ins) : Ty :=
  match o with
  | .imad | .iclamp | .isad => mTy f.x.m
  | .imadw => if mTy f.x.m = .i32 then .i64 else .n64
  | .idp4 | .idp2 => .i32
  | _ => f.x.ty

/-- R90 and R91 on one lane: the exact value reduced to the result type, by Sat or by Wrap; carries by R91. -/
def intRule (o : Op) (f : Ins) (i : LaneIn) : LaneOut :=
  let w := f.x.ty.bits
  let cin (ci : BitVec 4) (neg : Bool) : Nat := if lanePred i.l ci neg then 1 else 0
  match o, f.x with
  | .iaddc, .carry co neg ci _ =>
    let y := i.a + i.b + cin ci neg
    { v := some (y % 2 ^ w), preds := [(co.toNat, decide (2 ^ w ≤ y))] }
  | .isubb, .carry co neg ci _ =>
    let y : Int := (i.a : Int) - i.b - (cin ci neg : Nat)
    { v := some (wrapTo w y), preds := [(co.toNat, decide (y < 0))] }
  | .iaddc, _ => {}
  | .isubb, _ => {}
  | _, _ =>
    let y := intExact o f i
    let sat := f.x.sat && !decide (o = .imulh ∨ o = .imin ∨ o = .imax ∨ o = .iclamp)
    { v := some (if sat then satTo (intType o f) y else wrapTo (intType o f).bits y) }

/-- The forms of R92 to R97. -/
def bitForms : List Op :=
  [.and, .or, .xor, .andn, .orn, .not, .blut, .shl, .shr, .sar, .rol, .ror, .fshl, .fshr, .bfe, .bfi, .bmsk, .brev, .popc,
   .clz, .ctz, .prmt]

/-- Byte `n` of {c, a} (R97). -/
def prmtByte (i : LaneIn) (n : Nat) : Nat :=
  if n % 8 < 4 then i.a / 2 ^ (8 * (n % 8)) % 2 ^ 8 else i.c / 2 ^ (8 * (n % 8 - 4)) % 2 ^ 8
/-- Result byte `k` of PRMT: bit 3 of the selector asks for the sign of the byte (R97). -/
def prmtPart (i : LaneIn) (k : Nat) : Nat :=
  let n := i.b % 65536 / 2 ^ (4 * k) % 16
  if 8 ≤ n then (if 128 ≤ prmtByte i n then 255 else 0) else prmtByte i n

/-- R92 to R97 on one lane. -/
def bitRule (o : Op) (f : Ins) (i : LaneIn) : LaneOut :=
  let t := f.x.ty
  let w := t.bits
  let inv (x : Nat) : Nat := 2 ^ w - 1 - x % 2 ^ w
  let low (p : Nat) : Nat := i.b / 2 ^ p % 256
  let count : Nat := if f.x.m % 2 = 1 then (if i.c ≤ 32 then i.c else 32) else i.c % 32
  let pair : Nat := i.a * 2 ^ 32 + i.b
  let out (x : Nat) : LaneOut := { v := some x }
  match o with
  | .and => out (i.a &&& i.b)
  | .or => out (i.a ||| i.b)
  | .xor => out (i.a ^^^ i.b)
  | .andn => out (i.a &&& inv i.b)
  | .orn => out (i.a ||| inv i.b)
  | .not => out (inv i.a)
  | .blut => (match f.x with
    | .lut v _ => out (ofBits w (fun k => v.getLsbD
        ((if i.a.testBit k then 1 else 0) + 2 * (if i.b.testBit k then 1 else 0) + 4 * (if i.d.testBit k then 1 else 0))))
    | _ => {})
  | .shl => out (if i.b < w then i.a * 2 ^ i.b % 2 ^ w else 0)
  | .shr => out (if i.b < w then i.a / 2 ^ i.b else 0)
  | .sar => out (wrapTo w (sext w i.a / ((2 ^ (if i.b < w then i.b else w - 1) : Nat) : Int)))
  | .rol => out ((i.a * 2 ^ (i.b % w) % 2 ^ w) ||| (i.a / 2 ^ (w - i.b % w)))
  | .ror => out ((i.a * 2 ^ ((w - i.b % w) % w) % 2 ^ w) ||| (i.a / 2 ^ (w - (w - i.b % w) % w)))
  | .fshl => out (pair * 2 ^ count / 2 ^ 32 % 2 ^ 32)
  | .fshr => out (pair / 2 ^ count % 2 ^ 32)
  | .bfe =>
    let pos := low 0
    let len := if low 8 ≤ w then low 8 else w
    let fld := ofBits len (fun k => if pos + k < w then i.a.testBit (pos + k) else t.signed && i.a.testBit (w - 1))
    out (if len = 0 then 0 else if t.signed then wrapTo w (sext len fld) else fld)
  | .bfi =>
    let pos := low 0
    let len := if low 8 ≤ 32 then low 8 else 32
    out (ofBits 32 (fun k => if pos ≤ k ∧ k < pos + len then i.a.testBit (k - pos) else i.c.testBit k))
  | .bmsk => out (ofBits w (fun k => decide (i.a ≤ k ∧ k < i.a + i.b)))
  | .brev => out (ofBits w (fun k => i.a.testBit (w - 1 - k)))
  | .popc => out ((List.range w).countP i.a.testBit)
  | .clz => out (if i.a % 2 ^ w = 0 then w else w - 1 - Nat.log2 (i.a % 2 ^ w))
  | .ctz => out (((List.range w).find? i.a.testBit).getD w)
  | .prmt => out (prmtPart i 0 + prmtPart i 1 * 2 ^ 8 + prmtPart i 2 * 2 ^ 16 + prmtPart i 3 * 2 ^ 24)
  | _ => {}

/-- The forms of R98 to R102. -/
def moveForms : List Op := [.icmpp, .iset, .sel, .mov, .movi, .lea, .psetp, .ptov, .vtop]

/-- Does the relation of R88 hold between two exact values? -/
def relHolds (c : Cmp) (a b : Int) : Bool :=
  match c with
  | .eq => decide (a = b)
  | .ne => !decide (a = b)
  | .lt => decide (a < b)
  | .le => decide (a ≤ b)
  | .gt => decide (b < a)
  | .ge => decide (b ≤ a)
  | .num => true
  | .nan => false

/-- Bop and Lop of R98 and R99. -/
def joinBy (b : Bop) (x y : Bool) : Bool := match b with | .and => x && y | .or => x || y | .xor => x != y

/-- Two predicates from a truth value (R98, R99): PD from `t`, PE from its negation, each combined with PC. -/
def twoPreds (f : Ins) (i : LaneIn) (b : Bop) (pe : BitVec 4) (pcn : Bool) (pc : BitVec 4) (t : Bool) : LaneOut :=
  let p := lanePred i.l pc pcn
  { preds := [(predDest f.d, joinBy b t p), (pe.toNat, joinBy b (!t) p)] }

/-- R98 to R102 on one lane. -/
def moveRule (o : Op) (f : Ins) (i : LaneIn) : LaneOut :=
  match o, f.x with
  | .icmpp, .icmp c b pe pcn pc t => twoPreds f i b pe pcn pc (relHolds c (intVal t i.a) (intVal t i.b))
  | .psetp, .plog l b pe pcn pc =>
    let pa := spPred f.a i.l
    let pb := spPred f.b i.l
    twoPreds f i b pe pcn pc (joinBy l pa pb)
  | .iset, .iset c one t =>
    { v := some (if relHolds c (intVal t i.a) (intVal t i.b) then (if one then 1 else 0xFFFFFFFF) else 0) }
  | .sel, .select pn p _ => { v := some (if lanePred i.l p pn then i.a else i.b) }
  | .mov, _ => { v := some i.a }
  | .movi, _ => { v := some ((match f.x with | .immHi h => h.toNat * 65536 | _ => 0) + (match f.b with | .imm l => l.toNat | _ => 0)) }
  | .lea, .lea sh t =>
    { v := some (wrapTo t.bits ((i.b : Int) + (if t = .i64 then sext 32 i.a else (i.a : Int)) * ((2 ^ sh.toNat : Nat) : Int))) }
  | .ptov, _ => { v := some (i.l.preds.toNat + 2 ^ 15) }
  | .vtop, _ => { preds := ((List.range 15).filter i.b.testBit).map (fun k => (k, i.a.testBit k)) }
  | _, _ => {}

/-! ## Floating point -/

/-- One rounded element of R106: NaN inputs and invalid cases are in `y` and `fl`; with .sr the generator steps once (R34). -/
def rounded (ftz : Bool) (t : Ty) (mode : Rnd) (sr : Word) (xs : List Nat) (y : Val × FFlags) : Nat × FFlags × Word :=
  let sr' := if mode = .sr then srStep sr else sr
  let p := roundFtz ftz t y.1 mode (if mode = .sr then srBits sr' else 0)
  (p.1, y.2 ||| p.2 ||| snanFlag (xs.map (decodeF t)), sr')

/-- Op of R106 on exact values, the product of a fused form exact and unrounded. -/
def floatExact (o : Op) (mode : Rnd) (a b c : Val) (n : Int) : Val × FFlags :=
  let rd := mode == .rd
  match o with
  | .fadd | .dadd | .padd2 => vadd rd a b
  | .fsub => vadd rd a b.negate
  | .fmul | .dmul | .pmul2 => vmul a b
  | .ffma | .dfma | .pfma2 =>
    let p := vmul a b
    let y := vadd rd p.1 c
    (y.1, p.2 ||| y.2)
  | .fscale => (match a with
    | .fin neg m e => (.fin neg m (e + (if n < -1000 then -1000 else if 1000 < n then 1000 else n)), 0)
    | v => (v, 0))
  | _ => (.nan false, 0)

/-- The forms of R106. -/
def floatForms : List Op := [.fadd, .fsub, .fmul, .ffma, .fscale, .dadd, .dmul, .dfma, .padd2, .pmul2, .pfma2]

/-- R106 on one lane: one element, or two with element 0 first. -/
def floatRule (o : Op) (f : Ins) (i : LaneIn) : LaneOut :=
  let pack := o = .padd2 ∨ o = .pmul2 ∨ o = .pfma2
  let dbl := o = .dadd ∨ o = .dmul ∨ o = .dfma
  let mode := if o = .ffma ∨ o = .dfma then rndM f.x.m else if o = .pfma2 then rndM (f.x.m / 2) else f.x.rnd
  let t : Ty := if dbl then .f64 else if o = .pfma2 then pkTy (f.x.m % 2 == 1) else if pack then f.x.ty else .f32
  let ftz := !pack && !dbl && fpcsFtz i.fpcs
  let three := o = .ffma ∨ o = .dfma ∨ o = .pfma2
  let one (sr : Word) (a b c : Nat) : Nat × FFlags × Word :=
    let a := ftzIn ftz a
    let b := ftzIn ftz b
    let c := ftzIn ftz c
    rounded ftz t mode sr (if three then [a, b, c] else if o = .fscale then [a] else [a, b])
      (floatExact o mode (decodeF t a) (decodeF t b) (decodeF t c) (sext 32 i.b))
  let step (w : Word) : Option Word := if mode = .sr then some w else none
  if pack then
    let e0 := one i.l.sr (i.a % 65536) (i.b % 65536) (i.c % 65536)
    let e1 := one e0.2.2 (i.a / 65536 % 65536) (i.b / 65536 % 65536) (i.c / 65536 % 65536)
    { v := some (e0.1 + e1.1 * 65536), fl := e0.2.1 ||| e1.2.1, sr := step e1.2.2 }
  else
    let e := one i.l.sr i.a i.b i.c
    { v := some e.1, fl := e.2.1, sr := step e.2.2 }

/-- The forms of R107 to R110. -/
def compareForms : List Op :=
  [.fmin, .fmax, .dmin, .dmax, .pmin2, .pmax2, .fsetp, .dsetp, .psetp2, .fset, .fclass, .frnd, .fgetexp, .fgetman]

/-- R107: one NaN gives the other operand, two the canonical NaN; −0 lies below +0. -/
def pickOf (hi : Bool) (t : Ty) (x y : Nat) : Nat :=
  let a := decodeF t x
  let b := decodeF t y
  if a.isNaN then (if b.isNaN then canonNaN t else y)
  else if b.isNaN then x
  else match vcmp a b with
    | .lt => if hi then y else x
    | .gt => if hi then x else y
    | .eq => if a.neg = hi then y else x

/-- R108: the column for operands that are not NaN. -/
def relTrue (c : Cmp) (x : Ordering) : Bool :=
  match c with
  | .eq => decide (x = .eq)
  | .ne => decide (x = .lt ∨ x = .gt)
  | .lt => decide (x = .lt)
  | .le => decide (x = .lt ∨ x = .eq)
  | .gt => decide (x = .gt)
  | .ge => decide (x = .gt ∨ x = .eq)
  | .num => true
  | .nan => false
/-- R108: the columns for a NaN. -/
def relNaN (c : Cmp) (u : Bool) : Bool := if c = .num then false else if c = .nan then true else u
/-- R108: the truth of a float relation and the flags it sets. -/
def floatRel (c : Cmp) (u : Bool) (a b : Val) : Bool × FFlags :=
  let nan := a.isNaN || b.isNaN
  let le := decide (c = .lt ∨ c = .le ∨ c = .gt ∨ c = .ge)
  (if nan then relNaN c u else relTrue c (vcmp a b), if a.isSNaN || b.isSNaN || (nan && le && !u) then fIV else 0)

/-- R107 to R110 on one lane. -/
def compareRule (o : Op) (f : Ins) (i : LaneIn) : LaneOut :=
  let single := o = .fmin ∨ o = .fmax ∨ o = .fsetp ∨ o = .fset ∨ o = .frnd
  let ftz := decide single && fpcsFtz i.fpcs
  let a := ftzIn ftz i.a
  let b := ftzIn ftz i.b
  let pick (hi : Bool) (t : Ty) (x y : Nat) : Nat × FFlags := (pickOf hi t x y, snanFlag [decodeF t x, decodeF t y])
  let scalar (hi : Bool) (t : Ty) : LaneOut := { v := some (pick hi t a b).1, fl := (pick hi t a b).2 }
  let packed (hi : Bool) : LaneOut :=
    let e0 := pick hi f.x.ty (i.a % 65536) (i.b % 65536)
    let e1 := pick hi f.x.ty (i.a / 65536 % 65536) (i.b / 65536 % 65536)
    { v := some (e0.1 + e1.1 * 65536), fl := e0.2 ||| e1.2 }
  let rel (t : Ty) (c : Cmp) (u : Bool) : Bool × FFlags := floatRel c u (decodeF t a) (decodeF t b)
  let nanOut (sig : Bool) : LaneOut := { v := some (canonNaN .f32), fl := if sig then fIV else 0 }
  match o, f.x with
  | .fmin, _ => scalar false .f32
  | .fmax, _ => scalar true .f32
  | .dmin, _ => scalar false .f64
  | .dmax, _ => scalar true .f64
  | .pmin2, _ => packed false
  | .pmax2, _ => packed true
  | .fsetp, .fcmp c bo pe pcn pc u _ => { twoPreds f i bo pe pcn pc (rel .f32 c u).1 with fl := (rel .f32 c u).2 }
  | .dsetp, .fcmp c bo pe pcn pc u _ => { twoPreds f i bo pe pcn pc (rel .f64 c u).1 with fl := (rel .f64 c u).2 }
  | .psetp2, .fcmp c bo pe pcn pc u bf =>
    let e (k : Nat) := floatRel c u (decodeF (pkTy bf) (i.a / 2 ^ (16 * k) % 65536)) (decodeF (pkTy bf) (i.b / 2 ^ (16 * k) % 65536))
    let p := lanePred i.l pc pcn
    { preds := [(predDest f.d, joinBy bo (e 0).1 p), (pe.toNat, joinBy bo (e 1).1 p)], fl := (e 0).2 ||| (e 1).2 }
  | .fset, .fset c one u =>
    { v := some (if (rel .f32 c u).1 then (if one then 0x3F800000 else 0xFFFFFFFF) else 0), fl := (rel .f32 c u).2 }
  | .fclass, _ =>
    let t := f.x.ty
    { v := some (2 ^ (match decodeF t i.a with
        | .nan sig => if sig then 8 else 9
        | .inf n => if n then 0 else 7
        | .fin n m e =>
          if m = 0 then (if n then 3 else 4)
          else if e = fEmin t - (fbits t : Int) ∧ m < 2 ^ fbits t then (if n then 2 else 5)
          else (if n then 1 else 6))) }
  | .frnd, _ => (match decodeF .f32 a with
    | .nan sig => nanOut sig
    | .inf n => { v := some (infPat .f32 n) }
    | .fin n m e =>
      let q := chooseSig n m e 0 f.x.rnd 0
      { v := some (roundTo .f32 (.fin n q 0) .rne).1, fl := if cmpScaled q 0 m e = .eq then 0 else fNX })
  | .fgetexp, _ => (match decodeF .f32 i.a with
    | .nan sig => nanOut sig
    | .inf _ => { v := some 0x7F800000 }
    | .fin _ m e => if m = 0 then { v := some 0xFF800000, fl := fDZ }
        else { v := some (roundTo .f32 (ofIntV (leadExp m e)) .rne).1 })
  | .fgetman, _ => (match decodeF .f32 i.a with
    | .nan sig => nanOut sig
    | .inf n => { v := some (infPat .f32 n) }
    | .fin n m e => { v := some (roundTo .f32 (.fin n m (if m = 0 then e else e - leadExp m e)) .rne).1 })
  | _, _ => {}

/-- The conversions and packing forms of R111 to R115. -/
def convertForms : List Op := [.cvt, .cvtsr, .pack2, .unpk2, .pack4, .unpk4]

/-- R112: with SAT the overflow of a finite value gives the largest finite value; OF and NX stay set. -/
def satFinite (sat : Bool) (t : Ty) (v : Val) (x : Nat × FFlags) : Nat × FFlags :=
  if sat = true ∧ v.isFin = true ∧ x.2 &&& fOF ≠ 0 then (maxPat t v.neg, x.2) else x

/-- R113: a float value as an integer of type `t`: out of range it takes the bound and IV alone. -/
def toInteger (t : Ty) (v : Val) (mode : Rnd) : Nat × FFlags :=
  let w := t.bits
  let hi : Int := if t.signed then (2 ^ (w - 1) : Nat) - 1 else (2 ^ w : Nat) - 1
  let lo : Int := if t.signed then -(2 ^ (w - 1) : Nat) else 0
  match v with
  | .nan _ => (0, fIV)
  | .inf n => (wrapTo w (if n then lo else hi), fIV)
  | .fin n m e =>
    let q := chooseSig n m e 0 mode 0
    let y : Int := if n then -(q : Int) else q
    if hi < y then (wrapTo w hi, fIV)
    else if y < lo then (wrapTo w lo, fIV)
    else (wrapTo w y, if cmpScaled q 0 m e = .eq then 0 else fNX)

/-- The value of a narrow signed result fills its register with the sign (R17, R21). -/
def inRegister (t : Ty) (x : Nat) : Nat := if t.signed = true ∧ t.bits < 32 then wrapTo 32 (sext t.bits x) else x

/-- R111 to R115 on one lane. -/
def convertRule (o : Op) (f : Ins) (i : LaneIn) : LaneOut :=
  let sx := decide (f.x.fn % 2 = 1)
  let ext (w x : Nat) : Nat := if sx then wrapTo 32 (sext w x) else x % 2 ^ w
  match o, f.x with
  | .cvt, .conv dt sat mode st =>
    if dt.isInt then
      if st.isInt then { v := some (inRegister dt (deliverInt sat dt (intVal st i.a))) }
      else { v := some (inRegister dt (toInteger dt (decodeF st i.a) mode).1), fl := (toInteger dt (decodeF st i.a) mode).2 }
    else
      let v := if st.isInt then ofIntV (intVal st i.a) else decodeF st i.a
      let sr := if mode = .sr then srStep i.l.sr else i.l.sr
      let x := satFinite sat dt v (roundTo dt v mode (srBits sr))
      { v := some x.1, fl := x.2 ||| (if st.isInt then 0 else snanFlag [v]), sr := if mode = .sr then some sr else none }
  | .cvtsr, .conv dt sat _ st =>
    let v := decodeF st i.a
    let x := satFinite sat dt v (roundTo dt v .sr (i.b % 65536))
    { v := some x.1, fl := x.2 ||| snanFlag [v] }
  | .pack2, _ => { v := some (i.a % 65536 + i.b % 65536 * 65536) }
  | .unpk2, _ => { v := some (ext 16 (i.a % 65536) + ext 16 (i.a / 65536 % 65536) * 2 ^ 32) }
  | .pack4, _ =>
    { v := some (i.a % 256 + i.a / 2 ^ 32 % 256 * 2 ^ 8 + i.a / 2 ^ 64 % 256 * 2 ^ 16 + i.a / 2 ^ 96 % 256 * 2 ^ 24) }
  | .unpk4, _ =>
    { v := some (ext 8 (i.a % 256) + ext 8 (i.a / 2 ^ 8 % 256) * 2 ^ 32 + ext 8 (i.a / 2 ^ 16 % 256) * 2 ^ 64 +
        ext 8 (i.a / 2 ^ 24 % 256) * 2 ^ 96) }
  | _, _ => {}

end Sys2Proof.Rules

open Sys2Proof Sys2Proof.Machine Sys2Proof.Rules

/-- Integer arithmetic (R90, R91): every form computes its exact value in each active lane, reduces it to the result type by
Sat or Wrap, or chains the carry, and changes nothing else. -/
def Obligations.IntegerArithmetic : Prop := LanesDo intForms intRule

/-- Logic, shifts, bit fields, counts and permutes (R92 to R97): every form writes in each active lane the bits that its rule gives,
and changes nothing else. -/
def Obligations.BitOperations : Prop := LanesDo bitForms bitRule

/-- Compares, selects, moves and predicate logic on integers (R98 to R102): every form writes the predicates or the register of each
active lane as its rule says, and changes nothing else. -/
def Obligations.ComparesAndMoves : Prop := LanesDo moveForms moveRule

/-- Float arithmetic (R106): in each active lane one rounding of the exact value of each element, with its flags, and nothing else
changes.
Where the spec leaves it open it rests on the model's choices of log 10. -/
def Obligations.FloatArithmetic : Prop := LanesDo floatForms floatRule

/-- Minima, maxima, compares, classes and parts of floats (R107 to R110): the value, the predicates and the flags of each active
lane, and nothing else changes. -/
def Obligations.FloatCompares : Prop := LanesDo compareForms compareRule

/-- Conversions and packing (R111 to R115): the value and the flags of each active lane, and nothing else changes. -/
def Obligations.Conversions : Prop := LanesDo convertForms convertRule

namespace Sys2Proof.Rules

/-! ## Special functions -/

/-- The special functions of R119. -/
def specialForms : List Op :=
  [.frcp, .frsq, .fsqrt, .fex2, .flg2, .fsin, .fcos, .fsinr, .fcosr, .ftanh, .fsigm]

/-- A result with its flags. -/
def ans (p : Nat) (fl : FFlags := 0) : LaneOut := { v := some p, fl := fl }
/-- ±0. -/
def zeroOf (n : Bool) : Nat := if n then 0x80000000 else 0
/-- ±∞. -/
def infOf (n : Bool) : Nat := if n then 0xFF800000 else 0x7F800000
/-- ±1. -/
def oneOf (n : Bool) : Nat := if n then 0xBF800000 else 0x3F800000

/-- R121 for an infinity. -/
def specialInf (o : Op) (n : Bool) : LaneOut :=
  match o with
  | .frcp => ans (zeroOf n)
  | .frsq => if n then ans 0x7FC00000 fIV else ans 0
  | .fsqrt | .flg2 => if n then ans 0x7FC00000 fIV else ans 0x7F800000
  | .fex2 => if n then ans 0 else ans 0x7F800000
  | .fsin | .fcos => ans 0x7FC00000 fIR
  | .ftanh => ans (oneOf n)
  | .fsigm => if n then ans 0 else ans 0x3F800000
  | _ => ans 0x7FC00000

/-- R121 for a zero. -/
def specialZero (o : Op) (n : Bool) : LaneOut :=
  match o with
  | .frcp | .frsq => ans (infOf n) fDZ
  | .flg2 => ans 0xFF800000 fDZ
  | .fsqrt | .fsin | .fsinr | .ftanh => ans (zeroOf n)
  | .fsigm => ans 0x3F000000
  | _ => ans 0x3F800000

/-- The exact value of a finite value, as a real number. -/
noncomputable def realOf (v : Val) : ℝ :=
  match v with
  | .fin n m e => (if n then -1 else 1) * (m : ℝ) * (2 : ℝ) ^ e
  | _ => 0

/-- ulp(y) of R119: the spacing of FP32 values at an exact result. -/
noncomputable def ulpAt (y : ℝ) : ℝ := (2 : ℝ) ^ (max (Int.log 2 |y|) (-126) - 23)

/-- An inexact result delivered for the exact value `y` (R119): beyond the largest finite value the infinity of its sign with OF and NX; a
tiny one under FTZ a zero with UF and NX (R38); any other a finite value within `bound`, with NX, and UF where `y` lies below 2^-126.
`near` adds what FDIVF may do: deliver `y` itself, with no flag, where it is an FP32 value. -/
def Delivered (ftz near : Bool) (y bound : ℝ) (p : Nat) (fl : FFlags) : Prop :=
  let v := realOf (decodeF .f32 p)
  if realOf (decodeF .f32 0x7F7FFFFF) < |y| then p = infOf (decide (y < 0)) ∧ fl = fOF ||| fNX
  else if ftz = true ∧ |y| < (2 : ℝ) ^ (-126 : Int) - (2 : ℝ) ^ (-151 : Int) then p = zeroOf (decide (y < 0)) ∧ fl = fUF ||| fNX
  else (decodeF .f32 p).isFin = true ∧ |v - y| ≤ bound ∧
    (if near = true ∧ v = y then fl = 0 else fl = if |y| < (2 : ℝ) ^ (-126 : Int) then fUF ||| fNX else fNX)

/-- The forms whose exact result is no quotient or root. -/
def transcendental : List Op := [.fex2, .flg2, .fsin, .fcos, .fsinr, .fcosr, .ftanh, .fsigm]

/-- The exact result of a special function. -/
noncomputable def realResult (o : Op) (x : ℝ) : ℝ :=
  match o with
  | .frcp => x⁻¹
  | .frsq => (Real.sqrt x)⁻¹
  | .fex2 => (2 : ℝ) ^ x
  | .flg2 => Real.logb 2 x
  | .fsin => Real.sin x
  | .fcos => Real.cos x
  | .fsinr => Real.sin (2 * Real.pi * x)
  | .fcosr => Real.cos (2 * Real.pi * x)
  | .ftanh => Real.tanh x
  | .fsigm => (1 + Real.exp (-x))⁻¹
  | _ => 0

/-- The bound of R120 on the value delivered for `x`, where `y` is the exact result. -/
noncomputable def boundFor (o : Op) (x y : ℝ) : ℝ :=
  match o with
  | .frcp | .frsq => ulpAt y
  | .fex2 => 2 * ulpAt y
  | .flg2 => if 1 / 2 ≤ x ∧ x ≤ 2 then (2 : ℝ) ^ (-22 : Int) else 2 * ulpAt y
  | .ftanh | .fsigm => max (2 * ulpAt y) ((2 : ℝ) ^ (-23 : Int))
  | _ => (2 : ℝ) ^ (-22 : Int)

/-- An integer multiple of a quarter, as quarters; none for any other value. -/
def quartersOf (m : Nat) (e : Int) : Option Nat :=
  if -2 ≤ e then some (m * 2 ^ (e + 2).toNat) else if m % 2 ^ (-e - 2).toNat = 0 then some (m / 2 ^ (-e - 2).toNat) else none

/-- The exact result of a form, where it is known to be a value (R119, R120): a reciprocal or root of a power of two, a power with an
integer exponent, the logarithm of a power of two, a sine or cosine of quarter turns. -/
def exactAt (o : Op) (n : Bool) (m : Nat) (e : Int) : Option Val :=
  let pow := m = 2 ^ Nat.log2 m
  let k := leadExp m e
  match o with
  | .frcp => if pow then some (.fin n 1 (-k)) else none
  | .frsq => if pow ∧ k % 2 = 0 then some (.fin false 1 (-(k / 2))) else none
  | .fex2 =>
    let q := m * 2 ^ e.toNat / 2 ^ (-e).toNat
    let x : Int := if n then -(q : Int) else q
    if m * 2 ^ e.toNat = q * 2 ^ (-e).toNat ∧ -150 < x then some (.fin false 1 x) else none
  | .flg2 => if pow then some (ofIntV k) else none
  | .fsinr => (quartersOf m e).map (fun q =>
      if q % 4 = 1 then .fin n 1 0 else if q % 4 = 3 then .fin (!n) 1 0 else .fin n 0 0)
  | .fcosr => (quartersOf m e).map (fun q =>
      if q % 4 = 0 then .fin false 1 0 else if q % 4 = 2 then .fin true 1 0 else .fin false 0 0)
  | _ => none

/-- R119 to R122 on one lane: NaNs, infinities and zeros by the table; negative operands outside the domain; the square root
correctly rounded; exact results delivered exactly; the ends of FSIN, FTANH and FSIGM; a reciprocal or its root within its bound; and
elsewhere one value with NX, with no flag of an input outside the domain. -/
def SpecialRule (o : Op) (f : Ins) (i : LaneIn) (out : LaneOut) : Prop :=
  let ftz := fpcsFtz i.fpcs
  match decodeF .f32 (ftzIn ftz i.a) with
  | .nan sig => out = ans 0x7FC00000 (if sig then fIV else 0)
  | .inf n => out = specialInf o n
  | .fin n m e =>
    if m = 0 then out = specialZero o n
    else if n = true ∧ (o = .frsq ∨ o = .fsqrt ∨ o = .flg2) then out = ans 0x7FC00000 fIV
    else if o = .fsqrt then
      let r := roundFtz ftz .f32 (vsqrtFin m e 40) f.x.rnd
      out = ans r.1 r.2
    else if (o = .fsin ∨ o = .fcos) ∧ vcmp (.fin false m e) (.fin false 1 18) = .gt then out = ans 0x7FC00000 fIR
    else if o = .ftanh ∧ vcmp (.fin false m e) (.fin false 10 0) ≠ .lt then out = ans (oneOf n) fNX
    else if o = .fsigm ∧ n = false ∧ vcmp (.fin false m e) (.fin false 18 0) ≠ .lt then out = ans 0x3F800000 fNX
    else match exactAt o n m e with
    | some y => out = ans (roundFtz ftz .f32 y .rne).1 (roundFtz ftz .f32 y .rne).2
    | none =>
      if o = .fsin ∧ vcmp (.fin false m e) (.fin false 1 (-12)) = .lt then
        out = ans (ftzIn ftz i.a) (if vcmp (.fin false m e) (.fin false 1 (-126)) = .gt then fNX else fUF ||| fNX)
      else if o ∈ transcendental then ∃ p fl, out = ans p fl ∧ fl &&& (fIV ||| fDZ ||| fIR ||| fNX) = fNX
      else
        let y := realResult o (realOf (.fin n m e))
        ∃ p fl, out = ans p fl ∧ Delivered ftz false y (boundFor o (realOf (.fin n m e)) y) p fl

/-- R119 and R120 on one lane where the exact result of a form is no quotient or root: the value lies within the form's bound. -/
def TranscendentalRule (o : Op) (i : LaneIn) (out : LaneOut) : Prop :=
  let ftz := fpcsFtz i.fpcs
  match decodeF .f32 (ftzIn ftz i.a) with
  | .fin n m e =>
    let x := realOf (.fin n m e)
    m ≠ 0 → (o = .flg2 → n = false) → (o = .fsin ∨ o = .fcos → |x| ≤ 2 ^ 18) →
    exactAt o n m e = none → (o = .fsin → 1 / 4096 ≤ |x|) → (o = .ftanh → |x| < 10) → (o = .fsigm → x < 18) →
    ∃ p fl, out = ans p fl ∧ Delivered ftz false (realResult o x) (boundFor o x (realResult o x)) p fl
  | _ => True

/-- R121 for FDIVF; elsewhere a value within two units in the last place of the quotient (R119, R120). -/
def DivideRule (i : LaneIn) (out : LaneOut) : Prop :=
  let ftz := fpcsFtz i.fpcs
  let a := decodeF .f32 (ftzIn ftz i.a)
  let b := decodeF .f32 (ftzIn ftz i.b)
  let n := a.neg != b.neg
  if a.isNaN ∨ b.isNaN then out = ans 0x7FC00000 (snanFlag [a, b])
  else if (a.isInf ∧ b.isInf) ∨ (a.isZero ∧ b.isZero) then out = ans 0x7FC00000 fIV
  else if a.isInf then out = ans (infOf n)
  else if b.isInf ∨ a.isZero then out = ans (zeroOf n)
  else if b.isZero then out = ans (infOf n) fDZ
  else ∃ p fl, out = ans p fl ∧ Delivered ftz true (realOf a / realOf b) (2 * ulpAt (realOf a / realOf b)) p fl

/-! ## Codebooks and activation tables -/

/-- Is one entry strictly nearer a value than another, or beyond it for an infinite value (R116)? -/
def nearer (v a b : Val) : Bool :=
  match v with
  | .inf n => if n then vcmp a b == .lt else vcmp a b == .gt
  | _ => if a.isInf then false else if b.isInf then true else vcmp (valDist v a) (valDist v b) == .lt

/-- The index R116 names for an element: no entry is nearer, and no lower one as near; NaN entries never. -/
def QuantIndex (ents : List Nat) (x k : Nat) : Prop :=
  let v := decodeF .bf16 x
  let e (j : Nat) : Val := decodeF .bf16 (ents.getD j 0)
  if v.isNaN = true ∨ ∀ j < ents.length, (e j).isNaN = true then k = 0
  else k < ents.length ∧ (e k).isNaN = false ∧
    (∀ j < ents.length, (e j).isNaN = false → nearer v (e j) (e k) = false) ∧
    ∀ j < k, (e j).isNaN = false → nearer v (e k) (e j) = true

/-- The flags of one element of QCB4 (R116): IV and NX for a NaN, NX where the chosen entry is not the element. -/
def quantFlags (ents : List Nat) (x k : Nat) : FFlags :=
  let v := decodeF .bf16 x
  let e := decodeF .bf16 (ents.getD k 0)
  if v.isNaN then fIV ||| fNX else if e.isNaN = false ∧ vcmp e v = .eq then 0 else fNX

/-- TBLEV on one operand (R123): the segment, and one rounding of slope × x + intercept. -/
def tableRule (t : BitVec 16640) (x : Nat) : LaneOut :=
  let word (off : Nat) : Val := decodeF .f32 (t.extractLsb' (8 * off) 32).toNat
  let v := decodeF .f32 x
  let lo := word 0
  let hi := word 4
  let seg : Nat :=
    if lo.isFin && hi.isFin && vcmp lo hi == .lt then
      match v with
      | .inf n => if n then 0 else 255
      | _ => match (vadd false v lo.negate).1, (vadd false hi lo.negate).1 with
        | .fin n m e, .fin _ d k =>
          if n || m = 0 then 0
          else
            let c := min e k
            min 255 (m * 2 ^ (e - c).toNat * 256 / (d * 2 ^ (k - c).toNat))
        | _, _ => 0
    else 0
  match v with
  | .nan sig => ans 0x7FC00000 (if sig then fIV else 0)
  | _ =>
    let s := word (32 + 8 * seg)
    let c := word (36 + 8 * seg)
    let p := vmul s v
    let y := vadd false p.1 c
    let r := roundTo .f32 y.1 .rne
    ans r.1 (p.2 ||| y.2 ||| r.2 ||| snanFlag [s, v, c])

/-! ## Uniform forms -/

/-- The uniform forms with the lane form whose effect each has (R209). -/
def uniformForms : List (Op × Op) :=
  [(.uiadd, .iadd), (.uisub, .isub), (.uimul, .imul), (.ublut, .blut), (.ushl, .shl), (.ushr, .shr), (.uicmpp, .icmpp),
   (.umov, .mov), (.umovi, .movi), (.ulea, .lea), (.usel, .sel), (.upopc, .popc)]

/-- The rule of a lane form that a uniform form follows. -/
def laneRule (o : Op) (f : Ins) (i : LaneIn) : LaneOut :=
  if o ∈ intForms then intRule o f i else if o ∈ bitForms then bitRule o f i else moveRule o f i

/-- A uniform form computes once, from uniform registers, with q0 to q14 in the place of lane predicates (R209, R210). -/
def uniformRes (c : Ctx) (g : LaneIn → LaneOut) : Res :=
  let x := g { (c.laneIn 0) with l := { preds := c.fib.q } }
  { effs := (match x.v with | some v => destEffs c.d c.dw 0 v | none => []) ++ x.preds.map (fun p => .upred p.1 p.2) }

/-! ## Collectives -/

/-- The tree of R190 over lanes `lo` to `lo + 2^k − 1`: neighbours first, an empty half changing nothing. -/
def combTree (op : Nat) (t : Ty) (n : Nat → Option Nat) : Nat → Nat → Option Nat
  | 0, lo => n lo
  | k + 1, lo =>
    match combTree op t n k lo, combTree op t n k (lo + 2 ^ k) with
    | some x, some y => some (combine op t x y)
    | some x, none => some x
    | none, y => y

/-- The running combination of R191 after the lanes of a list. -/
def runComb (op : Nat) (t : Ty) (x : Nat) : List Nat → Nat
  | [] => x
  | y :: rest => runComb op t (combine op t x y) rest

/-- The forms of R186 to R192. -/
def collectiveForms : List Op := [.vote, .matchW, .elect, .shfl, .redw, .scanw, .vtou]

/-- The mask of active lanes with a property (R186). -/
def maskOf (c : Ctx) (p : Nat → Bool) : LaneSet := laneSet (c.lanes.filter p)

/-- A register result in every active lane, or one for a uniform destination (R185). -/
def inLanes (c : Ctx) (g : Nat → Nat) : List Eff :=
  match c.d with
  | .u .. => destEffs c.d c.dw 0 (g (c.lanes.headD 0))
  | _ => c.lanes.flatMap (fun l => destEffs c.d c.dw l (g l))

/-- SHFL's source lane and whether it lies in the segment (R189). -/
def shuffleFrom (mode seg w lane b : Nat) : Int × Bool :=
  let sw := if 2 ^ seg ≤ w then 2 ^ seg else w
  let base : Int := (lane : Int) - (lane % sw : Nat)
  let t : Int := if mode = 0 then base + b else if mode = 1 then (lane : Int) - b else if mode = 2 then (lane : Int) + b
    else ((lane ^^^ b : Nat) : Int)
  (t, if mode = 0 then decide (b < sw) else if mode = 1 then decide (base ≤ t) else if mode = 2 then decide (t < base + sw)
    else decide (base ≤ t ∧ t < base + sw))

/-- What a collective changes (R186 to R192). -/
def collectiveEffs (o : Op) (f : Ins) (c : Ctx) : List Eff :=
  let a (l : Nat) : Nat := c.va l
  match o with
  | .vote =>
    let yes := maskOf c (fun l => spPred f.a (c.fib.lane l))
    if f.x.fn = 3 ∨ 3 < f.x.fn then inLanes c (fun _ => yes.toNat)
    else c.predAll (if f.x.fn = 0 then decide (yes ≠ 0) else if f.x.fn = 1 then decide (yes = c.act)
      else decide (yes = 0 ∨ yes = c.act))
  | .matchW =>
    if f.x.fn % 2 = 0 then inLanes c (fun l => (maskOf c (fun k => a k == a l)).toNat)
    else inLanes c (fun _ => if c.lanes.all (fun l => a l == a (c.lanes.headD 0)) then c.act.toNat else 0)
  | .elect => c.lanes.map (fun l => .pred (predDest f.d) l (l == c.lanes.headD 0))
  | .shfl => (match f.x with
    | .shfl mode seg _ => inLanes c (fun l =>
        let t := shuffleFrom mode.toNat seg.toNat c.blk.width l (c.vb l % 2 ^ 32)
        if t.2 = true ∧ 0 ≤ t.1 ∧ c.act.getLsbD t.1.toNat = true then a t.1.toNat else a l)
    | _ => [])
  | .redw =>
    let t := f.x.ty
    let n (l : Nat) : Option Nat := if l < c.blk.width ∧ c.act.getLsbD l = true then some (a l) else none
    let r := (combTree (redCode f.x).1 t n 6 0).getD 0
    inLanes c (fun _ => if t = .f32 ∧ (decodeF .f32 r).isNaN = true then 0x7FC00000 else r)
  | .scanw =>
    let t := f.x.ty
    let op := (redCode f.x).1
    let canon (x : Nat) : Nat := if t = .f32 ∧ (decodeF .f32 x).isNaN = true then 0x7FC00000 else x
    -- the inclusive result at position k of the active lanes
    let inc (k : Nat) : Nat := runComb op t (canon (a (c.lanes.headD 0))) (((c.lanes.take (k + 1)).drop 1).map a)
    c.lanes.zipIdx.flatMap (fun e => destEffs c.d c.dw e.1
      (if (redCode f.x).2 then (if e.2 = 0 then redIdentity op t else inc (e.2 - 1)) else inc e.2))
  | .vtou =>
    let lane := if f.x.fn % 2 = 1 then c.vb 0 % 64 else c.lanes.headD 0
    destEffs c.d c.dw 0 (if c.act.getLsbD lane then a lane else 0)
  | _ => []

/-! ## Control transfer -/

/-- The forms of R180 and R181, with the 64-bit target of a lane. -/
def transferTarget (o : Op) (f : Ins) (c : Ctx) (l : Nat) : Nat :=
  if o = .bra ∨ o = .call then
    wrapTo 64 ((c.pc.toNat : Int) + 4 * sext 32 ((match f.x with | .immHi h => h.toNat * 65536 | _ => 0) +
      (match f.b with | .imm x => x.toNat | _ => 0)))
  else c.va l

/-- TVAL of a fault of an access (R141). -/
def accessTval (sp : Bool) (lane : Nat) (addr : Int) : Dword :=
  BitVec.ofNat 64 ((if sp then 2 ^ 63 else 0) + lane * 2 ^ 57 + wrapTo 57 addr % 2 ^ 57)

end Sys2Proof.Rules

/-- The bounds of the functions with no algebraic exact result (R119, R120): the value that each delivers in each active lane lies within
the bound of the real function's value, and its flags are those of R119.
Where the spec leaves it open it rests on the model's choices of log 7. -/
def Obligations.SpecialFunctionBounds : Prop :=
  ∀ o ∈ transcendental, ∀ f s c, Ready o f s c → c.poisoned = false → c.late = false → fpcsEnables c.fib.fpcs = 0 →
    ∃ t, exec (o.instr f) s = .next t ∧ ∃ out : LaneIn → LaneOut, After c (c.laneRes out) t ∧ ∀ i, TranscendentalRule o i (out i)

/-- The uniform forms (R209, R210): the effect of the lane form of the same name, once, on uniform registers and predicates; a
shift right follows its type. -/
def Obligations.UniformForms : Prop :=
  ∀ p ∈ uniformForms, ∀ f s c, Ready p.1 f s c → c.poisoned = false → c.late = false →
    let o := if p.1 = .ushr ∧ f.x.ty.signed = true then Op.sar else p.2
    ∃ t, exec (p.1.instr f) s = .next t ∧ After c (uniformRes c (laneRule o f)) t

/-- The warp collectives (R185 to R192): what each active lane, or the fibre, receives from the values of the active lanes, and nothing
else changes; a poisoned source raises POI. -/
def Obligations.Collectives : Prop :=
  ∀ o ∈ collectiveForms, ∀ f s c, Ready o f s c →
    (c.poisoned = false → c.late = false → ∃ t, exec (o.instr f) s = .next t ∧ After c { effs := collectiveEffs o f c } t) ∧
    (c.poisoned = true → PoisonDoes o f s c (collectiveEffs o f c))

/-- Control transfers (R148, R180, R181): with every active lane's target in range and aligned, each active lane goes to its
target, the path's other lanes to the next instruction, CALL and CALLX write the address of the next instruction to D, and
nothing else changes but the choice of the leading path, made where the lanes go to two or more PCs. A target out of range raises RNG for the
lowest such lane; with none, a misaligned one raises ALN.
Where the spec leaves it open it rests on the model's choices of log 71. -/
def Obligations.ControlTransfers : Prop :=
  ∀ o ∈ [Op.bra, .brx, .call, .callx, .ret], ∀ f s c, Ready o f s c →
    let target := transferTarget o f c
    let rest := c.path &&& ~~~c.act
    let targets := c.lanes.map (fun l => (l, BitVec.ofNat 57 (target l)))
    let pcs := targets.map Prod.snd ++ (if rest = 0 then [] else [c.pc + 12])
    (c.poisoned = false → c.late = false → (∀ l ∈ c.lanes, target l < 2 ^ 57 ∧ target l % 4 = 0) →
      ∃ u, exec (o.instr f) s = .next (if ∃ p ∈ pcs, ∃ q ∈ pcs, p ≠ q then
          u.modFib c.r (fun x => { x with lead := leadingLanes f.hnt.br targets rest, opps := 0 }) else u) ∧
        After c { effs := c.lanes.flatMap (fun l => destEffs c.d 2 l (c.pc + 12).toNat)
                  goto := targets } u) ∧
    (∀ l, c.lanes.find? (fun k => decide (2 ^ 57 ≤ target k)) = some l →
      exec (o.instr f) s = .next (s.raise c.r cRNG (accessTval false l (target l)) c.pc c.path false 0)) ∧
    (∀ l, (∀ k ∈ c.lanes, target k < 2 ^ 57) → c.lanes.find? (fun k => decide (target k % 4 ≠ 0)) = some l →
      exec (o.instr f) s = .next (s.raise c.r cALN (accessTval false l (target l)) c.pc c.path false 0))

namespace Sys2Proof.Rules

/-! ## The fibre -/

/-- The state in which the instruction has retired: its path stands at the next instruction, the issue is counted, and the
fibre is changed by `g`; nothing else is changed. -/
def did (c : Ctx) (g : Fibre → Fibre := id) : State :=
  c.s.modFib c.r (fun x => g { x with
    lanes := x.lanes.mapIdx (fun l y => if c.path.getLsbD l then { y with pc := c.pc + 12 } else y)
    stall := none
    quantum := x.quantum + 1 })

/-- A rejoin mask is complete: some lane arrived, and every enrolled lane did (R152). -/
def maskFull (m : Mask) : Bool := m.arr != 0 && m.enr &&& ~~~m.arr == 0

/-- What an instruction on rejoin masks leaves: masks become `upd` and those of `tested` that are then complete release their
lanes; lanes are parked as `park` says, and `gone` exit. -/
structure MaskStep (c : Ctx) (t : State) (tested : Nat → Bool) (upd : Nat → Mask) (park : Nat → Option (BitVec 3))
    (gone : LaneSet) : Prop where
  mask : ∀ j < 8, (t.fib c.r).mask j = if tested j && maskFull (upd j) then { upd j with arr := 0 } else upd j
  lane : ∀ l < c.fib.lanes.length, (t.fib c.r).lane l =
    { c.fib.lane l with
      pc := if c.path.getLsbD l then c.pc + 12 else (c.fib.lane l).pc
      exited := (c.fib.lane l).exited || gone.getLsbD l
      handler := (t.fib c.r).trap && (c.fib.lane l).handler || !c.fib.trap && (c.fib.lane l).handler
      park := match park l with
        | some j => if tested j.toNat && maskFull (upd j.toNat) then none else some j
        | none => none }
  count : (t.fib c.r).lanes.length = c.fib.lanes.length
  rest : { t.fib c.r with lanes := [], j := [], trap := false, tpend := 0, tpval := 0 } =
    { c.fib with lanes := [], j := [], trap := false, tpend := 0, tpval := 0, stall := none, quantum := c.fib.quantum + 1 }
  frame : t = c.s.modFib c.r (fun _ => t.fib c.r)

/-- A mask without some lanes. -/
def Mask.minus (m : Mask) (ls : LaneSet) : Mask := { enr := m.enr &&& ~~~ls, arr := m.arr &&& ~~~ls }

/-- Does every lane of the handler leave with the lanes of `ls` (R182)? -/
def lastHandler (x : Fibre) (ls : LaneSet) : Bool :=
  x.trap && !(List.range x.lanes.length).any (fun l => (x.lane l).handler && !(x.lane l).exited && !ls.getLsbD l)

/-- Trap mode, TPEND and TPVAL stay as they were. -/
def sameTrap (x y : Fibre) : Prop := y.trap = x.trap ∧ y.tpend = x.tpend ∧ y.tpval = x.tpval

/-- Nothing holds a release of the fibre up, and none and no barrier arrival is under way (R237, R312). -/
abbrev canRelease (c : Ctx) (sc : Scope) : Prop :=
  c.fib.rel = none ∧ c.fib.arrivals = [] ∧ c.s.releaseDone c.r sc = true

/-- The special registers of R198, by number: the value a lane reads. -/
def specialValue (c : Ctx) (n lane : Nat) : Nat :=
  let b := c.blk
  let f := c.fib
  if n < 0x008 then
    [lane, b.width, c.r.fib, b.nf, c.r.warp, b.warps.length, (c.s.warp c.r.blk c.r.warp).slot, 0].getD n 0
  else if n < 0x010 then [b.ix, b.iy, b.iz, b.gx, b.gy, b.gz, b.rank, b.csize].getD (n - 0x008) 0
  else if n < 0x014 then [b.core % 33, b.core / 33, b.vi, b.tag.toNat].getD (n - 0x010) 0
  else if 0x018 ≤ n ∧ n < 0x01C then [f.ptime.toNat, c.s.now % 2 ^ 64, c.act.toNat, 2 ^ lane - 1].getD (n - 0x018) 0
  else if n = 0x020 then f.fpcs.toNat
  else if n = 0x021 then (f.lane lane).sr.toNat
  else if 0x028 ≤ n ∧ n < 0x02D then
    [f.tpc.toNat, f.tcause.toNat, f.tval.toNat, f.tpend.toNat, f.tpval.toNat].getD (n - 0x028) 0
  else if 0x030 ≤ n ∧ n < 0x034 then (f.wp.get (n - 0x030) {}).va.toNat
  else if 0x034 ≤ n ∧ n < 0x038 then (f.wp.get (n - 0x034) {}).ctl.toNat
  else 0

/-- The number of the special register an operand names. -/
def sregOf (x : Operand) : Nat := match x with | .sp (.sreg n) => n.toNat | _ => 0

/-- The write of one value to a fibre-scope special register (R166, R167, R200, R201); generators are not among them. -/
def specialWrite (n v : Nat) (f : Fibre) : Fibre :=
  if n = 0x020 then { f with fpcs := fpcsStore (BitVec.ofNat 32 v) }
  else if n = 0x028 then { f with tpc := BitVec.ofNat 57 (v % 2 ^ 57 / 4 * 4) }
  else if n = 0x02B then { f with tpend := f.tpend &&& ~~~(BitVec.ofNat 12 (v % 16)) }
  else if 0x030 ≤ n ∧ n < 0x034 then
    { f with wp := f.wp.set (n - 0x030) { f.wp.get (n - 0x030) {} with va := BitVec.ofNat 64 (v % 2 ^ 57) } }
  else if 0x034 ≤ n ∧ n < 0x038 then
    { f with wp := f.wp.set (n - 0x034) { f.wp.get (n - 0x034) {} with
        ctl := BitVec.ofNat 32 (v % 8 + 16 * (if v / 16 % 32 ≤ 16 then v / 16 % 32 else 16)) } }
  else f

/-- A generator is never zero (R35). -/
def notZero (x : Word) : Word := if x = 0 then 1 else x

/-- The 16-bit immediate in B. -/
def immB (f : Ins) : Nat := match f.b with | .imm x => x.toNat | _ => 0

/-- A fault latched in trap mode (R167): its bit of TPEND, and with TPEND[3:0] empty its class and TVAL. -/
def latched (cls : Nat) (val : Dword) (f : Fibre) : Fibre :=
  let bit : BitVec 12 := BitVec.ofNat 12 (2 ^ (cls - 5))
  if f.tpend.extractLsb' 0 4 = 0 then { f with tpend := ((f.tpend &&& 0xFF) ||| (BitVec.ofNat 12 cls <<< 8)) ||| bit, tpval := val }
  else { f with tpend := f.tpend ||| bit }

/-- Entry to the trap handler at `entry` (R164): the lanes named that have not exited go there as the handler's. -/
def entered (cause : Nat) (val : Dword) (resume entry : VA) (lanes : LaneSet) (f : Fibre) : Fibre :=
  { f with
    lanes := f.lanes.mapIdx (fun l x => if lanes.getLsbD l && !x.exited then { x with pc := entry, handler := true } else x)
    tpc := resume, tcause := BitVec.ofNat 6 cause, tval := val, trap := true, stall := none, rel := f.rel.filter (fun x => x.1.isNone) }

/-- The fibre barrier after an arrival (R160, R194): participants and arrivals joined, and what the phase waits for. -/
def arrived (x : FBar) (part me : BitVec 4) (waits : List (Nat × Nat × Nat)) (pt : Time) : FBar :=
  { x with part := x.part ||| part ||| me, arr := x.arr ||| me, waits := (x.waits ++ waits).eraseDups,
           pmax := if x.arr = 0 then pt else tmax x.pmax pt }
/-- A fibre barrier whose phase is complete turns to the next (R160). -/
def turned (x : FBar) : FBar := { phase := x.phase + 1, lasts := x.lasts.set x.phase.toNat x.pmax }
/-- Is the phase complete: some participant, all of them arrived or ended, no transfer awaited? -/
def phaseFull (w : Warp) (x : FBar) : Bool :=
  x.part != 0 && x.waits.isEmpty &&
  (List.range 4).all (fun i => !x.part.getLsbD i || x.arr.getLsbD i || decide (w.fibs.length ≤ i) || (w.fibs.getD i {}).st == .ended)

end Sys2Proof.Rules

/-- The end of lanes and the rejoin masks (R152, R153, R182 to R184): EXIT takes its lanes out of every mask and, with the
last of the handler's lanes, leaves trap mode with TPEND clear; RJE enrols the active lanes, RJW parks the enrolled ones, RJX
takes them out; a mask that is complete releases its lanes; RJRD reads one.
Where the spec leaves it open it rests on the model's choices of log 69. -/
def Obligations.LanesAndMasks : Prop :=
  ∀ f s c,
    (Ready .exit f s c → ∃ t, exec (.exit f) s = .next t ∧
      MaskStep c t (fun _ => true) (fun j => Mask.minus (c.fib.mask j) c.act)
        (fun l => if c.act.getLsbD l then none else (c.fib.lane l).park) c.act ∧
      (lastHandler c.fib c.act = true → (t.fib c.r).trap = false ∧ (t.fib c.r).tpend = 0 ∧ (t.fib c.r).tpval = 0) ∧
      (lastHandler c.fib c.act = false → sameTrap c.fib (t.fib c.r))) ∧
    (∀ n, f.d = .sp (.mask n) → Ready .rje f s c → ∃ t, exec (.rje f) s = .next t ∧ sameTrap c.fib (t.fib c.r) ∧
      MaskStep c t (fun _ => false) (fun j => if j = n.toNat then { enr := c.act } else c.fib.mask j)
        (fun l => if (c.fib.lane l).park = some n then none else (c.fib.lane l).park) 0) ∧
    (∀ n, f.d = .sp (.mask n) → Ready .rjw f s c → ∃ t, exec (.rjw f) s = .next t ∧ sameTrap c.fib (t.fib c.r) ∧
      let who := c.act &&& (c.fib.mask n.toNat).enr
      MaskStep c t (fun j => j = n.toNat)
        (fun j => if j = n.toNat then { c.fib.mask j with arr := (c.fib.mask j).arr ||| who } else c.fib.mask j)
        (fun l => if who.getLsbD l then some n else (c.fib.lane l).park) 0) ∧
    (∀ n, f.d = .sp (.mask n) → Ready .rjx f s c → ∃ t, exec (.rjx f) s = .next t ∧ sameTrap c.fib (t.fib c.r) ∧
      MaskStep c t (fun j => j = n.toNat) (fun j => if j = n.toNat then Mask.minus (c.fib.mask j) c.act else c.fib.mask j)
        (fun l => (c.fib.lane l).park) 0) ∧
    (∀ n, f.a = .sp (.mask n) → Ready .rjrd f s c → c.poisoned = false → c.late = false →
      let m := c.fib.mask n.toNat
      ∃ t, exec (.rjrd f) s = .next t ∧ After c { effs := destEffs c.d 2 0 (if f.x.fn % 2 = 1 then m.arr else m.enr).toNat } t)

/-- Special registers and the index register (R35, R166, R167, R198 to R201, R203): RSR gives the register of each number, WSR changes
the one it names, SETX and ADDX the index register, and nothing else changes.
Where the spec leaves it open it rests on the model's choices of log 61, log 66. -/
def Obligations.SpecialRegisters : Prop :=
  ∀ f s c, c.poisoned = false →
    (Ready .rsr f s c → c.late = false → ∃ t, exec (.rsr f) s = .next t ∧
      After c { effs := c.lanes.flatMap (fun l => destEffs c.d c.dw l (specialValue c (sregOf f.a) l)) } t) ∧
    (Ready .wsr f s c → sregOf f.d ≠ 0x021 → sregOf f.d ≠ 0x022 →
      exec (.wsr f) s = .next (did c (specialWrite (sregOf f.d) (c.va (c.lanes.headD 0))))) ∧
    (Ready .wsr f s c → sregOf f.d = 0x021 ∨ sregOf f.d = 0x022 → ∃ t, exec (.wsr f) s = .next t ∧
      let mix (l : Nat) : Word := if sregOf f.d = 0x022 then BitVec.ofNat 32 (0x9E3779B9 * (l + 1)) else 0
      After c { sr := c.lanes.map (fun l => (l, notZero (BitVec.ofNat 32 (c.va l) ^^^ mix l))) } t) ∧
    (Ready .setx f s c → ∃ t, exec (.setx f) s = .next t ∧ After c { x := some (BitVec.ofNat 32 (c.vb 0)) } t) ∧
    (Ready .addx f s c → ∃ t, exec (.addx f) s = .next t ∧ After c { x := some (c.fib.x + BitVec.ofNat 32 (c.vb 0)) } t)

namespace Sys2Proof.Rules

/-! ## Memory -/

/-- The exact address of a lane (R126): base, lane offset and displacement in units of the access, or base and immediate. -/
def laneAddr (c : Ctx) (disp : Bool) (l : Nat) : Int :=
  match c.f.b with
  | .imm x => (c.va l : Int) + sext 16 x.toNat
  | _ => (c.va l : Int) + sext 32 (c.vb l) + (match c.f.x with
    | .mem dh _ _ dl _ => if disp then sext 7 (dh.toNat * 16 + dl.toNat) * c.size else 0
    | _ => 0)

/-- The forms on scratchpad (false) and accumulator windows (true), with whether they take a displacement. -/
def windowForms : List (Op × Bool × Bool) :=
  [(.lds, false, true), (.sts, false, true), (.atoms, false, false), (.reds, false, false), (.cass, false, false),
   (.lda, true, true), (.sta, true, true)]
/-- The forms of global memory with the permission each needs (R132). -/
def globalForms : List (Op × Bool × (Range → Bool)) :=
  [(.ldg, true, Range.r), (.stg, true, Range.w), (.atomg, false, Range.a), (.redg, false, Range.a), (.casg, false, Range.a)]

/-- Bytes of the window a form addresses (R125). -/
def windowSpan (c : Ctx) (acc : Bool) : Nat := if acc then c.blk.accBytes else c.blk.sspan
/-- Where offset `a` of a window lies in the core's store. -/
def windowPlace (c : Ctx) (acc : Bool) (a : Nat) : Nat :=
  if acc then c.blk.banks.getD (a / Config.accBank) 0 * Config.accBank + a % Config.accBank else c.blk.sbase + a

/-- Does the address of a lane lie outside its window? -/
def outside (c : Ctx) (acc disp : Bool) (l : Nat) : Bool :=
  decide (laneAddr c disp l < 0) || decide ((windowSpan c acc : Int) < laneAddr c disp l + c.size)

/-- The range register that holds a VA: the first that does (R127). -/
def vaRange (b : Block) (va : Nat) : Option Range :=
  b.ranges.find? (fun g => decide (g.gran ≠ 0) && decide (g.vabase ≤ va) && decide (va < g.vabase + g.gran * 65536))

/-- May the lane's global address be translated: below 2^57, in a range with the permission, in a world the block may use? -/
def reaches (c : Ctx) (disp : Bool) (perm : Range → Bool) (l : Nat) : Bool :=
  decide (wrapTo 64 (laneAddr c disp l) < 2 ^ 57) &&
  (match vaRange c.blk (wrapTo 64 (laneAddr c disp l)) with
   | some g => perm g && (g.ns || !c.blk.ns)
   | none => false)
/-- The IA of a lane's global address (R127). -/
def laneIa (c : Ctx) (disp : Bool) (l : Nat) : Nat :=
  match vaRange c.blk (wrapTo 64 (laneAddr c disp l)) with
  | some g => g.iabase + (wrapTo 64 (laneAddr c disp l) - g.vabase)
  | none => 0

/-- May the range that holds a lane's global address be used by both worlds? -/
def laneNs (c : Ctx) (disp : Bool) (l : Nat) : Bool :=
  match vaRange c.blk (wrapTo 64 (laneAddr c disp l)) with
  | some g => g.ns
  | none => false

/-- The address of a lane of REDR and of PATOM (R335, R461): REDR's is exact; PATOM's counts from the offset of its pointer. -/
def remoteAddr (o : Op) (c : Ctx) (l : Nat) : Int :=
  if o = .patom then ((c.va l % 2 ^ 41 : Nat) : Int) + (match c.f.b with | .imm x => sext 16 x.toNat | _ => sext 32 (c.vb l))
  else laneAddr c false l
/-- Is it out of the cluster's address space, outside the scratchpads, or beyond the pointer's window? -/
def remoteOut (o : Op) (c : Ctx) (l : Nat) : Bool :=
  let a := remoteAddr o c l
  if o = .patom then decide (a < 0 ∨ 2 ^ 41 ≤ a)
  else decide (a < 0 ∨ 2 ^ 24 ≤ a ∨ (c.blk.csize : Int) ≤ a / 2 ^ 21 ∨ (c.blk.sspan : Int) < a % 2 ^ 21 + c.size)

/-- Does a VA lie in a range with R, in a world the block may use (R261)? -/
def reachable (b : Block) (va : Nat) : Bool :=
  decide (va < 2 ^ 57) && (match vaRange b va with | some g => g.r && (g.ns || !b.ns) | none => false)

/-- The bytes of a descriptor, image or list that a form reads first, from the VA in A (R261, R443, R459). -/
def describedBy : List (Op × Nat × Engine) :=
  [(.cpy, 64, .copy), (.gath, 64, .copy), (.scat, 64, .copy), (.chain, 192, .chain), (.cpyr, 64, .copy), (.cpym, 64, .copy), (.pcpy, 32, .copy),
   (.mcst, 16, .copy), (.mred, 16, .copy)]

/-- Does a release come before the access (R236, R239, R240)? -/
def releases (c : Ctx) : Bool := c.f.x.order == .rel || c.f.x.order == .ar || c.f.x.order == .sc

/-- The fibre has no access outstanding, its release, if it needs one, waits for nothing, and a number for an outstanding
instruction is free. -/
abbrev calm (c : Ctx) : Prop :=
  c.s.accessing c.r = false ∧ c.s.memHeld c.r false = false ∧ c.fib.rel = none ∧
  (releases c = true → c.s.releaseDone c.r c.f.x.scope = true) ∧
  (c.s.warp c.r.blk c.r.warp).pend.find (c.s.warp c.r.blk c.r.warp).nextPend = none

/-- The instruction has retired after its release (R237, R421): at `.s` BT takes the fibre's ptime. -/
def didReleased (c : Ctx) (rel : Bool) : State :=
  let t := did c (fun x => if rel then { x with relw := x.ptime } else x)
  if rel = true ∧ c.f.x.scope = .s then { t with bridge := { t.bridge with bt := tmax t.bridge.bt c.fib.ptime } } else t

/-- One more number for an outstanding instruction has been used. -/
def numbered (c : Ctx) (t : State) : State := t.modWarp c.r.blk c.r.warp (fun w => { w with nextPend := w.nextPend + 1 })

/-- The lanes' accesses: core, window (0 unified store, 1 accumulator store, 2 control page) and offset. -/
abbrev Spots := Nat → Nat × Nat × Nat

/-- The value of `n` bytes at a spot, little-endian (R6). -/
def spotValue (s : State) (at' : Nat × Nat × Nat) (n : Nat) : Nat :=
  if at'.2.1 = 2 then (s.corePage at'.1 at'.2.2).toNat
  else leNat ((List.range n).map (fun i =>
    if at'.2.1 = 1 then (s.core at'.1).acc.read (at'.2.2 + i) else (s.core at'.1).uni.read (at'.2.2 + i)))
/-- A write of a value at a spot. -/
def spotStore (s : State) (at' : Nat × Nat × Nat) (n v : Nat) : State :=
  if at'.2.1 = 2 then s.corePageWrite at'.1 at'.2.2 (BitVec.ofNat 64 v)
  else s.storeWrite at'.1 at'.2.2 (at'.2.1 == 1) (leBytes n v) false
/-- No poison under a spot, and no outstanding command of the fibre has a region there (R135, R142). -/
abbrev spotClear (c : Ctx) (at' : Nat × Nat × Nat) : Prop :=
  at'.2.1 ≠ 2 → (∀ i < c.size, c.s.storePoison at'.1 (at'.2.2 + i) (at'.2.1 == 1) = false) ∧
    c.s.overlapping c.r at'.1 at'.2.2 c.size (at'.2.1 == 1) = [] ∧ c.s.readingMatrix at'.1 at'.2.2 c.size (at'.2.1 == 1) = []

/-- The spots of a form's active lanes: inside their window and aligned (R125, R140). -/
abbrev SpotsOf (o : Op) (c : Ctx) (at' : Spots) : Prop :=
  ∀ l ∈ c.lanes,
    if o = .ldo ∨ o = .sto then
      c.s.mapPlace c.blk (wrapTo 64 (laneAddr c true l)) (c.f.x.ty == .b64) = some (at' l) ∧
        wrapTo 64 (laneAddr c true l) % c.size = 0
    else
      let acc := decide (o = .lda ∨ o = .sta)
      let disp := !decide (o = .atoms ∨ o = .reds ∨ o = .cass)
      outside c acc disp l = false ∧ (laneAddr c disp l).toNat % 2 ^ 64 % c.size = 0 ∧
        at' l = (c.blk.core, if acc then 1 else 0, windowPlace c acc (laneAddr c disp l).toNat)

/-- A loaded value in its register (R133). -/
def loaded (t : Ty) (x : Nat) : Nat := if t.signed then wrapTo 32 (sext t.bits x) else x

/-- The window index of field D. -/
def destReg (c : Ctx) : Nat := match c.d with | .v i _ _ => i | _ => 0

/-- The operations of R136, and CAS (R137), on a location's value. -/
def atomValue (aop : Nat) (t : Ty) (m v w : Nat) : Nat :=
  let n := 2 ^ t.bits
  if aop = 0 then
    (if t = .f32 then (roundTo .f32 (vadd false (decodeF .f32 m) (decodeF .f32 v)).1 .rne).1 else (m + v) % n)
  else if aop = 1 then (if t = .f32 then pickOf false .f32 m v else if intVal t v < intVal t m then v % n else m)
  else if aop = 2 then (if t = .f32 then pickOf true .f32 m v else if intVal t m < intVal t v then v % n else m)
  else if aop = 3 then m &&& (v % n)
  else if aop = 4 then m ||| (v % n)
  else if aop = 5 then m ^^^ (v % n)
  else if aop = 6 then v % n
  else if aop = 7 then (if v % n ≤ m then 0 else m + 1)
  else if aop = 8 then (if m = 0 ∨ v % n < m then v % n else m - 1)
  else if m = v % n then w % n
  else m

/-- The operand, or the compare and the new value, that D gives an atomic in a lane (R130). -/
def atomOperands (c : Ctx) (cas : Bool) (l : Nat) : Nat × Nat :=
  let n := 2 ^ c.f.x.ty.bits
  if cas then (c.vd l % n % 2 ^ 64, c.vd l / n % 2 ^ 64) else (c.vd l % 2 ^ 64, c.vd l / 2 ^ 64 % 2 ^ 64)

/-- The lanes of a local atomic, one after another (R137): the state, and the registers written. -/
def atomLocal (c : Ctx) (aop : Nat) (cas red : Bool) (at' : Spots) : List Nat → State → State × List Eff
  | [], s => (s, [])
  | l :: rest, s =>
    let m := spotValue s (at' l) c.size
    let v := atomOperands c cas l
    let x := atomLocal c aop cas red at' rest (spotStore s (at' l) c.size (atomValue aop c.f.x.ty m v.1 v.2))
    (x.1, (if red then [] else vregEffs (destReg c) c.f.x.ty.words l m) ++ x.2)

/-- The bytes a lane stores. -/
def storedBytes (c : Ctx) (l : Nat) : List Byte := leBytes c.size (c.vd l % 2 ^ 128)

/-- The request for an atomic at one place: the lanes with that place, ascending (R137). -/
def atomRequest (c : Ctx) (as : List Acc) (aop : Nat) (pend : Option Nat) (a : Acc) : Req :=
  { core := c.blk.core, ref := c.r, pend := pend, line := a.place / 128, ns := a.ns, vi := c.blk.vi, tag := c.blk.tag
    tval := accessTval false a.lane a.addr.toNat
    kind := .atomic (a.place % 128) aop c.f.x.ty ((as.filter (fun x => x.place = a.place)).map (fun x => (x.lane, x.v, x.w)))
      c.fib.ptime pend.isSome
    raise := pend.isNone && c.f.x.order != .rlx }

/-- The first access of each place, in lane order. -/
def heads (as : List Acc) : List Acc :=
  as.foldl (fun seen a => if seen.any (fun x => x.place = a.place) then seen else seen ++ [a]) []

/-- TVAL of a refusal at a line's home: the lowest lane that named the line, and its address (R141). -/
def refusalTval (as : List Acc) (line : Nat) : Dword :=
  match as.find? (fun a => a.place / 128 = line) with
  | some a => accessTval false a.lane a.addr.toNat
  | none => 0

/-- The time at which a lane's load is performed: the fibre's, or the largest stamp of the dirty bytes it reads (R235). -/
def readTime (c : Ctx) (a : Acc) : Time :=
  match c.s.l1 a.core (l1Key (a.place / 128) a.ns) with
  | some l => if l.attr = .priv then c.fib.ptime else
      ((List.range c.size).filter (fun i => l.dirtyAt (a.place % 128 + i))).foldl
        (fun t i => tmax t (l.sec ((a.place % 128 + i) / 32)).age) c.fib.ptime
  | none => c.fib.ptime

/-- The lanes' accesses with the data of D. -/
def withOperands (c : Ctx) (cas : Bool) (as : List Acc) : List Acc :=
  as.map (fun a => { a with v := BitVec.ofNat 64 (atomOperands c cas a.lane).1, w := BitVec.ofNat 64 (atomOperands c cas a.lane).2 })

/-- The outstanding access of an instruction. -/
def outstanding (c : Ctx) (as : List Acc) (aop : Nat) (reqs : List Nat) : LoadOp :=
  { op := c.o, ty := c.f.x.ty, space := .global, order := c.f.x.order, scope := c.f.x.scope, lease := c.f.hnt.lease
    d := destReg c, accs := as, reqs := reqs, aop := aop, pc := c.pc }
/-- Its entry of the scoreboard (R58). -/
def outstandingPend (c : Ctx) (l : LoadOp) : Pend :=
  { fib := c.r.fib, dv := (List.range c.dw).map (fun k => (l.d + k, c.act)), entries := 1, since := c.s.now, body := .load l }

/-- Lanes of an atomic on a PRIVATE page, one after another at the level-one cache (R245): the state and the old values. -/
def atomPrivate (c : Ctx) (aop : Nat) : List Acc → State → State × List (Nat × Nat)
  | [], s => (s, [])
  | a :: rest, s =>
    let key := 2 * (a.place / 128) + (if a.ns then 1 else 0)
    let m := lineNat (((s.core a.core).l1.find key).getD {}).data (a.place % 128) c.size
    let bytes := (leBytes c.size (atomValue aop c.f.x.ty m a.v.toNat a.w.toNat)).zipIdx.map (fun e => (a.place % 128 + e.2, e.1))
    let x := atomPrivate c aop rest (s.dirty c.blk.core key .priv bytes (s.warp c.r.blk c.r.warp).slot c.fib.ptime false)
    (x.1, (a.lane, m) :: x.2)

/-- The level-one line of an access. -/
def lineOfAcc (s : State) (a : Acc) : Option L1Line := (s.core a.core).l1.find (2 * (a.place / 128) + (if a.ns then 1 else 0))

end Sys2Proof.Rules

/-- FENCE and PREF (R138, R139, R238): an acquire fence goes on with no load outstanding, the others after a release that waits
for nothing; PREF asks for the lines that are not there or on their way, once each, and never faults.
Where the spec leaves it open it rests on the model's choices of log 26, log 27. -/
def Obligations.FencesAndPrefetches : Prop :=
  ∀ f s c,
    (Ready .fence f s c → f.x.order = .acq → s.accessing c.r = false → exec (.fence f) s = .next (did c)) ∧
    (Ready .fence f s c → f.x.order ≠ .acq → s.memHeld c.r false = false → canRelease c f.x.scope →
      exec (.fence f) s = .next (didReleased c true)) ∧
    (Ready .pref f s c →
      let as := c.lanes.filterMap (fun l => match c.globalAcc Range.r 128 l with | .ok a => some a | .error _ => none)
      let lines := (as.map (fun a => (a.place / 128, a.ns))).eraseDups
      exec (.pref f) s = .next (lines.foldl (fun (t : State) k =>
        if (match t.l1 c.blk.core (l1Key k.1 k.2) with
              | some l => l.secs.any (fun e => e.2.valid) && within l.wt c.fib.ptime l.rt
              | none => false) ||
            t.reqs.any (fun e => e.2.core = c.blk.core && e.2.marked && e.2.line = k.1) then t
        else t.newReq { core := c.blk.core, ref := c.r, line := k.1, ns := k.2, vi := c.blk.vi, tag := c.blk.tag, marked := true
                        kind := .read c.fib.ptime f.hnt.lease false }) (did c)))

namespace Sys2Proof.Rules

/-! ## Engines -/

/-- The descriptor, image or map of `n` bytes at a VA is read at issue (R255, R261): reachable, a multiple of 32, nothing in
the way of the read at the fibre's time, no byte poisoned; `u` is the state that the read leaves, `bs` the bytes and `t` the largest time. -/
structure DescRead (c : Ctx) (va n : Nat) (u : State) (bs : List (Byte × Bool)) (t : Time) : Prop where
  reach : ∃ p, c.s.enginePieces c.blk 0 va 1 Range.r = .ok p
  aligned : va % 32 = 0
  run : ∃ ps, c.s.enginePieces c.blk 0 va n Range.r = .ok ps ∧ c.s.clearing c.blk.core c.fib.ptime ps false = none ∧
    c.s.readPieces c.blk.core c.fib.ptime ps = (u, bs, t)
  sound : bs.any Prod.snd = false

/-- The command a form issues (R251, R255): whose it is, its counter, its operands and what it read. -/
def issued (c : Ctx) (e : Engine) (a b x : Nat) (bs : List (Byte × Bool)) (t : Time) : Cmd :=
  { ref := c.r, engine := e, op := c.o, f := c.f, k := (match c.f.d with | .sp (.ctr n) => n.toNat | _ => 0), ti := c.fib.ptime
    vi := c.blk.vi, tag := c.blk.tag, ns := c.blk.ns, service := c.blk.service
    a := BitVec.ofNat 64 a, b := BitVec.ofNat 64 b, c := BitVec.ofNat 64 x, desc := bs.map Prod.fst, kt := t }

/-- The row index of each active lane. -/
def rowIndices (c : Ctx) : Map Word := c.lanes.map (fun l => (l, BitVec.ofNat 32 (c.vb l)))

/-- The words of a parameter group in B. -/
def paramWords (c : Ctx) (n : Nat) : List Word :=
  match c.b with
  | .u e _ _ => (List.range n).map (fun i => c.fib.ureg (e + i))
  | _ => []

/-- The member that the instruction itself is (R282, R287). -/
def selfMember (c : Ctx) (rows : Map (Word × Word)) : Member :=
  { warp := c.r.warp, rank := 0, k := (match c.f.d with | .sp (.ctr n) => n.toNat | _ => 0), active := c.act, rows := rows }

/-- A record of a named barrier after an arrival in the phase that is open or opens with it (R312, R314). -/
def barJoin (x : Bar) (sc : Scope) (cnt : Nat) (time : Time) (me : Nat) (drop : Bool) : Bar :=
  { x with
    scp := sc
    exp := cnt
    pmax := if x.scp = .none then time else tmax x.pmax time
    arr := if cnt = 0 then setAdd x.arr me else x.arr
    cnt := if cnt = 0 then x.cnt else x.cnt + 1
    drop := if drop then setAdd x.drop me else x.drop }
/-- The end of a phase (R312): PH counts it, LAST takes the largest arrival time. -/
def barTurn (x : Bar) : Bar := { ph := x.ph + 1, last := x.pmax, lscp := x.scp, drop := x.drop }

/-- The barrier that field A names. -/
def barOf (f : Ins) : Nat := match f.a with | .sp (.bar n) => n.toNat | _ => 0

/-- Is the arrival legal beside every arrival of its block that issued earlier, counted or not (R311)? -/
abbrev legalArrival (c : Ctx) (cnt : Nat) : Prop :=
  c.barIll (barOf c.f) cnt = false ∧ c.arriveIll (c.s.barAhead c.r.blk c.f.x.scope (barOf c.f)) cnt = false

/-- The arrival is legal and waits for nothing (R311, R312). -/
abbrev mayArrive (c : Ctx) (cnt : Nat) : Prop :=
  legalArrival c cnt ∧ c.arriveIll (c.s.bar c.r.blk c.f.x.scope (barOf c.f)) cnt = false ∧
  c.s.transfers c.r = [] ∧ canRelease c c.f.x.scope

/-- The arrival that is left to be counted: what it waits for are the release at its scope and the transfers under way (R312). -/
def leftToCount (c : Ctx) (cnt : Nat) (drop : Bool) : Arrival :=
  { sc := c.f.x.scope, n := barOf c.f, cnt := cnt, drop := drop, at' := c.s.now, cmds := c.s.transfers c.r }

/-- The state after the arrival itself: the record joined, and turned if the phase is then complete. -/
def afterArrival (c : Ctx) (cnt : Nat) (drop : Bool) : State :=
  let sc := c.f.x.scope
  let x := barJoin (c.s.bar c.r.blk sc (barOf c.f)) sc cnt (c.fib.k.foldl (fun t e => tmax t e.2.kt) c.fib.ptime)
    (64 * c.r.blk + 4 * c.r.warp + c.r.fib) drop
  (c.s.modFib c.r (fun y => { y with relw := y.ptime })).setBar c.r.blk sc (barOf c.f)
    (if c.s.barComplete c.r.blk sc x then barTurn x else x)

end Sys2Proof.Rules

/-- Commands of the copy, gather and chain engines and pushes (R251, R254, R255, R260 to R268, R329): the instruction retires
with the command accepted, its descriptor as read and its regions recorded; its counter then counts one more.
Where the spec leaves it open it rests on the model's choices of log 13, log 74, log 75. -/
def Obligations.EngineCommands : Prop :=
  (∀ (s : State) (m : Cmd), s.hasFib m.ref = true →
    let t := s.accept m
    let core := (s.block m.ref.blk).core
    (t.fib m.ref).ctr m.k = { (s.fib m.ref).ctr m.k with val := ((s.fib m.ref).ctr m.k).val + 1 } ∧
    (t.core core).cmds.find (s.core core).nextCmd = some m ∧ (t.core core).nextCmd = (s.core core).nextCmd + 1 ∧
    ∀ id, id ≠ (s.core core).nextCmd → (t.core core).cmds.find id = (s.core core).cmds.find id) ∧
  ∀ f s c u bs t,
    (Ready .cpy f s c → c.mayCommand .copy = true → DescRead c (c.va 0) 64 u bs t →
      let m := issued c .copy (c.va 0) (c.vb 0) (c.vc 0) bs t
      let d := copyDesc m.desc
      exec (.cpy f) s = .next ((c.retire u).accept
        (if copyCheck .cpy d (sext 64 m.b.toNat) (sext 64 m.c.toNat) = 0
          then { m with reads := (copyRegions c.blk m d).1, writes := (copyRegions c.blk m d).2 } else m))) ∧
    (∀ o ∈ [Op.gath, .scat], Ready o f s c → c.poisoned = false → c.mayCommand .copy = true → DescRead c (c.va 0) 64 u bs t →
      let m := { issued c .copy (c.va 0) 0 (c.vc 0) bs t with lanes := rowIndices c }
      let d := copyDesc m.desc
      exec (o.instr f) s = .next ((c.retire u).accept
        (if copyCheck o d 0 0 = 0
          then { m with reads := (copyRegions c.blk m d).1, writes := (copyRegions c.blk m d).2 } else m))) ∧
    (Ready .chain f s c → c.mayCommand .chain = true → DescRead c (c.va 0) 192 u bs t →
      let m := issued c .chain (c.va 0) (c.vb 0) (c.vc 0) bs t
      let d := chainDesc m.desc
      let m := { m with tables := (d.ops.zipIdx.filter (fun e => e.1.1 = 8)).map (fun e => (e.2, s.tableOf c.r.blk e.1.2.1)) }
      exec (.chain f) s = .next ((c.retire u).accept
        (if chainCheck d (sext 64 m.b.toNat) (sext 64 m.c.toNat) = 0
          then { m with reads := (chainRegions c.blk m d).1, writes := (chainRegions c.blk m d).2 } else m))) ∧
    (∀ o ∈ [Op.cpyr, .cpym], Ready o f s c → c.mayCommand .copy = true → DescRead c (c.va 0) 64 u bs t →
      let m := issued c .copy (c.va 0) (c.vb 0) (c.vc 0) bs t
      let d := copyDesc m.desc
      exec (o.instr f) s = .next ((c.retire u).accept
        (if pushCheck m d c.blk.csize = 0 then { m with reads := (copyRegions c.blk { m with c := 0 } { d with ds := 0 }).1 } else m)))

/-- Table and codebook slots (R118, R124, R261, R269 to R271): TBLLD and CBLD take a slot that is free or their own and issue
the command; of a global codebook image the new entries are known at issue; TBLSWP exchanges the live and the shadow table.
Where the spec leaves it open it rests on the model's choices of log 13. -/
def Obligations.TableSlots : Prop :=
  ∀ f s c,
    (Ready .tblld f s c → c.mayCommand .copy = true →
      let k := tabSlot f.b
      let take (t : State) := t.modCore c.blk.core (fun x => { x with tabOwner := x.tabOwner.set k c.r.blk })
      (∀ b, (s.core c.blk.core).tabOwner.find k = some b → b = c.r.blk) →
      (f.x.fn = 1 → c.va 0 + 2080 ≤ c.blk.sspan → c.va 0 % 32 = 0 →
        exec (.tblld f) s = .next ((take (did c)).accept { issued c .copy (c.va 0) 0 0 [] 0 with
          writes := [.atab k], reads := c.blk.regionOf 1 (c.va 0) (c.va 0 + 2080) })) ∧
      (∀ u bs t, f.x.fn ≠ 1 → DescRead c (c.va 0) 2080 u bs t →
        exec (.tblld f) s = .next ((take (c.retire u)).accept { issued c .copy (c.va 0) 0 0 bs t with writes := [.atab k] }))) ∧
    (Ready .cbld f s c → c.mayCommand .copy = true →
      let k := bookSlot f.b
      let take (t : State) := t.modCore c.blk.core (fun x => { x with bookOwner := x.bookOwner.set k c.r.blk })
      (∀ b, (s.core c.blk.core).bookOwner.find k = some b → b = c.r.blk) →
      (f.x.fn = 1 → c.va 0 + 32 ≤ c.blk.sspan → c.va 0 % 32 = 0 →
        exec (.cbld f) s = .next ((take (did c)).accept { issued c .copy (c.va 0) 0 0 [] 0 with
          writes := [.book k], reads := c.blk.regionOf 1 (c.va 0) (c.va 0 + 32) })) ∧
      (∀ u bs t, f.x.fn ≠ 1 → DescRead c (c.va 0) 32 u bs t →
        exec (.cbld f) s = .next ((take (c.retire u)).accept { issued c .copy (c.va 0) 0 0 bs t with
          writes := [.book k], image := some (k, BitVec.ofNat 16640 (leNat (bs.map Prod.fst))) }))) ∧
    (Ready .tblswp f s c →
      let k := tabSlot f.b
      ((s.core c.blk.core).tabOwner.find k ≠ some c.r.blk → exec (.tblswp f) s =
        .next (s.raise c.r cILL (Op.tblswp.code.setWidth 64) c.pc c.path false 0)) ∧
      ((s.core c.blk.core).tabOwner.find k = some c.r.blk →
        (s.core c.blk.core).cmds.any (fun e => e.2.op == .tblld && tabSlot e.2.f.b == k) = false →
        exec (.tblswp f) s = .next ((did c).modCore c.blk.core (fun x =>
          { x with tabs := x.tabs.set k ((x.tabs.get k (0, 0)).2, (x.tabs.get k (0, 0)).1) }))))

namespace Sys2Proof.Rules

/-! ## The cluster and the die -/

/-- The rank and the scratchpad offset that a lane of REDR names (R328, R335), and whether they are admitted. -/
def remoteRank (c : Ctx) (l : Nat) : Nat := (laneAddr c false l / 2 ^ 21).toNat
/-- The offset in that member's scratchpad. -/
def remoteOff (c : Ctx) (l : Nat) : Nat := (laneAddr c false l % 2 ^ 21).toNat
/-- May the lane's address be used? -/
def remoteOk (c : Ctx) (l : Nat) : Bool :=
  decide (0 ≤ laneAddr c false l) && decide (laneAddr c false l < 2 ^ 24) && decide (remoteRank c l < c.blk.csize) &&
    decide (remoteOff c l + c.size ≤ c.blk.sspan)

/-- The member of the issuing block's cluster that may still receive (R327, R333). -/
def remoteMember (c : Ctx) (rank : Nat) : Option (Nat × Block) :=
  (c.s.member c.blk rank).bind (fun e => if e.2.st == .resident && !e.2.ending && !e.2.failed then some e else none)

/-- Distinct addresses of the lanes of REDR, in lane order. -/
def remoteSpots (c : Ctx) : List (Nat × Nat) := (c.lanes.map (fun l => (remoteRank c l, remoteOff c l))).eraseDups

/-- The word `i` of the parameter group in B. -/
def paramWord (c : Ctx) (i : Nat) : Nat := ((paramWords c 16).getD i 0).toNat

/-- The kick-queue record of a core. -/
def kickOf (s : State) (core q : Nat) : KickQ := (s.core core).kicks.get q {}
/-- The record replaced. -/
def setKick (s : State) (core q : Nat) (x : KickQ) : State := s.modCore core (fun y => { y with kicks := y.kicks.set q x })

/-- The counter of a fibre that lands a notice: one less, and its time (R355). -/
def landCounter (s : State) (r : FRef) (k : Nat) (t : Time) : State :=
  s.modFib r (fun f => { f with k := f.k.set k { f.ctr k with val := (f.ctr k).val - 1, kt := tmax (f.ctr k).kt t } })

/-- The header of a landed notice (R353). -/
def landHeader (n : Notice) (status seq : Nat) : List Byte :=
  leBytes 4 n.len ++ leBytes 4 n.uword.toNat ++ [BitVec.ofNat 8 (n.core / 33), BitVec.ofNat 8 (n.core % 33)] ++ leBytes 2 n.tag.toNat ++
    leBytes 4 status ++ leBytes 4 seq ++ leBytes 12 0

end Sys2Proof.Rules

namespace Sys2Proof.Rules

/-! ## Homes, requests, memory and time -/

/-- The request `q`, by its number, is one that its home slice can perform now: it holds a permit and has no reply, no earlier
message of its die on the line is on the way, the line has a copy `h` there, sectors it had dropped fetched again, no flip of the
page is under way, its entry is sound, and the page admits the requester (R246, R342, R343, R349, R363, R370, R371, R385, R420). -/
structure AtHome (s : State) (id : Nat) (q : Req) (h : Home) : Prop where
  request : s.reqs.find id = some q
  open' : q.reply = none
  permit : s.permitted id q = true
  turn : s.behind id q = false
  copy : ∃ x, s.homes.find q.line = some x ∧ h = s.whole x
  still : s.flipping (q.line * 128) = false
  sound : s.brokenPage (q.line * 128) = false
  slice : isIdentity (q.line * 128) = false ∧ isHostWindow (q.line * 128) = false
  world : (s.block q.ref.blk).ns = true → h.ns = true
  owner : h.attr = .priv → s.owners.get (q.line / 512) 0 = q.core

/-- Does the request pass the requester-side slice of another die (R346)? -/
def comesFar (s : State) (q : Req) (h : Home) : Bool :=
  decide ((s.home (q.line * 128)).1 ≠ q.core / 33) && h.attr == .leased

/-- The lease length and the predictor after a grant (R345). -/
def leaseRule (hint : Lease) (attr : Attr) (c : BitVec 2) : Nat × BitVec 2 :=
  if attr = .manual then (1, c)
  else if hint = .predicted then
    (if c = 0 then (16, 1) else if c = 1 then (64, 2) else if c = 2 then (256, 3) else (1024, 3))
  else if hint = .short then (16, c)
  else if hint = .long then (4095, c)
  else (1, c)

/-- A time at or above H + 2^29 asks for a horizon step (R380). -/
def noted (s : State) (t : Time) : State := { s with stepReq := s.stepReq || tle (s.h + 0x20000000) t }
/-- A time from H + 2^31 − 2^28 on is not made (R380). -/
abbrev roomFor (s : State) (t : Time) : Prop := tle (s.h + 0x70000000) t = false

/-- The requests with one changed. -/
def withReq (s : State) (id : Nat) (q : Req) : State := { s with reqs := s.reqs.set id q }
/-- A request answered: its reply leaves after those before it (R350, R363). -/
def answered (s : State) (id : Nat) (q : Req) (x : Reply) : State :=
  { s with reqs := s.reqs.set id { q with reply := some { x with at' := s.nextReply } }, nextReply := s.nextReply + 1 }
/-- A request gone, and the permit it held taken by the next that waits for it, which is sent (R349, R350). -/
def ended (s : State) (id : Nat) : State :=
  let s := { s with reqs := s.reqs.erase id }
  { s with reqs := s.reqs.map (fun e => (e.1, if e.2.sends = 0 && s.permitted e.1 e.2 then { e.2 with sends := 1, sentAt := s.now } else e.2)) }
/-- A home copy replaced. -/
def withHome (s : State) (line : Nat) (h : Home) : State := { s with homes := s.homes.set line h }

/-- A slice is reported unreachable: every service core is told (R350). -/
def unreachableSlice (s : State) (line : Nat) : State :=
  { s with
    unreachable := s.home (line * 128) :: s.unreachable
    cores := s.cores.map (fun e => (e.1, if e.1 % 33 = 32 then { e.2 with latch := true } else e.2)) }

/-- The sectors of a line with a property. -/
def fourSectors (p : Nat → Bool) : BitVec 4 :=
  (if p 0 then 1 else 0) ||| (if p 1 then 2 else 0) ||| (if p 2 then 4 else 0) ||| (if p 3 then 8 else 0)
/-- The sectors that bytes by offset touch. -/
def sectorsOf (bytes : List (Nat × Byte)) : BitVec 4 := fourSectors (fun k => bytes.any (fun e => e.1 / 32 = k))
/-- Poison after a write (R386): a poisoned write poisons its sectors, a clean one of all 32 bytes clears, one of fewer keeps. -/
def poisonRule (p : BitVec 4) (bytes : List (Nat × Byte)) (bad : Bool) : BitVec 4 :=
  fourSectors (fun k =>
    if bytes.any (fun e => e.1 / 32 = k) then
      bad || (p.getLsbD k && !(List.range 32).all (fun i => bytes.any (fun e => e.1 = 32 * k + i)))
    else p.getLsbD k)

/-- The lanes of one request on a location, one after another (R137): its last value, and each lane's old value. -/
def atomRun (aop : Nat) (t : Ty) : Nat → List (Nat × Dword × Dword) → Nat × List (Nat × Dword)
  | m, [] => (m, [])
  | m, e :: rest =>
    let x := atomRun aop t (atomValue aop t m e.2.1.toNat e.2.2.toNat) rest
    (x.1, (e.1, BitVec.ofNat 64 m) :: x.2)

/-- A dirty sector as its write-back takes it along (R233): the sector left, and the request. -/
def sectorGoes (x : Sector) : Sector :=
  { x with wb := x.dirty, wbSlots := x.slots, wbStamp := x.stamp, dirty := 0, slots := 0, stamp := 0 }

/-- A leaf entry kept in its chiplet's cache of 2,048 (R370). -/
def leafKept (s : State) (ia : Nat) (l : Leaf) : State :=
  s.modChiplet (s.chipletOf ia) (fun x => { x with tlb := l :: (x.tlb.filter (fun k => !k.covers ia)).take 2047 })

/-- The chiplet's time after it takes a line (R378). -/
def chipletTime (s : State) (c : Nat) (t : Time) : State := s.modChiplet c (fun x => { x with mtime := tmax x.mtime t })

/-- A raise to the threshold of a sweep (R381). -/
def atLeast (q t : Time) : Time := if precedes t q then q else t

end Sys2Proof.Rules

/-- Operations at the home of a line (R230, R240, R344 to R347, R358, R386): a grant extends the lease by the table of R345; one
to another die goes into a requester-side copy there, an ordered one only over a copy that is present, and sets its presence bit; a write or an atomic makes a version at a time past
every lease, marks the sectors dirty, and wakes; a registration takes one of 4,096 lines. -/
def Obligations.HomeOperations : Prop :=
  ∀ s q h, AtHome s s.arg.id q h →
    (∀ t lease ordered, q.kind = .read t lease ordered → (comesFar s q h = true → q.fwd = true ∨ ordered = true) →
      let x := leaseRule lease h.attr h.c
      let rt := tmax h.rt (tmax t h.wt + BitVec.ofNat 64 (x.1 - 1))
      roomFor s rt →
      let v : Ver := { data := h.data, wt := h.wt, rt := rt, poison := h.poison }
      let keep := comesFar s q h && (!ordered || ((s.die (q.core / 33)).copies.find q.line).isSome)
      let u := withHome (noted s rt) q.line
        { h with rt := rt, c := x.2, used := s.now, pres := if keep then setBit h.pres (q.core / 33) true else h.pres }
      let u := if keep then u.setCopy (q.core / 33) q.line v else u
      exec .homeGrant s = .next (answered u s.arg.id q { ver := v, attr := h.attr })) ∧
    (∀ bytes stamp wb bad, q.kind = .write bytes stamp wb bad → s.bridge.filter.contains q.line = false →
      roomFor s (tmax stamp (h.rt + 1)) →
      let w := tmax stamp (h.rt + 1)
      let v : Ver := { data := lineMerge h.data bytes, wt := w, rt := w, poison := poisonRule h.poison bytes bad }
      let u := withHome (noted s w) q.line { h with
        data := v.data, poison := v.poison, wt := w, rt := w, c := 0, used := s.now, dirty := h.dirty ||| sectorsOf bytes }
      exec .homeWrite s = .next (answered (u.wakeLine q.line .write) s.arg.id q { ver := v, attr := h.attr, t := w })) ∧
    (∀ off aop ty lanes t ret, q.kind = .atomic off aop ty lanes t ret → q.bad = false → s.bridge.filter.contains q.line = false →
      roomFor s (tmax t (h.rt + 1)) →
      (∀ l, s.l1 q.core (2 * q.line + (if q.ns then 1 else 0)) = some l → (l.sec (off / 32)).mine = 0) →
      (h.poison.getLsbD (off / 32) = true → exec .homeAtomic s = .next (answered s s.arg.id q
        { ver := h.ver, attr := h.attr, t := h.wt, olds := lanes.map (fun e => (e.1, 0)), poisoned := true })) ∧
      (h.poison.getLsbD (off / 32) = false →
        let w := tmax t (h.rt + 1)
        let x := atomRun aop ty (lineNat h.data off ty.bytes) lanes
        let v : Ver := { data := lineMerge h.data ((leBytes ty.bytes x.1).zipIdx.map (fun e => (off + e.2, e.1))),
                         wt := w, rt := w, poison := h.poison }
        let u := withHome (noted s w) q.line
          { h with data := v.data, wt := w, rt := w, c := 0, used := s.now, dirty := h.dirty ||| (1#4 <<< (off / 32)) }
        exec .homeAtomic s = .next (answered (u.wakeLine q.line .write) s.arg.id q
          { ver := v, attr := h.attr, t := w, olds := x.2 }))) ∧
    (q.kind = .register →
      let d := (s.home (q.line * 128)).1
      let l := (s.die d).waits.get q.line []
      let room := decide (l ≠ []) || decide (((s.die d).waits.filter (fun e => !e.2.isEmpty)).length < 4096)
      let u := if room && !l.contains (.fibre q.ref q.core)
        then s.modDie d (fun x => { x with waits := x.waits.set q.line (.fibre q.ref q.core :: l) }) else s
      exec .waitRegistration s = .next (answered u s.arg.id q { ok := room }))

/-- Requests on their way (R232 to R236, R245, R346, R350): a read is answered by a copy of the die whose interval holds its
time, or goes on; a copy may be dropped; a reply that no earlier one holds back returns the permit and reaches what asked; a message may be
lost; 50 μs after the last send a request is sent again, five times in all, and then fails, the slice being reported, and so with those of an
engine command (log 36); an eviction writes a dirty sector back and drops a clean one.
Where the spec leaves it open it rests on the model's choices of log 32, log 62. -/
def Obligations.RequestsUnderWay : Prop :=
  ∀ s : State,
    (∀ q t lease ordered, s.reqs.find s.arg.id = some q → q.kind = .read t lease ordered → q.reply = none → q.fwd = false → q.lost = false →
      s.permitted s.arg.id q = true → s.farLine (q.core / 33) q.line = true →
      let hit := (s.die (q.core / 33)).copies.find q.line
      (∀ c, hit = some c → ordered = false → within c.ver.wt t c.ver.rt = true → exec .requesterSideRead s =
        .next (answered (s.modDie (q.core / 33) (fun d => { d with copies := d.copies.set q.line { c with valid := 15, used := s.now } }))
          s.arg.id q { ver := c.ver, attr := .leased, side := true })) ∧
      (hit = none ∨ ordered = true ∨ (∃ c, hit = some c ∧ within c.ver.wt t c.ver.rt = false) → exec .requesterSideRead s =
        .next (withReq s s.arg.id { q with fwd := true }))) ∧
    (∀ d line v,
      (∀ c, (s.die d).copies.find line = some c → s.setCopy d line v =
        s.modDie d (fun x => { x with copies := x.copies.set line { c with ver := v, valid := 15, used := s.now } })) ∧
      ((s.die d).copies.find line = none → s.setFull (d, bucket (line * 128) % 16) line = false → s.setCopy d line v =
        s.modDie d (fun x => { x with copies := x.copies.set line { ver := v, used := s.now } }))) ∧
    exec .requesterSideDrop s = .next (s.modDie s.arg.die (fun d => { d with copies := d.copies.erase s.arg.line })) ∧
    (∀ q x t lease ordered, s.reqs.find s.arg.id = some q → q.reply = some x → q.kind = .read t lease ordered → x.ok = true →
      q.marked = false → q.lost = false → s.replyBehind s.arg.id q x = false → (s.fib q.ref).waitaFor s.arg.id = none →
      let key := 2 * q.line + (if q.ns then 1 else 0)
      let u := ended s s.arg.id
      let u := if x.attr = .manual ∨ lease = .noAlloc ∨ s.older q.core key x.ver = true then u
        else u.setL1 q.core key (((s.l1 q.core key).getD {}).install x.ver x.attr)
      x.attr ≠ .priv → exec .requestReply s = .next (match q.pend with
        | some p => u.modLoad q.ref p (fun l => { l with reqs := l.reqs.filter (· ≠ s.arg.id), got := l.got.set key x.ver })
        | none => u)) ∧
    (∀ q, s.reqs.find s.arg.id = some q → s.arg.engine = false → s.arg.flag = true →
      exec .requestTimer s = .next (withReq s s.arg.id { q with lost := decide (0 < q.sends) })) ∧
    (∀ m, (s.core s.arg.core).cmds.find s.arg.id = some m → s.arg.engine = true →
      let k := 16 * (s.home (s.arg.line * 128)).1 + (s.home (s.arg.line * 128)).2
      let put (x : Cmd) (t : State) : State := t.modCore s.arg.core (fun c => { c with cmds := c.cmds.set s.arg.id x })
      (m.tries.find k = none → exec .requestTimer s = .next (put { m with tries := m.tries.set k (1, s.now) } s)) ∧
      (∀ n t, m.tries.find k = some (n, t) → n < 5 → t + 50 * 700 ≤ s.now →
        exec .requestTimer s = .next (put { m with tries := m.tries.set k (n + 1, s.now) } s)) ∧
      (∀ t, m.tries.find k = some (5, t) → t + 50 * 700 ≤ s.now → m.started = true →
        exec .requestTimer s = .next ((unreachableSlice (put { m with tries := m.tries.erase k } s) s.arg.line).startPurge m.vi m.tag 2 0))) ∧
    (∀ q, s.reqs.find s.arg.id = some q → s.arg.engine = false → s.arg.flag = false → q.sentAt + 50 * 700 ≤ s.now → q.sends ≠ 0 →
      (q.sends < 5 → exec .requestTimer s = .next { withReq s s.arg.id { q with
          sends := q.sends + 1, sentAt := s.now, lost := false, reply := q.reply.map (fun x => { x with at' := s.nextReply }) } with
        nextReply := s.nextReply + 1 }) ∧
      (5 ≤ q.sends → ∀ t lease ordered, q.kind = .read t lease ordered → (s.fib q.ref).waitaFor s.arg.id = none →
        let u := unreachableSlice (ended s s.arg.id) q.line
        exec .requestTimer s = .next (match q.pend with
          | some p => u.modLoad q.ref p (fun l => { l with reqs := l.reqs.filter (· ≠ s.arg.id), failed := true })
          | none => u)) ∧
      (5 ≤ q.sends → ∀ bytes stamp bad, q.kind = .write bytes stamp none bad → exec .requestTimer s =
        .next ((unreachableSlice (ended s s.arg.id) q.line).startPurge q.vi q.tag 2 0))) ∧
    (∀ l, let key := 2 * s.arg.line + (if s.arg.flag then 1 else 0)
      s.l1 s.arg.core key = some l →
      let k := s.arg.sector % 4
      let x := l.sec k
      (x.dirty = 0 → x.wb = 0 → exec .l1Eviction s =
        .next (s.setL1 s.arg.core key (l.setSec k { x with valid := false, poison := false }))) ∧
      (x.dirty ≠ 0 → x.wb = 0 → ∀ n b, s.slotBlock s.arg.core x.slots = some (n, b) →
        exec .l1Eviction s = .next ((s.setL1 s.arg.core key (l.setSec k (sectorGoes x))).newReq
          { core := s.arg.core, ref := ⟨n, 0, 0⟩, line := s.arg.line, ns := s.arg.flag, vi := b.vi, tag := b.tag
            kind := .write (((List.range 32).filter (fun i => x.dirty.getLsbD i)).map (fun i =>
              (32 * k + i, lineByte l.data (32 * k + i)))) x.stamp (some k) x.dpoison })))

/-- Home copies and memory (R348, R364, R370, R378, R379): a copy that nothing pins leaves for its chiplet with its dirty
sectors and its rtime, where no requester-side copy of its set may go first and no home copy that may was used less recently; the chiplet takes them with its mtime raised, or first reports a time too far past the last beacon;
a line comes in at the later of mtime and H − 2^30, of the identity window or through a page's leaf entry; a walk keeps the leaf it finds, and
its reads take the homes' MANUAL copies of the entries (log 12).
Where the spec leaves it open it rests on the model's choices of log 62, log 81. -/
def Obligations.HomesAndMemory : Prop :=
  ∀ s : State,
    (∀ h, s.homes.find s.arg.line = some h →
      ((∀ c ∈ s.cores, (∀ m ∈ c.2.cmds, m.2.started = true → m.2.pinned.contains s.arg.line = false) ∧
          ∀ k ∈ c.2.kicks, ∀ x, k.2.landing = some x → x.lines.contains s.arg.line = false) →
        exec .fillPinRelease s = .next { withHome s s.arg.line { h with pins := 0 } with
          dies := s.dies.map (fun e => (e.1, match e.2.copies.find s.arg.line with
            | some c => { e.2 with copies := e.2.copies.set s.arg.line { c with pins := 0 } }
            | none => e.2)) }) ∧
      (h.pins = 0 → (∀ e ∈ (s.setMates (s.home (s.arg.line * 128)) s.arg.line).2, e.2.pins ≠ 0) →
        (∀ e ∈ (s.setMates (s.home (s.arg.line * 128)) s.arg.line).1, e.2.pins = 0 → h.used ≤ e.2.used) → exec .l2Eviction s = .next { s with
        homes := s.homes.erase s.arg.line
        evicts := s.evicts.set s.nextEv
          { line := s.arg.line, pa := h.pa, data := h.data, dirty := h.dirty, poison := h.poison, rt := h.rt }
        nextEv := s.nextEv + 1 })) ∧
    (∀ e, s.evicts.find s.arg.id = some e →
      let c := s.chipletOf e.pa
      let far := !tle e.rt ((s.chiplet c).seen + 0x80000)
      (far = true → exec .memoryWriteback s = .next (s.modChiplet c (fun x => { x with reporting := true }))) ∧
      (far = false → ∃ mem pois, exec .memoryWriteback s =
          .next (chipletTime { s with evicts := s.evicts.erase s.arg.id, mem := mem, memPoison := pois } c e.rt) ∧
        (∀ a, mem.read a = if e.pa ≤ a ∧ a < e.pa + 128 ∧ e.dirty.getLsbD ((a - e.pa) / 32) = true
          then lineByte e.data (a - e.pa) else s.mem.read a) ∧
        (e.pa % 128 = 0 → ∀ n, pois.contains n = if e.pa / 32 ≤ n ∧ n < e.pa / 32 + 4 ∧ e.dirty.getLsbD (n - e.pa / 32) = true
          then e.poison.getLsbD (n - e.pa / 32) else s.memPoison.contains n))) ∧
    (let line := s.arg.line
     s.homes.find line = none → (∀ e ∈ s.evicts, e.2.line ≠ line) → isIdentity (line * 128) = true →
      line * 128 % 2 ^ 44 / 2 ^ 18 < s.groups → s.setFull (s.home (line * 128)) line = false →
      let pa := line * 128 % 2 ^ 44
      let t := tmax (s.chiplet (s.chipletOf pa)).mtime (s.h - 0x40000000)
      exec .memoryFill s = .next (withHome s line {
        data := lineOf (s.mem.bytes pa 128)
        poison := fourSectors (fun k => s.memPoison.contains (pa / 32 + k))
        wt := t, rt := t, attr := .manual, ns := false, pa := pa, owner := s.owners.get (line * 128 / 2 ^ 16) 0
        used := s.now })) ∧
    (∀ l, let line := s.arg.line
      s.homes.find line = none → (∀ e ∈ s.evicts, e.2.line ≠ line) → isIdentity (line * 128) = false → isHostWindow (line * 128) = false →
      s.translate (line * 128) = .ok l → l.bias = false → s.setFull (s.home (line * 128)) line = false →
      let u := if (s.chiplet (s.chipletOf (line * 128))).tlb.any (fun k => k.covers (line * 128)) then s else s.walked (line * 128)
      let u := leafKept u (line * 128) l
      let pa := l.frame * 2 ^ 16 + (line * 128 - l.page * 2 ^ 16)
      let t := tmax (u.chiplet (u.chipletOf pa)).mtime (u.h - 0x40000000)
      let h : Home := {
        data := lineOf (u.mem.bytes pa 128)
        poison := fourSectors (fun k => u.memPoison.contains (pa / 32 + k))
        wt := t, rt := t, attr := l.attr, ns := l.ns, pa := pa, owner := u.owners.get (line / 512) 0
        used := u.now }
      let v := withHome u line h
      (v.brokenPage (line * 128) = false → exec .memoryFill s = .next v) ∧
      (v.brokenPage (line * 128) = true → exec .memoryFill s = .next { withHome v line (h.freed v.free) with free := v.free + 128 })) ∧
    (s.homes.find s.arg.line = none → s.hasRoom (s.home (s.arg.line * 128)) s.arg.line = false → exec .memoryFill s = .next s) ∧
    (∀ h, s.homes.find s.arg.line = some h → s.brokenPage (s.arg.line * 128) = false → exec .memoryFill s = .next s) ∧
    (∀ l, let ia := s.arg.ia
      s.chipletOf ia = s.arg.chiplet → isIdentity ia = false → isMapIa ia = false → s.translate ia = .ok l →
      exec .translationWalk s = .next (leafKept
        (if (s.chiplet s.arg.chiplet).tlb.any (fun k => k.covers ia) then s else s.walked ia) ia l))

namespace Sys2Proof.Rules

/-! ## Fibres between issues, faults, and commands on their way -/

/-- The word at `pc` can be fetched for block `b` (R42, R127): each of its bytes lies in a range with X, in a world the block may
use and on a page that is there, at the internal address `ia`; its home has it, and it is not poisoned. -/
def CodeAt (s : State) (b : Block) (pc : VA) (ia : Nat → Nat) : Prop :=
  ∀ i < 12, pc.toNat + i < 2 ^ 57 ∧
    (∃ g, vaRange b (pc.toNat + i) = some g ∧ g.x = true ∧ (g.ns = true ∨ b.ns = false) ∧
      ia i = g.iabase + (pc.toNat + i - g.vabase)) ∧
    (∃ a, s.pageOf b (ia i) = .ok a) ∧ s.homeReady (ia i / 128) false = true ∧ s.iaPoison (ia i) = false

/-- The word those bytes make, little-endian (R6, R40). -/
def codeWord (s : State) (ia : Nat → Nat) : BitVec 96 :=
  BitVec.ofNat 96 (leNat ((List.range 12).map (fun i => s.iaByte (ia i))))

/-- The side-path buffer takes a word (R149). -/
def keepsWord (s : State) (r : FRef) (pc : VA) (w : BitVec 96) : State :=
  s.modWarp r.blk r.warp (fun x => { x with side := ((pc, w) :: x.side).take 48 })

/-- A fault raised on a fibre between its issues: a stall or a wait is given up (R317). -/
def between (s : State) (r : FRef) (cls : Nat) (val : Dword) : State :=
  let pc := (s.fib r).pcs.headD 0
  (s.raise r cls val pc ((s.fib r).path pc) false 0).modFib r (fun f =>
    { f with stall := none, st := if f.st = .barrierWait ∨ f.st = .waiting then .ready else f.st })

/-- The record of a fault (R171). -/
def recordOf (s : State) (r : FRef) (rc fc : Nat) (val : Dword) (pc : VA) (lanes : LaneSet) : FaultRec :=
  { pc := pc, tval := val, rc := BitVec.ofNat 4 rc, fc := BitVec.ofNat 4 fc, warp := BitVec.ofNat 4 r.warp, fib := BitVec.ofNat 2 r.fib
    trap := (s.fib r).trap, resumable := decide (rc ≠ 11), tag := (s.block r.blk).tag, core := (s.block r.blk).core % 33
    socket := (s.block r.blk).core / 33, lanes := lanes }

/-- The slot's scoreboard without an entry. -/
def unpend (s : State) (r : FRef) (id : Nat) : State :=
  s.modWarp r.blk r.warp (fun w => { w with pend := w.pend.erase id })

/-- The bytes of a span of scratchpad. -/
def scratchBytes (s : State) (core a n : Nat) : List Byte := (s.core core).uni.bytes a n

/-- The rows of a copy, one after another (R255, R264): read at a time not before the command's, or the fill pattern; what each lays over
its destination; and the largest time. -/
def copyReads (core : Nat) (ti : Time) (fill : Option (List Byte)) : List (List Piece × List Piece) → State → Time → State × List WriteRun × Time
  | [], s, t => (s, [], t)
  | r :: rest, s, t =>
    let x := match fill with
      | some bs => (s, bs.map (fun b => (b, false)), t)
      | none => s.readPieces core ti r.1
    let y := copyReads core ti fill rest x.1 (tmax t x.2.2)
    (y.1, layRuns r.2 x.2.1 ++ y.2.1, y.2.2)

/-- The fill pattern of R262: the low 32 bits of the source address, over and over. -/
def fillBytes (m : Cmd) (d : CopyDesc) : Option (List Byte) :=
  if d.ss = 4 then some ((List.range d.len).map (fun i => (leBytes 4 (wrapTo 32 ((d.sa : Int) + sext 64 m.b.toNat))).getD (i % 4) 0)) else none

/-- One HomeWrite of the bytes that a command has for a sector, later runs over earlier (R255). -/
def sectorWrite (s : State) (m : Cmd) (rs : List WriteRun) : State × Time :=
  match rs with
  | [] => (s, 0)
  | r :: _ =>
    let core := (s.block m.ref.blk).core
    let x := (s.countSeqs core [r.addr / 128]).homeWrite (r.addr / 128)
      (rs.flatMap (fun r => r.bytes.zipIdx.map (fun e => (r.addr % 128 + e.2, e.1)))) m.ti
      (rs.any (fun r => r.poison) || m.badData.contains (r.addr / 32)) (m.vi, m.tag)
    (x.1.wroteBack core (2 * (r.addr / 128) + (if r.ns then 1 else 0)) none x.2, x.2.wt)

/-- What a command writes: its bytes of the stores, of PRIVATE pages in the level-one cache, and each other sector of global memory at its
home; and the largest time made (R255). -/
def runsWritten (s : State) (m : Cmd) (runs : List WriteRun) : State × Time :=
  let timed (r : WriteRun) : Bool := r.kind == 0 && r.attr != .priv
  let u := (runs.filter (fun r => !timed r)).foldl (fun t r => if r.kind = 0
    then t.dirty (t.block m.ref.blk).core (2 * (r.addr / 128) + (if r.ns then 1 else 0)) .priv (r.bytes.zipIdx.map (fun e => (r.addr % 128 + e.2, e.1)))
      (t.warp m.ref.blk m.ref.warp).slot m.ti r.poison
    else t.storeWrite r.core r.addr (r.kind == 2) r.bytes r.poison) s
  let far := runs.filter timed
  ((far.map (fun r => (r.addr / 32, r.ns))).eraseDups).foldl (fun acc k =>
    let y := sectorWrite acc.1 m (far.filter (fun r => (r.addr / 32, r.ns) == k))
    (y.1, tmax acc.2 y.2)) (u, m.kt)

/-- A table or codebook slot takes a command's image (R270): a table's shadow, a codebook. -/
def imagePut (s : State) (core : Nat) (m : Cmd) : State :=
  match m.image with
  | some (k, x) => s.modCore core (fun c => if m.op = .tblld then { c with tabs := c.tabs.set k ((c.tabs.get k (0, 0)).1, x) }
      else { c with books := c.books.set k (x.extractLsb' 0 256) })
  | none => s

/-- A counter after one of its commands has completed (R252, R257). -/
def counted (s : State) (r : FRef) (k : Nat) (t : Time) (err : Dword) : State :=
  s.modFib r (fun f =>
    let x := f.ctr k
    { f with k := f.k.set k { val := x.val - 1, kt := tmax x.kt t, ec := if err ≠ 0 ∧ x.ec = 0 then err else x.ec } })

end Sys2Proof.Rules

/-- The checks before an instruction's own work (R54, R57, R58, R61, R63, R209), for every form: an illegal field, a service form
in a user block, a false guard, an index outside its window, and a hazard of the scoreboard; and every instruction and event answers a next state.
Where the spec leaves it open it rests on the model's choices of log 24, log 25, log 66. -/
def Obligations.IssueChecks : Prop :=
  (∀ (o : Op) (f : Ins) (s : State), s.mayIssue s.cur.ref s.cur.pc = true →
    let r := s.cur.ref
    let pc := s.cur.pc
    let path := (s.fib r).issuePath pc
    let b := s.block r.blk
    (∀ bit, s.illegalBit b.service o f = some bit →
      exec (o.instr f) s = .next (s.raise r 1 (BitVec.ofNat 64 (o.code.toNat + bit * 2 ^ 16)) pc path false 0)) ∧
    (s.illegalBit b.service o f = none →
      (o.cls = .s → b.service = false → exec (o.instr f) s = .next (s.raise r 4 (BitVec.ofNat 64 o.code.toNat) pc path false 0)) ∧
      ((o.cls = .s → b.service = true) → (s.fib r).ra = none →
        (s.warp r.blk r.warp).hazard r.fib [] [] (guardUse o f) path = false →
        (s.activeSet r o f path = 0 → exec (o.instr f) s = .next (s.modFib r (fun x => { x with
          lanes := x.lanes.mapIdx (fun l y => if path.getLsbD l then { y with pc := pc + 12 } else y)
          stall := none
          quantum := x.quantum + 1 }))) ∧
        (∀ n, s.activeSet r o f path ≠ 0 → ctxLocs s r o f = .error n →
          exec (o.instr f) s = .next (s.raise r 2 (BitVec.ofNat 64 n) pc path false 0)) ∧
        (∀ d a b' x, s.activeSet r o f path ≠ 0 → ctxLocs s r o f = .ok (d, a, b', x) →
          (s.warp r.blk r.warp).hazard r.fib (s.ctx o f d a b' x).regsV (s.ctx o f d a b' x).regsU (predUse o f)
            (if clsUniform o.cls then BitVec.allOnes 64 else s.activeSet r o f path) = true →
          exec (o.instr f) s = .next (s.modFib r (fun y => { y with
            stall := some ⟨pc, o, f⟩, st := if yields o f && s.otherReady r then .waiting else y.st })))))) ∧
  (∀ (w : BitVec 96) (s : State), s.mayIssue s.cur.ref s.cur.pc = true →
    exec (.unassignedOpcode w) s = .next (s.raise s.cur.ref 1 (BitVec.ofNat 64 (w.toNat % 2 ^ 10)) s.cur.pc
      ((s.fib s.cur.ref).issuePath s.cur.pc) false 0)) ∧
  (∀ (i : Instr) (s : State), ∃ t, exec i s = .next t)

/-- What raising a fault does, outside runahead (R162 to R171): a trap with an entry is entered, without one the fibre freezes
with its record; in trap mode FPX, BPT, WCH and NPX are latched, and any other class freezes the fibre as DBL; RNG ends
the task's blocks. -/
def Obligations.TakingFaults : Prop :=
  ∀ (s : State) (r : FRef) (cls : Nat) (val : Dword) (pc : VA) (lanes : LaneSet) (sw : Bool) (ia : Nat), s.hasFib r = true → (s.fib r).ra = none →
    let t := s.raise r cls val pc lanes sw ia
    let frozen (rc : Nat) : Prop := (t.fib r).st = .frozen ∧ (t.fib r).frec = recordOf s r rc cls val pc lanes ∧
      (t.fib r).frozenAt = s.now ∧ (t.fib r).sec = none ∧ (t.fib r).tcause = (s.fib r).tcause
    (1 ≤ cls → cls ≤ 8 →
      (∀ entry, (s.fib r).trap = false → (s.block r.blk).trapEntry = some entry →
        t = s.modFib r (entered (if sw then cls + 16 else cls) val pc entry lanes)) ∧
      ((s.fib r).trap = false → (s.block r.blk).trapEntry = none → frozen cls) ∧
      ((s.fib r).trap = true → cls ≤ 4 → frozen 11) ∧
      ((s.fib r).trap = true → 5 ≤ cls → t = s.modFib r (latched cls val))) ∧
    (cls = 9 → ∀ b, (s.blocks.find b).isSome = true → (s.block b).task = (s.block r.blk).task → (s.block b).st ≠ .gone →
      (t.block b).ending = true ∧ (t.block b).failed = true)

/-- Commands of the copy engine (R118, R251, R252, R254, R255, R257, R264, R265, R270): a copy, gather or scatter that fails a check starts
with its error record; a sound one whose destinations meet no source reads its rows in every space, or lays its pattern; a table or codebook
load takes its image from scratchpad or as read at issue; a command that has all it waits for writes what it has, each sector of global memory
once, fills its slot, and counts its counter down.
Where the spec leaves it open it rests on the model's choices of log 13, log 74, log 75. -/
def Obligations.CommandSteps : Prop :=
  ∀ s : State, ∀ m, let core := s.arg.core; let id := s.arg.id
    (s.core core).cmds.find id = some m → m.engine ≠ .matrix →
    let put (x : Cmd) (t : State) : State := t.modCore core (fun c => { c with cmds := c.cmds.set id x })
    let free := ∀ e ∈ (s.core core).cmds, e.1 < id → e.2.ref.blk = m.ref.blk → m.conflicts e.2 = false
    let b := s.block m.ref.blk
    (m.op = .cpy ∨ m.op = .gath ∨ m.op = .scat → m.started = false → free →
      let d := copyDesc m.desc
      let code := copyCheck m.op d (sext 64 m.b.toNat) (sext 64 m.c.toNat)
      let rows := copyRows m d
      (code ≠ 0 → exec .commandStart s = .next (put { m with
        started := true
        runs := []
        err := BitVec.ofNat 64 (code * 2 ^ 60 + (if m.op = .gath then 1 else if m.op = .scat then 2 else 0) * 2 ^ 56 + m.a.toNat / 32 % 2 ^ 52) } s)) ∧
      (code = 0 → m.badData = [] → d.ss = 1 → d.ds = 1 → b.core = core →
        (∀ r ∈ rows, 0 ≤ r.1 ∧ r.1 + d.len ≤ b.sspan ∧ 0 ≤ r.2 ∧ r.2 + d.len ≤ b.sspan ∧
          ∀ i < d.len, s.storePoison core (b.sbase + r.1.toNat + i) false = false) →
        (∀ r ∈ rows, ∀ q ∈ rows, r.1 + d.len ≤ q.2 ∨ q.2 + d.len ≤ r.1) →
        (m.op ≠ .cpy → rows.Pairwise (fun (r q : Int × Int) => r.2 + d.len ≤ q.2 ∨ q.2 + d.len ≤ r.2)) →
        exec .commandStart s = .next (put { m with
          started := true
          runs := rows.map (fun r => { kind := 1, core := core, addr := b.sbase + r.2.toNat
                                       bytes := scratchBytes s core (b.sbase + r.1.toNat) d.len })
          kt := rows.foldl (fun t _ => tmax t 0) m.kt
          pinned := [] } { s with free := s.free + rows.length * d.len })) ∧
      (∀ src dst : List (List Piece), code = 0 → m.badData = [] →
        src.length = rows.length → dst.length = rows.length →
        (∀ i < rows.length, (if d.ss = 4 then src.getD i [] = []
            else s.enginePieces b d.ss (rows.getD i (0, 0)).1 d.len Range.r = .ok (src.getD i [])) ∧
          s.enginePieces b d.ds (rows.getD i (0, 0)).2 d.len Range.w = .ok (dst.getD i [])) →
        s.clearing core m.ti (src.flatten ++ dst.flatten) false = none →
        (∀ p ∈ src.flatten, ∀ q ∈ dst.flatten, p.meets q = false ∧ q.meets p = false) →
        (m.op ≠ .cpy → dst.Pairwise (fun x y => ∀ p ∈ x, ∀ q ∈ y, p.meets q = false ∧ q.meets p = false)) →
        let x := copyReads core m.ti (fillBytes m d) (src.zip dst) s m.kt
        exec .commandStart s = .next (put { m with started := true, runs := x.2.1, kt := x.2.2, pinned := pieceLines src.flatten }
          { x.1.pinLines (core / 33) (pieceLines src.flatten) with free := x.1.free + rows.length * d.len }))) ∧
    (m.op = .tblld ∨ m.op = .cbld → m.started = false → free → b.core = core →
      let n := if m.op = .tblld then 2080 else 32
      let bytes := if m.f.x.fn = 1 then scratchBytes s core (b.sbase + m.a.toNat) n else m.desc
      let k := match m.f.b with | .sp (.atab x) => x.toNat | .sp (.cbook x) => x.toNat | _ => 0
      (m.f.x.fn = 1 → ∀ i < n, s.storePoison core (b.sbase + m.a.toNat + i) false = false) →
      (m.op = .tblld → dzero bytes 8 24 = false → exec .commandStart s = .next (put { m with
        started := true, runs := [], err := BitVec.ofNat 64 (2 ^ 60 + 4 * 2 ^ 56 + m.a.toNat / 32 % 2 ^ 52) } s)) ∧
      (m.op = .cbld ∨ dzero bytes 8 24 = true → exec .commandStart s = .next (put { m with
        started := true, image := some (k, BitVec.ofNat 16640 (leNat bytes)) } s))) ∧
    (m.op ≠ .notify → m.op ≠ .mcst → m.op ≠ .mred → m.started = true → m.reqs = [] → m.spoiled = [] → ∀ runs,
      s.currentRuns m = .ok runs → s.clearing core m.ti ((runs.filter (fun r => r.kind == 0 && r.attr != .priv)).map WriteRun.piece) true = none →
      let u := runsWritten s { m with runs := runs } runs
      exec .commandCompletion s = .next (counted ((imagePut u.1 core m).modCore core (fun c => { c with cmds := c.cmds.erase id }))
        m.ref m.k u.2 m.err))

namespace Sys2Proof.Rules

/-! ## Tasks, service calls and interrupts -/

/-- The release that comes first has nothing to wait for (R237): the fibre's ptime is its result. -/
def settled (c : Ctx) : State := c.s.modFib c.r (fun x => { x with relw := x.ptime })

/-- The number a counter field names. -/
def counterOf (x : Operand) : Nat := match x with | .sp (.ctr n) => n.toNat | _ => 0
/-- The uniform predicate a field names; 15 is qt. -/
def upredOf (x : Operand) : Nat := match x with | .sp (.upred n _) => n.toNat | _ => 15

/-- A counter that counts one more command (R252). -/
def counts (s : State) (r : FRef) (k : Nat) : State :=
  s.modFib r (fun f => { f with k := f.k.set k { f.ctr k with val := (f.ctr k).val + 1 } })

/-- A record the device has stamped: `r` holds its new fields; it breaks check 1 of R389 only if the old one did. -/
def StampedAs (d e : List Byte) (r : TaskRec) : Prop :=
  e.length = 64 ∧ { taskRec e with bad := false } = { r with bad := false } ∧ ((taskRec d).bad = false → (taskRec e).bad = false)
/-- The stamped record of a submission (R391). -/
def Stamps (d e : List Byte) (vi : Nat) (t : Time) : Prop :=
  StampedAs d e { taskRec d with vi := vi, stime := tmax (taskRec d).stime t }
/-- The stamped record of a fibre or a continuation (R398, R400): tag, VI and CONT are the device's, PRIO at most MAXPRIO. -/
def StampsOwn (d e : List Byte) (vi : Nat) (tag : BitVec 16) (cont : Bool) (most : Nat) (t : Time) : Prop :=
  StampedAs d e { taskRec d with
    vi := vi, tag := tag, cont := cont, prio := min (taskRec d).prio most, stime := tmax (taskRec d).stime t }

/-- The home's part of a JOIN (R400): COUNT less n where that is not negative, in a version at `t`. -/
def joinVer (h : Home) (n : Nat) (t : Time) : Ver :=
  let c := lineNat h.data 0 4
  { data := if n ≤ c then lineMerge h.data ((leBytes 4 (c - n)).zipIdx.map (fun e => (e.2, e.1))) else h.data
    wt := t, rt := t, poison := h.poison }

/-- The home of a join block after the operation of JOIN at a time (R400). -/
def joinedAt (s : State) (line n : Nat) (h : Home) (t : Time) : State :=
  (withHome (noted s t) line
    { h with data := (joinVer h n t).data, wt := t, rt := t, c := 0, used := s.now, dirty := h.dirty ||| 1 }).wakeLine line .write
/-- The state after the home's part, the retirement and the update of ptime (R240, R400). -/
def joined (c : Ctx) (line key n : Nat) (h : Home) (t : Time) : State :=
  ((c.retire (joinedAt (settled c) line n h t)).wroteBack c.blk.core key none (joinVer h n t)).modFib c.r (fun x =>
    { x with ptime := tmax x.ptime t })

/-- The bridge as a bias request leaves it while its flip is under way (R420). -/
def biasing (s : State) (toHost : Bool) : State :=
  let q : Recall := { ref := ⟨0, 0, 0⟩, k := 0, base := 65536 * s.arg.index, count := 1, toMem := true, attr := none, owner := 0
                      bias := some toHost }
  { s with
    recalls := [q]
    bridge := { s.bridge with biasPage := s.arg.index, biasDir := toHost, biasDone := false, biasErr := false, biasBusy := true } }
/-- The fibre of an instruction that its counter counts before the release it performs, once however often it is tried; and the
instruction's retirement then (R354, R427). -/
def countFirst (c : Ctx) (k : Nat) : State :=
  let tried := (c.fib.phases.find c.pc.toNat).isSome
  let count (x : Fibre) : Fibre := if tried then x else
    { x with k := x.k.set k { x.ctr k with val := (x.ctr k).val + 1 }, phases := x.phases.set c.pc.toNat .counted }
  did c (fun x => { count x with relw := x.ptime, phases := (count x).phases.erase c.pc.toNat })

/-- No level-one cache holds a line of the page. -/
def dropped1 (s : State) (l : LeafSpan) : State :=
  { s with cores := s.cores.map (fun e => (e.1, { e.2 with l1 := e.2.l1.filter (fun x => !l.has (x.1 / 2)) })) }
/-- No chiplet holds an entry of the page. -/
def forgottenThere (s : State) (l : LeafSpan) : State :=
  { s with chiplets := s.chiplets.map (fun e => (e.1, { e.2 with tlb := e.2.tlb.filter (fun x =>
      !(decide (x.page < l.page + l.pages) && decide (l.page < x.page + x.pages))) })) }
/-- No requester-side copy holds a line of the page, and no chiplet an entry of it. -/
def forgotten (s : State) (l : LeafSpan) : State :=
  { s with
    dies := s.dies.map (fun e => (e.1, { e.2 with copies := e.2.copies.filter (fun x => !l.has x.1) }))
    chiplets := s.chiplets.map (fun e => (e.1, { e.2 with tlb := e.2.tlb.filter (fun x =>
      !(decide (x.page < l.page + l.pages) && decide (l.page < x.page + x.pages))) })) }
/-- The low byte of a page's leaf entry changed at its home (R364, R374). -/
def entryByte (s : State) (l : LeafSpan) (g : Nat → Nat) : State × Time :=
  s.devWrite (0xFE * 2 ^ 44 + l.pa % 2 ^ 44) [BitVec.ofNat 8 (g (s.devByte (0xFE * 2 ^ 44 + l.pa % 2 ^ 44)).toNat)] s.h false (0, 0)
/-- The BIAS bit of the page's leaf entry written at its home, and the flip done (R420). -/
def flipped (s : State) (l : LeafSpan) (toHost : Bool) : State :=
  let u := forgottenThere (entryByte s l (fun b => b % 128 + (if toHost then 128 else 0))).1 l
  { u with recalls := [], bridge := { u.bridge with biasBusy := false, biasDone := true } }

/-- The reports that function 1 leaves at the caller's area, lane by lane where STATUS is 0 (R467). -/
def certified (s : State) (q : Batch) (results : List (BitVec 192 × Word)) : State :=
  if q.fn ≠ 1 then s
  else { s with reports := (lanesOf q.active).foldl (fun m l =>
    let x := results.getD l (0, 0)
    if x.2 = 0 then m.set x.1.toNat (s.reportOf (q.args.get l 0)) else m) s.reports }
/-- What a RECALL's step leaves of it (R374): it goes on while a page of its range is left; else its counter counts, with the largest
time of its writes. -/
def recallLeft (s : State) (q : Recall) (rest : List Recall) : State :=
  if (s.recallPage q).isSome then { s with recalls := q :: rest }
  else counted { s with recalls := rest } q.ref q.k (tmax ((s.fib q.ref).ctr q.k).kt q.kt) 0
/-- The home copies of a page in an attribute, with its owner (R374). -/
def withAttr (s : State) (l : LeafSpan) (a : Option Attr) (owner : Nat) : State :=
  match a with
  | some a => { s with homes := s.homes.map (fun e =>
      (e.1, if l.has e.1 then { e.2 with attr := a, owner := if a = Attr.priv then owner else 0 } else e.2)) }
  | none => s

/-- The interrupt vector a field names, by number or by register. -/
def vectorOf (c : Ctx) : Nat := match c.f.a with | .sp (.vec n) => n.toNat | _ => c.va 0

/-- The fibre that UIHDL names, 4 × warp + fibre. -/
def namedFibre (c : Ctx) : Nat := 4 * (c.vb 0 / 4 % 16) + c.vb 0 % 4

/-- The binding that UIHDL makes of it. -/
def handler (c : Ctx) : Binding :=
  { task := c.blk.task, ix := c.blk.ix, iy := c.blk.iy, iz := c.blk.iz, wf := namedFibre c }

/-- MODE of a vector (R431): OR, a sum that saturates, or the last payload. -/
def modeMerge (mode : BitVec 2) (a p : Word) : Word :=
  if mode = 0 then a ||| p else if mode = 1 then (if 2 ^ 32 ≤ a.toNat + p.toNat then 0xFFFFFFFF else a + p) else p

end Sys2Proof.Rules

/-- Task records (R391, R397 to R400): a queue that is enabled and not full takes a record at TAIL; a submission above MAXPRIO or to
a queue without room is refused with an event of CODE 8; SPAWN appends its record, stamped, and says so in QD; JOIN takes n
from COUNT at the home, enqueues the continuation where COUNT reaches 0, or keeps it in the overflow store, which
empties in order.
Where the spec leaves it open it rests on the model's choices of log 12, log 30. -/
def Obligations.SpawnAndJoin : Prop :=
  (∀ (s : State) (vi prio : Nat) (d : List Byte) (svc : Bool), (s.vi vi).drained = false →
    let q := (s.vi vi).queues.get prio {}
    let slot := q.base + 64 * q.tail
    (q.en = false ∨ (q.tail + 1) % 2 ^ q.cap = q.head → s.enqueue vi prio d svc = none) ∧
    (q.en = true → (q.tail + 1) % 2 ^ q.cap ≠ q.head → ∃ t, s.enqueue vi prio d svc = some t ∧
      (t.vi vi).queues.get prio {} = { q with tail := (q.tail + 1) % 2 ^ q.cap, headAt := if q.head = q.tail then s.now else q.headAt } ∧
      t.serviceSlots.contains slot = svc ∧ t.mem = (s.devWrite slot d s.h false (vi, 0)).1.mem ∧
      t.homes = (s.devWrite slot d s.h false (vi, 0)).1.homes)) ∧
  (∀ s : State, s.arg.data.length = 64 → s.arg.vi < 64 →
    let r := taskRec s.arg.data
    let v := s.vi s.arg.vi
    let open' := s.boot.ready = true ∧ s.arg.vi < s.boot.viCount
    (¬ open' → exec .submit s = .next s) ∧
    (open' → v.drained = true → s.readable (v.entryAt r.prio) 32 = false → exec .submit s = .next (s.readAsk (v.entryAt r.prio) 32)) ∧
    (open' → v.drained = false ∨ s.readable (v.entryAt r.prio) 32 = true → s.purging s.arg.vi r.tag = true →
      exec .submit s = .next (s.countPurged s.arg.vi r.tag)) ∧
    (open' → v.drained = false ∨ s.readable (v.entryAt r.prio) 32 = true → s.purging s.arg.vi r.tag = false → ∃ e, Stamps s.arg.data e s.arg.vi s.bridge.bt ∧
      ((s.vi s.arg.vi).maxprio.toNat < r.prio ∨ s.enqueue s.arg.vi r.prio e false = none →
        exec .submit s = .next (s.event s.arg.vi 1 8 r.tag 0 0 0)) ∧
      (∀ t, r.prio ≤ (s.vi s.arg.vi).maxprio.toNat → s.enqueue s.arg.vi r.prio e false = some t → exec .submit s = .next t))) ∧
  (∀ f s c, Ready .spawn f s c → canRelease c .d → c.blk.vi < 64 →
    let d := (paramWords c 16).flatMap wordBytes
    let b := c.blk
    ((taskRec d).bad = true → exec (.spawn f) s = .next (s.raise c.r 1 (Op.spawn.code.setWidth 64) c.pc c.path false 0)) ∧
    ((taskRec d).bad = false → b.service = true ∨ s.purging b.vi b.tag = false →
      ∃ e, StampsOwn d e b.vi b.tag false (s.vi b.vi).maxprio.toNat c.fib.ptime ∧
        ((settled c).enqueue b.vi (taskRec e).prio e b.service = none →
          exec (.spawn f) s = .next ((c.retire (settled c)).applyEff c.r (.upred (upredOf f.d) false))) ∧
        (∀ t, (settled c).enqueue b.vi (taskRec e).prio e b.service = some t →
          exec (.spawn f) s = .next ((c.retire t).applyEff c.r (.upred (upredOf f.d) true))))) ∧
  (∀ f s c ps h, Ready .join f s c → canRelease c .d → c.blk.vi < 64 →
    let va := c.va 0
    let n := c.vb 0 % 2 ^ 32
    let b := c.blk
    let p : Piece := ps.headD default
    let line := p.place / 128
    let key := 2 * line + (if p.ns then 1 else 0)
    let q := upredOf f.d
    (n = 0 → exec (.join f) s = .next (s.raise c.r 1 (Op.join.code.setWidth 64) c.pc c.path false 0)) ∧
    (n ≠ 0 → s.enginePieces b 0 va 1 (fun g => g.r && g.a) = .ok ps →
      (va % 128 ≠ 0 → exec (.join f) s = .next (s.raise c.r 3 (accessTval false 0 va) c.pc c.path false 0)) ∧
      (va % 128 = 0 → c.fib.watched va 128 true true = false → s.overflow.length ≤ 1024 → s.memHeld c.r false = false →
        s.lineBusy c.r [line] false = false → (∀ l, s.l1 b.core key = some l → ∀ k < 4, (l.sec k).mine = 0) →
        isIdentity (line * 128) = false → isHostWindow (line * 128) = false → (∃ x, s.homes.find line = some x ∧ h = s.whole x) →
        s.brokenPage (line * 128) = false → s.bridge.filter.contains line = false → s.flipping (line * 128) = false → s.permitFree b.core line = true → h.poison = 0 →
        let t := tmax c.fib.ptime (h.rt + 1)
        roomFor s t →
        let count := lineNat h.data 0 4
        let u := joined c line key n h t
        (n < count → exec (.join f) s = .next (u.applyEff c.r (.upred q false))) ∧
        (count < n → exec (.join f) s = .next ((u.faultRecord b.vi p.place va 6 false b.tag b.task).applyEff c.r (.upred q false))) ∧
        (n = count → s.purging b.vi b.tag = false →
          ∃ e, StampsOwn ((lineBytes h.data).drop 64) e b.vi b.tag true (u.vi b.vi).maxprio.toNat t ∧
            (u.enqueue b.vi (taskRec e).prio e b.service = none →
              exec (.join f) s = .next ({ u with overflow := u.overflow ++ [(b.vi, b.tag, e, b.service)] }.applyEff c.r (.upred q true))) ∧
            (∀ t, u.enqueue b.vi (taskRec e).prio e b.service = some t →
              exec (.join f) s = .next (t.applyEff c.r (.upred q true))))))) ∧
  (∀ (s : State) vi tag d svc rest, s.overflow = (vi, tag, d, svc) :: rest →
    ∀ t, s.enqueue vi (taskRec d).prio d svc = some t → exec .overflowStoreDrain s = .next { t with overflow := rest })

/-- Service calls, RECALL and the service core (R373, R374, R402, R420, R426 to R428, R430, R475): SVC puts a batch of its active lanes
in the die's queue, counted before its release; a batch is taken, and its replies reach the area lane by lane before the counter,
with STATUS 4 where its service block was lost; RECALL takes its turn,
and drops what caches and chiplets hold of its pages; a bias flip that cannot be made says so; HALT waits for the event
latch; CTXSV and CTXRS change RUN.
Where the spec leaves it open it rests on the model's choices of log 29, log 38, log 47, log 52, log 55. -/
def Obligations.ServiceForms : Prop :=
  (∀ f s c ps, Ready .svc f s c → c.poisoned = false → s.memHeld c.r false = false →
    let b := c.blk
    let va := c.va 0
    s.enginePieces b 0 va (32 * b.width) Range.w = .ok ps →
    ∀ g, vaRange b va = some g → g.w = true → (g.ns = true ∨ b.ns = false) → va + 32 * b.width ≤ g.vabase + g.gran * 65536 →
    va + 32 * b.width ≤ 2 ^ 57 →
    (va % 32 ≠ 0 → exec (.svc f) s = .next (s.raise c.r 3 (accessTval false 0 va) c.pc c.path false 0)) ∧
    (va % 32 = 0 → ((s.die (b.core / 33)).batches.filter (fun e => !e.2.started)).length < 256 →
      let q : Batch := { ref := c.r, core := b.core, slot := (s.warp c.r.blk c.r.warp).slot, k := counterOf f.d
                         fn := (match f.x with | .svc n => n | _ => 0), vi := b.vi, tag := b.tag, task := b.task, ns := b.ns, active := c.act
                         args := c.lanes.map (fun l => (l, BitVec.ofNat 128 (c.vb l))), ia := (ps.headD default).place, ti := c.fib.ptime }
      (c.fib.phases.find c.pc.toNat = none → ∃ t, exec (.svc f) s = .next t ∧
        (t.fib c.r).ctr q.k = { c.fib.ctr q.k with val := (c.fib.ctr q.k).val + 1 }) ∧
      (canRelease c .d → exec (.svc f) s = .next (((countFirst c q.k).modDie (b.core / 33) (fun d =>
        { d with batches := d.batches.set d.nextBatch q, nextBatch := d.nextBatch + 1 })).modCore (33 * (b.core / 33) + 32)
        (fun x => { x with latch := true }))))) ∧
  (∀ (s : State) id q, (s.die s.arg.die).batches.find? (fun e => !e.2.started) = some (id, q) →
    exec .serviceBatchStart s = .next (s.modDie s.arg.die (fun x =>
      { x with batches := x.batches.set id { q with
        started := true
        image := s.bridge.image
        server := if (s.block s.arg.blk).service && (s.block s.arg.blk).st == .resident && !(s.block s.arg.blk).ending
          then some s.arg.blk else none } }))) ∧
  (∀ (s : State) q, (s.die s.arg.die).batches.find s.arg.id = some q → q.started = true → (s.block q.ref.blk).stopping = false →
    (∀ l ∈ lanesOf q.active, ∀ line ∈ runLines (q.ia + 32 * l) 32, s.replyRoom (tmax q.ti s.arg.value) line = true) →
    let t0 := tmax q.ti s.arg.value
    let lost := q.dead || q.server.any (fun n => (s.block n).ending)
    let body (l : Nat) : List Byte := if lost then leBytes 24 (s.arg.results.getD l (0, 0)).1.toNat ++ leBytes 4 4 ++ leBytes 4 0
      else if q.fn = 0 then leBytes 16 (q.args.get l 0).toNat ++ leBytes 16 0
      else leBytes 24 (s.arg.results.getD l (0, 0)).1.toNat ++
        leBytes 4 (if 0x8000 ≤ q.fn.toNat then 1 else (s.arg.results.getD l (0, 0)).2.toNat) ++ leBytes 4 0
    let x := (lanesOf q.active).foldl (fun (acc : State × Time) l =>
      let y := acc.1.devWrite (q.ia + 32 * l) (body l) t0 false (q.vi, q.tag)
      (y.1, tmax acc.2 y.2)) (s, t0)
    let w := x.1.modDie s.arg.die (fun d => { d with batches := d.batches.erase s.arg.id })
    let u := if lost then w else certified w q s.arg.results
    ((u.block q.ref.blk).st = .resident → (u.fib q.ref).st ≠ .ended → exec .serviceReply s = .next (counted u q.ref q.k x.2 0)) ∧
    ((u.block q.ref.blk).st = .gone → exec .serviceReply s = .next u)) ∧
  (∀ f s c, Ready .recall f s c → ∀ m a, f.x = .recall m a →
    let base := c.va 0
    let count := c.vb 0 % 2 ^ 32
    let own := c.vb 0 / 2 ^ 32
    let owner := 33 * (own % 16) + own / 16 % 64
    1 ≤ count → count ≤ 2 ^ 24 → (a = 2 → own < 2 ^ 10 ∧ own / 16 % 64 < 33 ∧ s.coreLive owner = true) → (a ≠ 2 → own = 0) →
    (0xFE * 2 ^ 44 < base + 65536 * count → exec (.recall f) s = .next (s.raise c.r 9 (accessTval true 0 base) c.pc c.path false 0)) ∧
    (base + 65536 * count ≤ 0xFE * 2 ^ 44 → base % 65536 ≠ 0 →
      exec (.recall f) s = .next (s.raise c.r 3 (accessTval true 0 base) c.pc c.path false 0)) ∧
    (base % 65536 = 0 → base + 65536 * count ≤ 0xFE * 2 ^ 44 → s.recalls.length < 16 →
      exec (.recall f) s = .next { counts (c.retire s) c.r (counterOf f.d) with recalls := s.recalls ++
        [{ ref := c.r, k := counterOf f.d, base := base, count := count, toMem := m, owner := owner
           attr := if a = 0 then some .leased else if a = 1 then some .manual else if a = 2 then some .priv else none }] })) ∧
  (∀ (s : State) q rest, s.recalls = q :: rest → q.bias = none → s.bridge.biasBusy = false →
    (s.recallPage q = none → exec .recallCompletion s = .next (recallLeft s q rest)) ∧
    (∀ i l, s.recallPage q = some (i, l) → q.begun = none → s.pageBusy l false (fun _ => true) = false → q.toMem = false →
      s.devReady ((0xFE * 2 ^ 44 + l.pa % 2 ^ 44) / 128) s.h = true →
      (q.attr = none → exec .recallCompletion s =
        .next (recallLeft (forgottenThere s l) { q with done := i, begun := some [] } rest)) ∧
      (∀ a, q.attr = some a → let w := entryByte s l (fun b => b / 16 * 16 + b % 4 + 4 * a.code)
        ∃ u, exec .recallCompletion s = .next (recallLeft u { q with done := i, begun := some [], kt := tmax q.kt w.2 } rest) ∧
          { u with owners := w.1.owners } = forgottenThere (withAttr w.1 l (some a) q.owner) l ∧
          ∀ k < l.pages, u.owners.find (l.page + k) = if a = Attr.priv then some q.owner else none)) ∧
    (∀ i l done left, s.recallPage q = some (i, l) → q.begun = some done → s.recallCores l done = left →
      (left = [] → exec .recallCompletion s = .next (recallLeft
        (forgotten { withAttr s l q.attr q.owner with
          homes := (withAttr s l q.attr q.owner).homes.map (fun e => (e.1, if l.has e.1 then { e.2 with pres := 0 } else e.2)) } l)
        { q with done := l.page + l.pages - q.base / 65536, begun := none } rest)) ∧
      (1 < left.length → s.arg.core ∈ left → s.pageBusy l false (fun x => x == s.arg.core) = false →
        s.pageDirt l (fun x => x == s.arg.core) = [] → exec .recallCompletion s = .next (recallLeft
          { s with cores := s.cores.map (fun e => (e.1, if e.1 = s.arg.core then
              { e.2 with l1 := e.2.l1.filter (fun x => !l.has (x.1 / 2)) } else e.2)) }
          { q with begun := some (s.arg.core :: done) } rest)))) ∧
  (∀ s : State, s.boot.ready = true → s.bridge.biasBusy = false → s.recalls = [] → s.biasBad s.arg.index = true →
    exec .biasFlipToDevice s = .next { s with bridge := { s.bridge with
      biasPage := s.arg.index, biasDir := false, biasDone := false, biasErr := true, biasBusy := false } } ∧
    exec .biasFlipToHost s = .next { s with bridge := { s.bridge with
      biasPage := s.arg.index, biasDir := true, biasDone := false, biasErr := true, biasBusy := false } }) ∧
  (∀ (s : State) (l : LeafSpan), s.boot.ready = true → s.bridge.biasBusy = false → s.recalls = [] → s.biasBad s.arg.index = false →
    s.leafSpan (65536 * s.arg.index) = some l → s.pageDirt l (fun _ => true) = [] → (∀ e ∈ s.reqs, l.has e.2.line = false) →
    (∀ e ∈ s.bridge.asked, l.has e.1 = false) →
    (∀ x ∈ s.bridge.filter ++ s.bridge.invPend, l.has x = false) → (∀ e ∈ s.homes, l.has e.1 = false) →
    (∀ e ∈ s.evicts, l.has e.2.line = false) → (∀ e ∈ s.bridge.lines, l.has e.1 = false) →
    ((biasing s false).devReady ((0xFE * 2 ^ 44 + l.pa % 2 ^ 44) / 128) s.h = true →
      exec .biasFlipToDevice s = .next (flipped (biasing s false) l false)) ∧
    ((biasing s true).devReady ((0xFE * 2 ^ 44 + l.pa % 2 ^ 44) / 128) s.h = true →
      exec .biasFlipToHost s = .next (flipped (forgotten (dropped1 (biasing s true) l) l) l true))) ∧
  (∀ s : State, (s.boot.ready = true → s.arg.head = s.bridge.active → exec .cfgo s = .next { s with bridge := { s.bridge with switching := true } }) ∧
    (s.arg.head ≠ s.bridge.active → exec .cfgo s = .next s) ∧
    (s.bridge.switching = true → s.arg.flag = true → exec .imageSwitch s =
      .next (({ s.scanService with bridge := { s.bridge with switching := false, refused := false, image := s.arg.value.setWidth 32 } }).tellAll 8 0
        ((s.arg.value.setWidth 32).setWidth 64) (s.bridge.image.setWidth 64))) ∧
    (s.bridge.switching = true → s.arg.flag = false → exec .imageSwitch s =
      .next ({ s with bridge := { s.bridge with switching := false, refused := true } }.tellAll 8 1
        ((s.arg.value.setWidth 32).setWidth 64) (s.bridge.image.setWidth 64))) ∧
    exec .evset s = .next (s.modCore s.arg.core (fun x => { x with latch := true }))) ∧
  (∀ f s c, Ready .halt f s c →
    ((s.core c.blk.core).latch = true → exec (.halt f) s = .next ((did c).modCore c.blk.core (fun x => { x with latch := false }))) ∧
    ((s.core c.blk.core).latch = false → exec (.halt f) s = .next (s.stallAt c.r c.pc .halt f))) ∧
  (∀ f s c, let vi := c.vb 0 % 2 ^ 32
    (Ready .ctxsv f s c → 64 ≤ vi → exec (.ctxsv f) s = .next (s.raise c.r 1 (Op.ctxsv.code.setWidth 64) c.pc c.path false 0)) ∧
    (Ready .ctxsv f s c → vi < 64 → f.x.fn ≠ 1 →
      let u := (did c).stopVi vi false
      ((u.vi vi).drained = false → exec (.ctxsv f) s =
        .next ((counts u c.r (counterOf f.d)).modVi vi (fun v => { v with ctxsv := v.ctxsv ++ [(c.r, counterOf f.d)] }))) ∧
      ((u.vi vi).drained = true → exec (.ctxsv f) s = .next u)) ∧
    (Ready .ctxsv f s c → vi < 64 → f.x.fn = 1 →
      let u := (did c).stopVi vi true
      ((u.vi vi).drained = false → exec (.ctxsv f) s =
        .next (((counts u c.r (counterOf f.d)).modVi vi (fun v => { v with ctxsv := v.ctxsv ++ [(c.r, counterOf f.d)] })).stopAll vi)) ∧
      ((u.vi vi).drained = true → exec (.ctxsv f) s = .next u)) ∧
    (Ready .ctxrs f s c → 64 ≤ vi → exec (.ctxrs f) s = .next (s.raise c.r 1 (Op.ctxrs.code.setWidth 64) c.pc c.path false 0)) ∧
    (Ready .ctxrs f s c → vi < 64 → exec (.ctxrs f) s = .next ((did c).startVi vi)))

/-- User interrupts (R175, R431 to R442): a send is refused by mode, permission or number, and counted; an accepted one merges its
payload and makes the vector pending; UISEND sends after a release, and its answer reaches QD; UIWAIT, UIACK and UIHDL are
the handler's; and the registers of the keeper.
Where the spec leaves it open it rests on the model's choices of log 61. -/
def Obligations.UserInterrupts : Prop :=
  (∀ (s : State) (vi n : Nat) (p : Word) (t : Time) (x : Sender),
    let y := s.vec vi n
    ((s.vi vi).uibase = 0 ∨ n = 0 ∨ 63 < n ∨ y.mode = 3 ∨ s.permits vi x n = false →
      s.acceptSend vi n p t x = (s.modVi vi (fun v =>
        { v with uirefuse := if v.uirefuse = 0xFFFFFFFF then v.uirefuse else v.uirefuse + 1 }), false)) ∧
    ((s.vi vi).uibase ≠ 0 → 1 ≤ n → n ≤ 63 → y.mode ≠ 3 → s.permits vi x n = true →
      (s.acceptSend vi n p t x).2 = true ∧
      (y.pend = true → (s.acceptSend vi n p t x).1 = (s.setVec vi n { y with
        payload := modeMerge y.mode y.payload p, count := if y.count = 0xFFFF then y.count else y.count + 1, t := tmax y.t t }).areaNote vi (2 * n)) ∧
      (∀ blk wf, y.pend = false → s.boundResident vi = some (blk, wf) →
        (s.acceptSend vi n p t x).1 = ((s.setVec vi n { y with
          payload := modeMerge y.mode y.payload p, count := if y.count = 0xFFFF then y.count else y.count + 1, t := tmax y.t t
          pend := true }).areaNote vi (2 * n)).poke blk wf))) ∧
  (∀ f s c, Ready .uisend f s c → canRelease c .d →
    let target := c.vb 0 % 2 ^ 32
    let q := upredOf f.d
    let id := (s.warp c.r.blk c.r.warp).nextPend
    (64 ≤ target → exec (.uisend f) s = .next (s.raise c.r 1 (Op.uisend.code.setWidth 64) c.pc c.path false 0)) ∧
    let send : Send := { ref := c.r, q := q, pend := id, vi := target, vec := vectorOf c, payload := BitVec.ofNat 32 (c.vb 0 / 2 ^ 32),
                         ts := c.fib.ptime, fromVi := c.blk.vi, tag := c.blk.tag }
    let wait : Pend := { fib := c.r.fib, dq := if q = 15 then [] else [q], entries := 1, since := s.now, body := .answer false }
    (target < 64 → exec (.uisend f) s = .next { (c.retire (settled c)).addPend c.r wait with
      sends := s.sends.set s.nextSend send, nextSend := s.nextSend + 1 })) ∧
  (∀ (s : State) q, s.sends.find s.arg.id = some q → (∀ e ∈ s.sends, e.1 < s.arg.id → e.2.ref = q.ref → e.2.vi ≠ q.vi) →
    s.sendReady q.vi q.vec (.context q.fromVi q.tag) = true →
    let x := ({ s with sends := s.sends.erase s.arg.id }).acceptSend q.vi q.vec q.payload q.ts (.context q.fromVi q.tag)
    exec .sendAccept s = .next ((unpend x.1 q.ref q.pend).landEff q.ref (.upred q.q x.2))) ∧
  (∀ f s c, Ready .uiwait f s c →
    (s.isHandler c.r = false → s.isHandler0 c.r = false →
      exec (.uiwait f) s = .next (s.raise c.r 1 (Op.uiwait.code.setWidth 64) c.pc c.path false 0)) ∧
    (s.isHandler c.r = true ∨ s.isHandler0 c.r = true →
      (s.deliverable c.r = 0 → c.fib.trap = false → exec (.uiwait f) s = .next (s.stallAt c.r c.pc .uiwait f)) ∧
      (s.deliverable c.r ≠ 0 ∨ c.fib.trap = true → c.poisoned = false → c.late = false →
        ∃ t, exec (.uiwait f) s = .next t ∧ After c { effs := destEffs c.d 2 0 (s.deliverable c.r) } t))) ∧
  (∀ f s c, Ready .uiack f s c → c.poisoned = false → c.late = false →
    let n := vectorOf c
    let value (x : Vec) : Nat := x.payload.toNat + (if x.pend then 2 ^ 32 else 0) + x.count.toNat * 2 ^ 48
    (63 < n ∨ (n = 0 ∧ s.isHandler0 c.r = false) ∨ (n ≠ 0 ∧ s.isHandler c.r = false) →
      exec (.uiack f) s = .next (s.raise c.r 1 (Op.uiack.code.setWidth 64) c.pc c.path false 0)) ∧
    (n = 0 → s.isHandler0 c.r = true → ∃ t, After c { effs := destEffs c.d 2 0 (value c.blk.vec0) } t ∧
      exec (.uiack f) s = .next (t.modBlock c.r.blk (fun b => { b with vec0 := {} }))) ∧
    (1 ≤ n → n ≤ 63 → s.isHandler c.r = true → s.memHeld c.r true = false →
      let x := (s.vi c.blk.vi).vecs.get n {}
      ∃ t, After c { effs := destEffs c.d 2 0 (value x) } t ∧
        exec (.uiack f) s = .next (((if x.pend then t.modFib c.r (fun y => { y with ptime := tmax y.ptime x.t }) else t).setVec c.blk.vi n
          { x with pend := false, payload := 0, count := 0 }).areaNote c.blk.vi (2 * n)))) ∧
  (∀ o ∈ [Op.uihdlVi, .uihdlBlk], ∀ f s c, Ready o f s c →
    let there := c.vb 0 / 4 % 16 < c.blk.warps.length ∧ c.vb 0 % 4 < c.blk.nf
    (¬ there → exec (o.instr f) s = .next (s.raise c.r 1 (o.code.setWidth 64) c.pc c.path false 0)) ∧
    (there → exec (o.instr f) s = .next (if o = .uihdlBlk then (did c).modBlock c.r.blk (fun x => { x with vec0H := some (namedFibre c) })
      else ((did c).modVi c.blk.vi (fun v => { v with bind := some (handler c) })).areaNote c.blk.vi 0))) ∧
  (∀ f s c, Ready .uihdlMask f s c → let vi := c.blk.vi
    let x (n : Nat) := (s.vi vi).vecs.get n {}
    (s.vi vi).run = true →
    ((∀ n, 1 ≤ n → n ≤ 63 → (x n).pend = false) →
      ∃ t, exec (.uihdlMask f) s = .next t ∧ t = (did c).modVi vi (fun v => { v with vecs := (t.vi vi).vecs }) ∧
        ∀ n, 1 ≤ n → n ≤ 63 → t.vec vi n = { x n with mask := (c.vb 0).testBit n }) ∧
    (∀ blk wf n, s.boundResident vi = some (blk, wf) → 1 ≤ n → n ≤ 63 → (x n).pend = true → (x n).mask = true → (c.vb 0).testBit n = false →
      ∃ t, exec (.uihdlMask f) s = .next t ∧ (t.fib ⟨blk, wf / 4, wf % 4⟩).ra = none)) ∧
  (∀ s : State, let vi := s.arg.vi
    ((s.vi vi).areaDirty.contains s.arg.index = true → (s.vi vi).uibase ≠ 0 → s.devReady ((s.vi vi).areaLine s.arg.index) s.h = true →
      exec .keeperAreaWrite s =
      .next ((s.areaPut vi s.arg.index).modVi vi (fun v => { v with areaDirty := v.areaDirty.filter (· ≠ s.arg.index) }))) ∧
    (s.boot.ready = true → vi < s.boot.viCount → s.boot.featacc.getLsbD 4 = true →
      s.sendReady vi (s.arg.value.toNat % 64) (.host (s.arg.value2.toNat % 2 ^ 20)) = true → exec .uidoor s = .next (s.acceptSend vi (s.arg.value.toNat % 64)
      (BitVec.ofNat 32 (s.arg.value.toNat / 2 ^ 32)) s.bridge.bt (.host (s.arg.value2.toNat % 2 ^ 20))).1) ∧
    (s.boot.ready = true → vi < s.boot.viCount → (s.vi vi).uibase ≠ 0 → s.arg.index < 256 →
      s.readable ((s.vi vi).uibase.toNat + 0x1000 + 16 * s.arg.index) 16 = true → exec .permsync s = .next (s.modVi vi (fun v => { v with
      perms := v.perms.set (s.arg.index % 256) (s.readPerm vi (s.arg.index % 256)) }))) ∧
    (s.boot.ready = true → vi < s.boot.viCount → exec .uirefuseClear s = .next (s.modVi vi (fun v => { v with uirefuse := 0 }))) ∧
    (s.boot.ready = false ∨ s.boot.viCount ≤ vi → ∀ e ∈ [Instr.uidoor, .permsync, .uirefuseClear], exec e s = .next s))

namespace Sys2Proof.Rules

/-! ## Grinder -/

/-- Does one head record go before another (R392)? Both are EP, when the VI was last served, VI, PRIO. -/
def goesFirst (a b : Nat × Nat × Nat × Nat) : Prop :=
  b.1 < a.1 ∨ (a.1 = b.1 ∧ (a.2.1 < b.2.1 ∨ (a.2.1 = b.2.1 ∧ (a.2.2.1 < b.2.2.1 ∨ (a.2.2.1 = b.2.2.1 ∧ b.2.2.2 < a.2.2.2)))))

/-- The head record of a queue taken (R391, R392). -/
def tookHead (s : State) (vi prio : Nat) : State :=
  let q := (s.vi vi).queues.get prio {}
  { s.modVi vi (fun v => { v with
      queues := v.queues.set prio { q with head := (q.head + 1) % 2 ^ q.cap, headAt := s.now }, served := s.servedN + 1 }) with
    servedN := s.servedN + 1
    serviceSlots := s.serviceSlots.filter (· ≠ q.base + 64 * q.head)
    doomed := s.doomed.filter (fun e => e.1 ≠ q.base + 64 * q.head) }

/-- The pages of a task's ranges that a residency walk refuses, each once by its own base, with the cause (R368, R395, R396). -/
def badPages (s : State) (t : Task) : List (Nat × Nat) :=
  (((rangePages t.ranges).map (fun p => (s.pageBase (p * 65536), s.pageCause t.world (p * 65536)))).filter (fun e => e.2 ≠ 0)).eraseDups
/-- The leaf entries of its pages: none for pages of the host window, the identity window and the on-chip map. -/
def leafEntries (s : State) (t : Task) : List Nat :=
  ((rangePages t.ranges).filterMap (fun p =>
    if isHostWindow (p * 65536) ∨ isIdentity (p * 65536) ∨ isMapIa (p * 65536) then none else s.leafAt (p * 65536))).eraseDups

/-- The residency walk of a task (R376, R395): with every page there, LCNT of each leaf entry counts one more and the task holds
a lease; else each failing page has a fault record and the task is held. -/
def walked (s : State) (h : Nat) (t : Task) : State :=
  let bad := badPages s t
  if bad = [] then
    let u := (leafEntries s t).foldl (fun u pa => u.addLcnt pa true) s
    { u.modVi t.tr.vi (fun v => { v with held := v.held.filter (· ≠ h) }) with
      tasks := u.tasks.set h { t with held := false, leases := leafEntries s t } }
  else
    let u := bad.foldl (fun u e => u.faultRecord t.tr.vi e.1 0 e.2 true t.tr.tag h) s
    { u.modVi t.tr.vi (fun v => { v with held := if v.held.contains h then v.held else h :: v.held }) with
      tasks := u.tasks.set h { t with held := true } }

/-- A task that has completed (R376, R394): it is gone with its barriers, and each leaf entry counts one lease less. -/
def completed (s : State) (h : Nat) (t : Task) : State :=
  t.leases.foldl (fun u pa => u.addLcnt pa false)
    (({ s with tasks := s.tasks.erase h, dbars := s.dbars.filter (fun e => e.1 / 4 ≠ h) } : State).modVi t.tr.vi (fun v =>
      { v with held := v.held.filter (· ≠ h) }))

/-- What a fibre has at launch (R35, R146, R207, R319): its lanes at its entry with their seeds, the frame pointer in s0:1, ptime at
the block's start, runahead on with threshold 256 where it has a reservation, everything else zero. -/
structure Launched (x : Fibre) (b : Block) (frame : Dword) (i : Nat) : Prop where
  lanes : x.lanes = (List.range b.width).map (fun l => { pc := b.entries.getD i 0, sr := seedZero l })
  frame : x.ureg 0 = frame.extractLsb' 0 32 ∧ x.ureg 1 = frame.extractLsb' 32 32
  zero : ∀ n, 2 ≤ n → x.ureg n = 0
  time : x.ptime = b.start
  runahead : x.raC = b.ras.getD i 0 ∧ x.raThr = 256 ∧ x.raOn = decide (b.ras.getD i 0 ≠ 0)
  preds : x.q = 0 ∧ x.x = 0 ∧ x.j = [] ∧ x.k = [] ∧ x.fpcs = 0 ∧ x.g = 0 ∧ x.trap = false
  state : x.st = if i = 0 then .active else .ready

end Sys2Proof.Rules

/-- Taking a task record, and REARM (R128, R376, R387 to R389, R392, R395): the head record that goes first is taken; one under purge
is discarded, and so is one that a purge found in its queue; one that fails a check is refused with an event of kind 1 whose CODE is the check; a sound one becomes a task
and its pages are walked.
Where the spec leaves it open it rests on the model's choices of log 12, log 50, log 51. -/
def Obligations.TaskTaking : Prop :=
  (∀ (v : Vi) prio since now, effPrio v prio since now =
    if v.age = 0 then prio else min 127 (prio + (now - since) / (v.age.toNat * 700000))) ∧
  (∀ (s : State) vi prio, (∃ ep served, (ep, served, vi, prio) ∈ s.heads ∧
      ∀ x ∈ s.heads, x ≠ (ep, served, vi, prio) → goesFirst (ep, served, vi, prio) x) →
    let q := (s.vi vi).queues.get prio {}
    let slot := q.base + 64 * q.head
    let r := { taskRec (s.devBytes slot 64) with vi := vi }
    let u := tookHead s vi prio
    s.tasks.length < 4096 → s.runReady slot 64 false = true → s.taskNeeds r = [] →
    ((slot, r.tag) ∈ s.doomed → exec .taskTake s = .next u) ∧
    ((slot, r.tag) ∉ s.doomed → s.purging vi r.tag = true → r.tag ≠ 0 → exec .taskTake s = .next (u.countPurged vi r.tag)) ∧
    ((slot, r.tag) ∉ s.doomed → s.purging vi r.tag = false ∨ r.tag = 0 → ∀ code k rs, u.checkTask r (s.serviceSlots.contains slot) = (code, k, rs) →
      (code ≠ 0 → exec .taskTake s = .next (u.event vi 1 code r.tag 0 (BitVec.ofNat 64 slot) 0)) ∧
      (code = 0 →
        let t : Task := { tr := r, ker := k, ranges := rs, world := (s.vi vi).ns, headAt := q.headAt, slotIa := slot, takenAt := s.servedN + 1 }
        ∃ h, h < 2 ^ 32 ∧ h ≠ 0 ∧ h ≠ 2 ^ 32 - 1 ∧ u.tasks.find h = none ∧
          exec .taskTake s = .next (walked { u with tasks := u.tasks.set h t, nextTask := h + 1 } h t)))) ∧
  (∀ (s : State) (r : TaskRec) svc,
    (r.bad = true → (s.checkTask r svc).1 = 1) ∧
    (r.bad = false → s.iaReadable r.vi r.rset.toNat 32 = false → (s.checkTask r svc).1 = 2) ∧
    ((s.checkTask r svc).1 = 0 →
      ∃ rs k d, rangeSet (s.iaBytes r.rset.toNat (32 + 32 * dfld (s.iaBytes r.rset.toNat 32) 0 1)) = some rs ∧
        kernelOf d r.fli = some k ∧ s.checkTask r svc = (0, k, rs) ∧ k.c = r.csize ∧ r.gx % k.c = 0 ∧ (r.tag ≠ 0 ∨ svc = true) ∧
        (r.joina ≠ 0 → ∃ g ∈ rs, g.r = true ∧ g.a = true ∧ g.vabase ≤ r.joina.toNat ∧
          r.joina.toNat + 128 ≤ g.vabase + g.gran * 65536))) ∧
  (∀ (s : State) t, let h := s.arg.value.toNat % 2 ^ 32
    s.boot.ready = true → s.arg.vi < s.boot.viCount →
    (s.vi s.arg.vi).held = [h] → s.tasks.find h = some t → exec .rearm s = .next (walked s h t))

/-- Blocks come and go (R35, R146, R224, R319 to R321, R325, R376, R392 to R394, R403): the next unit that fits, a block, a cluster or a
cooperative grid, is admitted whole at its placements, registers and scratchpads zero, fibres at their entries, barriers new; a unit
passed over for 1 ms holds back those of lower EP; a block that has ended is freed with its save slot, and its task counts it; a
task with no block left gives its leases back and makes its JOIN at GT.
Where the spec leaves it open it rests on the model's choices of log 53, log 58, log 77, log 78, log 80, log 92. -/
def Obligations.BlocksComeAndGo : Prop :=
  (∀ (s : State) h t kept, s.restorable = false → s.nextUnit = some ((h, t), kept) →
    let ps := s.arg.places
    let n := if t.tr.coop then t.tr.gx * t.tr.gy * t.tr.gz else max 1 t.ker.c
    ps.length = n → (∀ p ∈ ps, p.core ∉ kept) → (ps.map Placement.core).Nodup → s.handOver (ps.map Placement.core) = none →
    let start := if precedes t.tr.stime s.h then s.h else t.tr.stime
    let new (i : Nat) : Block := t.blockAt h (t.next + i) start t.service
    s.unitSound (((List.range n).map (fun i => (new i).clusterKey)).zip ps) = true →
    (∀ i p, ps[i]? = some p → s.placeOk (new i) p = true) → (s.vi t.tr.vi).slots.length + n ≤ (s.vi t.tr.vi).savecfg.toNat % 2 ^ 16 →
    ∃ u, exec .blockAdmission s = .next u ∧ u.nextBlk = s.nextBlk + n ∧
      (∀ i p, ps[i]? = some p →
       let b := u.block (s.nextBlk + i)
       let x := (t.next + i) % t.tr.gx
       b.st = .resident ∧ b.core = p.core ∧ b.rbase = p.rbase ∧ b.task = h ∧ b.vi = t.tr.vi ∧ b.tag = t.tr.tag ∧ b.ns = t.world ∧
       b.ix = x ∧ b.iy = (t.next + i) / t.tr.gx % t.tr.gy ∧ b.iz = (t.next + i) / t.tr.gx / t.tr.gy ∧ b.rank = x % max 1 t.ker.c ∧
       b.ranges = t.ranges ∧ b.start = start ∧
       (∃ k, b.saveSlot = some k ∧ k ∉ (s.vi t.tr.vi).slots ∧ ∀ j < i, (u.block (s.nextBlk + j)).saveSlot ≠ some k) ∧
       (∀ e ∈ u.cbars, e.1 / 16 ≠ b.clusterKey) ∧ b.width = t.ker.width ∧ b.entries = t.ker.entries ∧
       b.warps.length = t.tr.warps ∧
       (∀ w ∈ b.warps, w.active = some 0 ∧ w.fibs.length = t.ker.budgets.length ∧
         ∀ i < t.ker.budgets.length, Launched (w.fibs.getD i {}) b t.tr.frame i) ∧
       (∀ a, b.rbase ≤ a → a < b.rbase + b.rspan → (u.core p.core).uni.read a = 0) ∧
       (∀ a, b.sbase ≤ a → a < b.sbase + b.sspan → (u.core p.core).uni.read a = 0)) ∧
      (t.tr.coop = true → ∀ e ∈ u.dbars, e.1 / 4 ≠ h) ∧
      u.tasks.find h = some { t with next := t.next + n, live := t.live + n, passedAt := none }) ∧
  (∀ (s : State) e, e ∈ s.tasks → s.offers e.2 = true → (∃ c, e.2.passedAt = some c ∧ c + 700000 ≤ s.now) →
    (∀ x ∈ s.tasks, s.offers x.2 = true → (∃ c, x.2.passedAt = some c ∧ c + 700000 ≤ s.now) → x ≠ e → s.offerBefore e x = true) →
    exec .bypassLimit s = .next { s with bypass := some e.1 }) ∧
  (∀ s : State, let n := s.arg.blk
    let b := s.block n
    (s.blocks.find n).isSome = true → b.st = .resident → b.ending = true ∨ (∀ w ∈ b.warps, w.retired = true) →
    s.quiet n = true → s.slotDirt n = [] →
    b.ending = true ∨ (∀ r ∈ b.refs n, s.releaseDone r .d = true ∧ (s.fib r).rel = none) →
    ∃ u, exec .blockFree s = .next u ∧ u.blocks.find n = none ∧
      (∀ k, b.saveSlot = some k → (u.vi b.vi).slots = (s.vi b.vi).slots.filter (· ≠ k)) ∧
      (∀ e ∈ (u.core b.core).tabOwner ++ (u.core b.core).bookOwner, e.2 ≠ n) ∧
      (∀ t, s.tasks.find b.task = some t → 1 < t.live ∨ t.next < t.total →
        u.tasks.find b.task = some { t with
          live := t.live - 1
          gt := if b.ending then t.gt else (b.warps.flatMap Warp.fibs).foldl (fun m f => tmax m f.ptime) t.gt })) ∧
  (∀ (s : State) h t, s.tasks.find h = some t → t.live = 0 → t.tr.gx * t.tr.gy * t.tr.gz ≤ t.next →
    let w := completed s h t
    let b : Block := { vi := t.tr.vi, tag := t.tr.tag, task := h, ns := t.world, service := t.service, ranges := t.ranges }
    let va := t.tr.joina.toNat
    (t.tr.joina = 0 ∨ t.failed = true → s.endOfTask h = w) ∧
    (∀ g x, t.tr.joina ≠ 0 → t.failed = false → vaRange b va = some g → g.r = true → g.a = true → g.ns = true ∨ t.world = false →
      let ia := g.iabase + (va - g.vabase)
      let line := ia / 128
      s.joinWaits t = none → (∃ a, w.pageOf b ia = .ok a) → w.homes.find line = some x → w.brokenPage (line * 128) = false →
      isIdentity (line * 128) = false → isHostWindow (line * 128) = false →
      let hm := w.whole x
      hm.poison = 0 →
      let gt := tmax t.gt (hm.rt + 1)
      let u := joinedAt w line 1 hm gt
      let count := lineNat hm.data 0 4
      (1 < count → s.endOfTask h = u) ∧
      (count = 0 → s.endOfTask h = u.faultRecord t.tr.vi ia va 6 false t.tr.tag h) ∧
      (count = 1 → s.purging t.tr.vi t.tr.tag = false →
        ∃ e, StampsOwn ((lineBytes hm.data).drop 64) e t.tr.vi t.tr.tag true (u.vi t.tr.vi).maxprio.toNat gt ∧
          (u.enqueue t.tr.vi (taskRec e).prio e t.service = none →
            s.endOfTask h = { u with overflow := u.overflow ++ [(t.tr.vi, t.tr.tag, e, t.service)] }) ∧
          (∀ v, u.enqueue t.tr.vi (taskRec e).prio e t.service = some v → s.endOfTask h = v))))

/-- Purges, events and fault records (R390, R396, R407 to R409, R413): an event or record goes into its ring at TAIL, or sets the
overflow bit; a purge ends the blocks and tasks of its key, and reports when nothing of it is left; a batch of fault records
closes with an event of kind 6 after 20 μs.
Where the spec leaves it open it rests on the model's choices of log 30, log 47. -/
def Obligations.PurgesAndRings : Prop :=
  (∀ (s : State) vi kind code tag task a b,
    let v := s.vi vi
    let n := 2 ^ v.evcfg.toNat
    let tail := v.evtail.toNat % n
    (v.evcfg.toNat < 4 ∨ 16 < v.evcfg.toNat ∨ (tail + 1) % n = v.evhead.toNat % n →
      s.event vi kind code tag task a b = s.modVi vi (fun v => { v with evovf := true })) ∧
    (4 ≤ v.evcfg.toNat → v.evcfg.toNat ≤ 16 → (tail + 1) % n ≠ v.evhead.toNat % n →
      s.event vi kind code tag task a b = (s.devWrite (v.evbase.toNat + 32 * tail)
        (leBytes 1 kind ++ leBytes 1 code ++ leBytes 2 tag.toNat ++ leBytes 4 task ++ leBytes 8 a.toNat ++ leBytes 8 b.toNat ++
          leBytes 8 s.ns.toNat) s.h false (vi, tag)).1.modVi vi (fun v => { v with evtail := BitVec.ofNat 32 ((tail + 1) % n) }))) ∧
  (∀ (s : State) vi ia va cause (held : Bool) tag task,
    let v := s.vi vi
    let recent := v.recent.filter (fun r => decide (s.now ≤ r.since + 14000))
    let n := 2 ^ v.fbcfg.toNat
    let tail := v.fbtail.toNat % n
    (∀ r ∈ recent, r.ia ≠ ia ∨ r.cause ≠ cause) → v.batchN < 63 → 4 ≤ v.fbcfg.toNat → v.fbcfg.toNat ≤ 16 →
    (tail + 1) % n ≠ v.fbhead.toNat % n →
      s.faultRecord vi ia va cause held tag task = (s.devWrite (v.fbbase.toNat + 32 * tail)
        (leBytes 8 ia ++ leBytes 8 va ++ leBytes 1 cause ++ leBytes 1 (if held then 1 else 0) ++ leBytes 2 tag.toNat ++ leBytes 2 1 ++
          leBytes 2 0 ++ leBytes 4 task ++ leBytes 4 0) s.h false (vi, tag)).1.modVi vi (fun v => { v with
            fbtail := BitVec.ofNat 32 ((tail + 1) % n), recent := ⟨ia, cause, 1, tail, s.now⟩ :: recent
            batchAt := some (v.batchAt.getD s.now), batchN := v.batchN + 1 })) ∧
  (∀ s : State, s.boot.ready = false ∨ s.boot.viCount ≤ s.arg.vi ∨ s.arg.tag = 0 ∨ (∃ p ∈ s.purges, p.vi = s.arg.vi ∧ p.tag = s.arg.tag) → exec .purge s = .next s) ∧
  (∀ s : State, s.boot.ready = true → s.arg.vi < s.boot.viCount → s.arg.tag ≠ 0 → (∀ p ∈ s.purges, p.vi ≠ s.arg.vi ∨ p.tag ≠ s.arg.tag) → ∃ u n, exec .purge s = .next u ∧
    u.purges = { vi := s.arg.vi, tag := s.arg.tag, code := 3, ia := 0, count := n, since := s.now, seen := false } :: s.purges ∧
    u.overflow = s.overflow.filter (fun e => !(e.1 = s.arg.vi && e.2.1 = s.arg.tag)) ∧
    (∀ b, (s.blocks.find b).isSome = true → (s.block b).vi = s.arg.vi → (s.block b).tag = s.arg.tag → (s.block b).st ≠ .gone →
      (s.block b).service = false → (u.block b).ending = true ∧ (u.block b).failed = true) ∧
    (∀ h t, s.tasks.find h = some t → t.tr.vi = s.arg.vi → t.tr.tag = s.arg.tag →
      u.tasks.find h = some { t with failed := true, ended := true, next := t.tr.gx * t.tr.gy * t.tr.gz }) ∧
    u.mem = s.mem ∧ u.homes = s.homes) ∧
  (∀ (s : State) p, p ∈ s.purges → p.vi = s.arg.vi → p.tag = s.arg.tag → (∀ q ∈ s.purges, q.vi = p.vi → q.tag = p.tag → q = p) →
    s.purgeLeft p.vi p.tag = false →
    exec .purgeReport s = .next (({ s with purges := s.purges.filter (· ≠ p) } : State).event p.vi 3 p.code p.tag 0 (BitVec.ofNat 64 p.ia)
      (BitVec.ofNat 64 p.count))) ∧
  (∀ (s : State) t, let vi := s.arg.vi
    let v := s.vi vi
    v.batchAt = some t → t + 14000 ≤ s.now →
    let u := (s.modVi vi (fun v => { v with batchAt := none, batchN := 0 })).event vi 6 0 0 0 (v.fbtail.setWidth 64) (BitVec.ofNat 64 v.batchN)
    exec .faultBatchClose s = .next (if v.fh then { u with cores := u.cores.map (fun e =>
      (e.1, if e.1 % 33 = 32 then { e.2 with latch := true } else e.2)) } else u))

namespace Sys2Proof.Rules

/-! ## Saves, restores and Tamper -/

/-- What a save takes from the core for a block (R283, R308, R356): its notices, queues and presentations are withdrawn. -/
def withdrawn (s : State) (n : Nat) : State := ((s.withdrawNotices n).closeQueues n).withdraw n

/-- The address of a block's save slot (R403). -/
def slotBase (s : State) (n k : Nat) : Nat :=
  let v := s.vi (s.block n).vi
  v.savebase.toNat + k * (v.savecfg.toNat / 2 ^ 16 % 2 ^ 16 * 4096)

/-- What stands in a slot for a block that a placement `p` restores (R225, R227, R405, R406): it is resident there, every lane and
register is as its context says, and its spans hold the slot's bytes. -/
structure Restored (s u : State) (n k : Nat) (p : Placement) : Prop where
  where' : (u.block n).st = .resident ∧ (u.block n).core = p.core ∧ (u.block n).rbase = p.rbase ∧ (u.block n).stopping = false ∧
    (u.block n).reason = .none ∧ (u.block n).restores = (s.block n).restores + 1
  lanes : ∀ w f l, w < (s.block n).warps.length → f < (s.warp n w).fibs.length → l < (s.fib ⟨n, w, f⟩).lanes.length →
    let d := s.devBytes (slotBase s n k + 0x1000 + 2048 * (4 * w + f)) 2048
    ((u.fib ⟨n, w, f⟩).lane l).pc = BitVec.ofNat 57 (dfld d (1024 + 8 * l) 8) ∧
    ((u.fib ⟨n, w, f⟩).lane l).sr = BitVec.ofNat 32 (dfld d (1536 + 4 * l) 4) ∧
    ((u.fib ⟨n, w, f⟩).lane l).preds = BitVec.ofNat 15 (dfld d (1792 + 2 * l) 2)
  uniforms : ∀ w f i, w < (s.block n).warps.length → f < (s.warp n w).fibs.length → i < 64 →
    (u.fib ⟨n, w, f⟩).ureg i = BitVec.ofNat 32 (dfld (s.devBytes (slotBase s n k + 0x1000 + 2048 * (4 * w + f)) 2048) (4 * i) 4)
  registers : ∀ i < (s.block n).rspan, (u.core p.core).uni.read (p.rbase + i) = s.devByte (slotBase s n k + 0x28000 + i)
  scratch : ∀ i < (s.block n).sspan, (u.core p.core).uni.read (p.sbase + i) =
    s.devByte (slotBase s n k + 0x28000 + ((s.block n).rspan + 4095) / 4096 * 4096 + i)

/-- Core `i` of a die may be taken by Tamper (R410). -/
def inService (s : State) (d i : Nat) : Bool := s.coreLive (33 * d + i) && (s.core (33 * d + i)).tamper == .inService

/-- The core a turn takes (R410): the lowest-numbered deferred one, else the next in rotation. -/
def TurnTakes (s : State) (d i : Nat) : Prop :=
  i < 32 ∧ inService s d i = true ∧
  ((0 < (s.core (33 * d + i)).deferred ∧ ∀ j < i, inService s d j = true → (s.core (33 * d + j)).deferred = 0) ∨
   ((∀ j < 32, inService s d j = true → (s.core (33 * d + j)).deferred = 0) ∧
    ∃ k < 32, i = ((s.die d).rotation + 1 + k) % 32 ∧ ∀ m < k, inService s d (((s.die d).rotation + 1 + m) % 32) = false))

/-- A core as its scan leaves it (R411, R412). -/
def scanned (x : Core) (t : Dword) (st : TamperSt) : Core :=
  { x with tlog := [], tvis := 0, tall := false, tpass := t, deferred := 0, tamper := st }

/-- The 32 bytes of a slot header's first half and more (R404). -/
def headerBytes (s : State) (b : Block) (state : Nat) : List Byte :=
  let reason : Nat := match b.reason with | .none => 0 | .preempt => 1 | .tamper => 2 | .migrate => 3 | .group => 4
  let iovf := b.banks.zipIdx.foldl (fun a e => a + (if (s.core b.core).iovf.getD e.1 false then 2 ^ e.2 else 0)) 0
  leBytes 1 state ++ leBytes 1 reason ++ leBytes 2 b.tag.toNat ++ leBytes 1 b.vi ++ leBytes 1 b.rank ++ leBytes 2 0 ++ leBytes 4 b.ix ++
    leBytes 2 b.iy ++ leBytes 2 b.iz ++ leBytes 4 b.task ++ leBytes 4 iovf ++ leBytes 8 b.epoch.toNat ++ leBytes 8 b.start.toNat ++ leBytes 24 0

/-- What a save writes of a block, by offset in its slot, before the spans (R403 to R405): the header, the context of each fibre with the
fault record of a frozen one, the barrier records of the block, of its cluster from rank 0 and of its grid from the first block, the
tables, the fibre barriers. -/
def slotRecords (s : State) (n state : Nat) : List (Nat × List Byte) :=
  let b := s.block n
  let fibres := (b.warps.zipIdx.flatMap (fun w => w.1.fibs.zipIdx.map (fun f => (4 * w.2 + f.2, f.1))))
  [(0, headerBytes s b state), (0x60, leBytes 32 0), (0x27E00, leBytes 512 0)] ++
  fibres.flatMap (fun f => (if f.2.st = .frozen then [(0x80 + 32 * f.1, f.2.frec.bytes)] else []) ++ [(0x1000 + 2048 * f.1, f.2.context s.now)]) ++
  (List.range (4 * b.warps.length)).map (fun i => (0x21000 + 64 * i, (b.bars.get i {}).bytes n)) ++
  (if b.rank = 0 then (List.range 16).map (fun i => (0x22000 + 64 * i, (s.bar n .c i).bytes n)) else []) ++
  (if b.coop ∧ b.ix = 0 ∧ b.iy = 0 ∧ b.iz = 0 then (List.range 4).map (fun i => (0x22400 + 64 * i, (s.bar n .d i).bytes n)) else []) ++
  [(0x23000, s.tableBytes n)] ++
  b.warps.zipIdx.flatMap (fun w => (List.range 4).map (fun i =>
    (0x27C00 + 32 * w.2 + 8 * i, leBytes 4 ((w.1.fbar i).part.toNat + 16 * (w.1.fbar i).arr.toNat) ++ leBytes 4 (w.1.fbar i).phase.toNat)))

/-- The spans of a block, in the order of its slot (R403): offset in the slot, address in the core's store, bytes, and whether the store
is the accumulator's. -/
def slotSpans (b : Block) : List (Nat × Nat × Nat × Bool) :=
  let up (x : Nat) := (x + 4095) / 4096 * 4096
  [(0x28000, b.rbase, b.rspan, false), (0x28000 + up b.rspan, b.sbase, b.sspan, false)] ++
  b.banks.zipIdx.map (fun e => (0x28000 + up b.rspan + up b.sspan + 524288 * e.2, 524288 * e.1, 524288, true))

/-- A slot as a save leaves it: the records, then the spans byte by byte with their poison, written by the device. -/
def slotWritten (s : State) (n k state : Nat) : State :=
  let b := s.block n
  let base := slotBase s n k
  let u := (slotRecords s n state).foldl (fun u e => (u.devWrite (base + e.1) e.2 s.h false (b.vi, b.tag)).1) s
  (slotSpans b).foldl (fun u e =>
    let bytes := (List.range e.2.2.1).map (fun i => (s.storeByte b.core (e.2.1 + i) e.2.2.2, s.storePoison b.core (e.2.1 + i) e.2.2.2))
    (layRuns [{ kind := 0, core := b.core, place := base + e.1, n := e.2.2.1 }] bytes).foldl (fun u r =>
      (u.devWrite r.addr r.bytes s.h r.poison (b.vi, b.tag)).1) u) u

end Sys2Proof.Rules

/-- A fibre context holds what R405 lists: it is 2,048 bytes, and read back it gives the lanes, registers, predicates, masks,
counters, tokens, trap registers and state of the fibre, its times raised as R382 says, and a frozen one has been frozen for as
long (R177). -/
def Obligations.FibreContexts : Prop :=
  ∀ (f : Fibre) (rec' : FaultRec) (h : Time) (now later : Nat), f.lanes.length ≤ 64 →
    let d := f.context now
    let g := f.reload d rec' false h later
    (f.st = .frozen → now - f.frozenAt + f.frozenFor < 2 ^ 63 → g.frozenAt = later ∧ g.frozenFor = now - f.frozenAt + f.frozenFor) ∧
    d.length = 2048 ∧ g.lanes = f.lanes ∧ (∀ i < 64, g.ureg i = f.ureg i) ∧ g.q = f.q ∧ g.x = f.x ∧ g.fpcs = f.fpcs ∧ g.g = f.g ∧
    g.ptime = (if precedes f.ptime h then h else f.ptime) ∧ g.st = f.st ∧ g.trap = f.trap ∧ g.raOn = f.raOn ∧
    g.tpc = f.tpc ∧ g.tcause = f.tcause ∧ g.tval = f.tval ∧ g.tpend = f.tpend ∧ g.tpval = f.tpval ∧
    (∀ i < 4, g.wp.get i {} = f.wp.get i {} ∧ g.tok.find i = f.tok.find i) ∧ (∀ j < 8, g.mask j = f.mask j) ∧
    (∀ k < 16, g.ctr k = { f.ctr k with kt := atLeast (h - 0x40000000) (f.ctr k).kt })

/-- Blocks on the move (R318, R326, R357, R382, R392, R403 to R406, R411): a block at rest with its engines done is saved, displaced
or lands; a saved one returns to a placement that fits, ahead of it the displaced ones; one in a landing slot goes to a core of
its die.
Where the spec leaves it open it rests on the model's choices of log 53, log 54, log 72, log 77. -/
def Obligations.BlockMoves : Prop :=
  (∀ s : State, let n := s.arg.blk
    let b := s.block n
    (s.blocks.find n).isSome = true → b.st = .resident → b.ending = false → b.stopping = true →
    (∀ w ∈ b.warps, ∀ f ∈ w.fibs, f.st = .ended ∨ f.st = .frozen ∨ (f.sec = none ∧ f.midway = false)) →
    b.reason = .migrate ∨ s.groupOf n = [n] → (withdrawn s n).quiet n = true → (withdrawn s n).groupPushing n = false → (withdrawn s n).releasing n = none →
    ∃ u, exec .blockSave s = .next u ∧ (u.block n).st = (if b.reason = .migrate then .landing else if b.reason = .tamper then .displaced else .saved) ∧
      (u.block n).stopping = false ∧ (u.block n).epoch = s.epoch ∧ (u.block n).banks = [] ∧ (u.block n).saveSlot = b.saveSlot ∧
      (∀ w ∈ (u.block n).warps, w.pend = [] ∧ w.side = []) ∧ (u.block n).warps.length = b.warps.length ∧
      (∀ e ∈ (u.core b.core).tabOwner ++ (u.core b.core).bookOwner, e.2 ≠ n) ∧
      (∀ k, b.saveSlot = some k → (s.vi b.vi).bind = none →
        let w := slotWritten (((withdrawn s n).released n).modBlock n (fun x => { x with epoch := s.epoch })) n k
          (if b.reason = .tamper then 3 else 2)
        u.mem = w.mem ∧ u.homes = w.homes ∧ u.devq = w.devq ∧ u.evicts = w.evicts ∧ u.bridge = w.bridge)) ∧
  (∀ (s : State) p k, let n := s.arg.blk
    let b := s.block n
    s.mayReturn n = true → s.returning n = [n] → b.st = .displaced ∨ s.displacedFit = false → s.arg.places = [p] → s.handOver [p.core] = none →
    s.unitSound [(b.clusterKey, p)] = true → s.placeOk b p = true → b.saveSlot = some k →
    s.readable (s.slotRun n).1 (s.slotRun n).2 = true →
    ∃ u, exec .blockRestore s = .next u ∧ Restored s u n k p) ∧
  (∀ (s : State) p k d, let n := s.arg.blk
    let b := s.block n
    (s.blocks.find n).isSome = true → b.st = .landing → b.landing = some d → b.ending = false → (s.vi b.vi).run = true → s.arg.places = [p] →
    p.core / 33 = d → s.handOver [p.core] = none → s.unitSound [(b.clusterKey, p)] = true → s.placeOk b p = true → b.saveSlot = some k →
    s.readable (s.slotRun n).1 (s.slotRun n).2 = true →
    ∃ u, exec .migrateArrival s = .next u ∧ Restored s u n k p ∧ (u.block n).landing = none ∧ (u.die d).landed = (s.die d).landed - 1)

namespace Sys2Proof.Rules

/-! ## The host -/

/-- The line has a home copy `h` in device bias, sectors it had dropped fetched again, and no flip of its page is under way (R385, R418,
R420). -/
structure InDevice (s : State) (line : Nat) (h : Home) : Prop where
  copy : ∃ x, s.homes.find line = some x ∧ h = s.whole x
  slice : isIdentity (line * 128) = false ∧ isHostWindow (line * 128) = false
  still : s.flipping (line * 128) = false
  sound : s.brokenPage (line * 128) = false

/-- A host line leaves the bridge (R416): M data go to the host, and the bridge's time passes its lease. -/
def hostLineGone (s : State) (line : Nat) (h : HostLine) : State :=
  { s with bridge := { s.bridge with
    toHost := if h.st = .m then (line, h.data) :: s.bridge.toHost else s.bridge.toHost
    bt := tmax s.bridge.bt (h.rt + 1)
    lines := s.bridge.lines.erase line } }

/-- May the standby head adopt now (R425)? -/
def adoptable (s : State) : Prop :=
  s.bridge.adoptForbidden = false ∧ (s.bridge.adopten = true ∨ s.bridge.releaseReq = true ∨
    (s.bridge.links.getD s.bridge.active false = false ∧ s.bridge.downAt + 70000000 ≤ s.now))

end Sys2Proof.Rules

namespace Sys2Proof.Rules

/-! ## The fabric -/

/-- The instruction has retired after its release at `.s` (R421, R460): BT takes the fibre's ptime. -/
def retiredS (c : Ctx) : State :=
  let t := c.retire (settled c)
  { t with bridge := { t.bridge with bt := tmax t.bridge.bt c.fib.ptime } }

/-- The offset that a lane of PATOM forms (R461). -/
def peerOffset (c : Ctx) (l : Nat) : Int :=
  (c.va l % 2 ^ 41 : Nat) + (match c.f.b with | .imm x => sext 16 x.toNat | _ => sext 32 (c.vb l))

/-- The fabric with a part changed. -/
def withFabric (s : State) (g : Fabric → Fabric) : State := { s with fabric := g s.fabric }
/-- A port as the fabric has it. -/
def portOf (s : State) (p : Nat) : Port := s.fabric.ports.get p {}
/-- The state with a port replaced. -/
def setPort (s : State) (p : Nat) (x : Port) : State := withFabric s (fun f => { f with ports := f.ports.set p x })
/-- Does the port carry traffic (R447)? -/
def upPort (s : State) (p : Nat) : Bool := decide (p < 96) && (portOf s p).st == .up

/-- The candidate ports of an entry that are Up, ascending (R449). -/
def upCands (s : State) (e : Route) : List Nat := (List.range 96).filter (fun p => e.cand.getLsbD p && upPort s p)

/-- The code of a channel in the table of credits. -/
def chan (v : Vc) : Nat := match v with | .classO => 0 | .classU => 1 | .escape => 2 | .mgmt => 3

/-- The next flit of a port: its header takes the acknowledgement, the negative acknowledgement and the credits of its channel that are due
(R446; what the header holds is the model's choice, log 83). -/
def flitOf (x : Port) (v : Vc) (k : Option Packet) (part : Bool) : Flit :=
  { vc := v, seq := x.txSeq, good := true, ack := if x.rxSeq = 0 then none else some (x.rxSeq - 1), nack := x.nacks.head?
    credit := x.owed.get (chan v) 0, packet := k, part := part }
/-- A flit leaves: the replay buffer keeps it, and one with a payload spends a credit (R446, R450). -/
def puts (x : Port) (fl : Flit) : Port :=
  { x with
    replay := x.replay ++ [fl], txSeq := x.txSeq + 1, nacks := [], ackDue := false, owed := x.owed.erase (chan fl.vc)
    credits := if fl.packet.isSome = true ∨ fl.part = true then x.credits.set (chan fl.vc) (x.credits.get (chan fl.vc) 0 - 1) else x.credits }
/-- Flits of a packet: 232 bytes of its data in each (R446, log 83). -/
def flitCount (k : Packet) : Nat :=
  max 1 (((match k.body with
    | .write _ d _ => d.length | .data d _ => d.length | .atom _ _ _ vs => 16 * vs.length | .olds vs _ => 8 * vs.length | _ => 0) + 231) / 232)
/-- The first `n` flits of a packet leave by a port; the last flit completes it. -/
def sends (x : Port) (k : Packet) (n : Nat) : Port :=
  (List.range n).foldl (fun x i => puts x (if i + 1 = flitCount k then flitOf x k.vc (some k) false else flitOf x k.vc none true)) x
/-- What is due to the partner goes in flits without payload: credits of each channel, then a negative acknowledgement or an acknowledgement
(log 83). -/
def tells (x : Port) : Port :=
  let y := [Vc.classO, .classU, .escape, .mgmt].foldl (fun (x : Port) v =>
    if x.owed.get (chan v) 0 = 0 ∨ 256 ≤ x.replay.length then x else puts x (flitOf x v none false)) x
  if (y.nacks = [] ∧ y.ackDue = false) ∨ 256 ≤ y.replay.length then y else puts y (flitOf y .mgmt none false)
/-- A port that is Up tells its partner. -/
def told (s : State) (p : Nat) : State := if upPort s p = true then setPort s p (tells (portOf s p)) else s

/-- Class-O requests on their way to some modules make their source hold back new ones (R451). -/
def holds (s : State) (to' : Nat → Bool) : State :=
  withFabric s (fun f => { f with reqs := f.reqs.map (fun e => (e.1,
    if e.2.packet.vc = .classO ∧ 0 < e.2.sends ∧ to' e.2.packet.dst = true then { e.2 with old := true } else e.2)) })
/-- Does a port carry what goes to a module (R451)? -/
def candOf (s : State) (p d : Nat) : Bool := (s.fabric.routes.get d {}).cand.getLsbD p

/-- Nothing waits at the port, and no manager is named. -/
def quietPort (s : State) (p : Nat) : Prop := (∀ e ∈ s.fabric.transit, e.2.port ≠ p) ∧ (∀ n < 8, (s.fabric.mgrs.get n (0, false)).2 = false)

/-- A packet for this module (R449). -/
def delivered (s : State) (from' : Option Nat) (k : Packet) : State :=
  withFabric s (fun f => { f with inbox := f.inbox.set f.nextT { port := from', packet := k }, nextT := f.nextT + 1 })
/-- No class-O packet of the same pair is before this one among those for this module (R451). -/
def InTurn (s : State) (id : Nat) (k : Packet) : Prop :=
  k.classO = true → ∀ e ∈ s.fabric.inbox, e.1 < id → e.2.packet.classO = true → e.2.packet.src = k.src → e.2.packet.dst ≠ k.dst
/-- A packet taken from those for this module. -/
def taken (s : State) (id : Nat) : State := withFabric s (fun f => { f with inbox := f.inbox.erase id })
/-- A request that has ended. -/
def reqGone (s : State) (id : Nat) : State := withFabric s (fun f => { f with reqs := f.reqs.erase id })
/-- A completed request of another module is kept with its reply and the VI that answers, the last 1,024 of each source (R452). -/
def kept (s : State) (k : Packet) (vi : Nat) (b : PktBody) : State :=
  withFabric s (fun f => { f with doneRecs := (k.src, k.engine, k.seq, vi, b) ::
    ((f.doneRecs.filter (fun e => e.1 = k.src)).take 1023 ++ f.doneRecs.filter (fun e => e.1 ≠ k.src)) })

/-- A request of PATOM that is refused or lost (R461): its lanes take zero, with a fault record of cause 9 for each. -/
def peerLost (s : State) (r : FRef) (ptr : Dword) (lanes : List Nat) (d words : Nat) : State :=
  let b := s.block r.blk
  lanes.foldl (fun s _ => s.faultRecord b.vi ptr.toNat 0 9 false b.tag b.task)
    (s.landEffs r (lanes.flatMap (fun l => vregEffs d words l 0)))

/-- An inbound access of `n` bytes at a peer pointer is admitted, and leads to `ia` (R455, R456). -/
structure Admitted (s : State) (k : Packet) (ptr : Dword) (n : Nat) (perm : PeerWin → Bool) (ia : Nat) : Prop where
  run : (s.vi (ptr.toNat / 2 ^ 45 % 64)).run = true
  place : ia = ((s.vi (ptr.toNat / 2 ^ 45 % 64)).wins.get (ptr.toNat / 2 ^ 41 % 16) {}).ia + ptr.toNat % 2 ^ 41
  window : let w := (s.vi (ptr.toNat / 2 ^ 45 % 64)).wins.get (ptr.toNat / 2 ^ 41 % 16) {}
    w.gran ≠ 0 ∧ (w.anyDev = true ∨ w.idev.toNat = k.src) ∧ (w.anyVi = true ∨ w.ivi.toNat = k.vi) ∧ perm w = true ∧
      ptr.toNat % 2 ^ 41 + n ≤ w.gran * 65536
  page : ∀ a, ia ≤ a → a < ia + n → s.lineHome (a / 65536 * 512) = .slice .manual true
  some' : 0 < n

end Sys2Proof.Rules

/-- The forms of the fabric (R443, R444, R448, R451, R455, R459 to R461): MCST and MRED issue a command with their list, PCPY one with its
descriptor; PNOTIFY sends a class-O notice after a release at .s, PATOM a class-O request for each word, its lanes ascending.
Where the spec leaves it open it rests on the model's choices of log 40, log 41. -/
def Obligations.FabricForms : Prop :=
  (∀ o ∈ [Op.mcst, .mred], ∀ f s c u bs t ps v more t', Ready o f s c → c.mayCommand .copy = true →
    DescRead c (c.va 0) 16 u bs t → (bs.headD (0, false)).1.toNat ≤ 8 →
    u.enginePieces c.blk 0 ((c.va 0 : Nat) + 16) (16 * (bs.headD (0, false)).1.toNat) Range.r = .ok ps →
    u.clearing c.blk.core c.fib.ptime ps false = none → u.readPieces c.blk.core c.fib.ptime ps = (v, more, t') → more.any Prod.snd = false →
    let m := issued c .copy (c.va 0) (c.vb 0) 0 (bs ++ more) (tmax t t')
    let off : Nat := m.b.toNat % 2 ^ 32
    exec (o.instr f) s = .next ((c.retire v).accept { m with
      reads := if o = .mcst ∧ listCheck m = 0 then c.blk.regionOf 1 (off : Int) ((off : Int) + (dfld m.desc 2 2 : Nat)) else [] })) ∧
  (∀ f s c u bs t, Ready .pcpy f s c → c.mayCommand .copy = true → DescRead c (c.va 0) 32 u bs t →
    let m := issued c .copy (c.va 0) (c.vb 0) (c.vc 0) bs t
    let da : Nat := dfld m.desc 8 8
    exec (.pcpy f) s = .next ((c.retire u).accept { m with
      writes := if pcpyCheck m.desc = 0 then c.blk.regionOf (dfld m.desc 20 1) (da : Int) ((da : Int) + (dfld m.desc 16 4 : Nat)) else [] })) ∧
  (∀ f s c, Ready .pnotify f s c → canRelease c .s → s.peersPending c.r = false →
    let t := c.vb 0 % 2 ^ 32
    let q := upredOf f.d
    let id := (s.warp c.r.blk c.r.warp).nextPend
    (t / 2 ^ 13 % 8 ≠ 0 ∨ t / 2 ^ 22 ≠ 0 ∨ 63 < vectorOf c →
      exec (.pnotify f) s = .next (s.raise c.r 1 (Op.pnotify.code.setWidth 64) c.pc c.path false 0)) ∧
    (t / 2 ^ 13 % 8 = 0 → t / 2 ^ 22 = 0 → vectorOf c ≤ 63 → exec (.pnotify f) s =
      .next (((retiredS c).addPend c.r { fib := c.r.fib, dq := if q = 15 then [] else [q], entries := 1, since := s.now, body := .answer false }).fabSend
        c.blk.core (.pnotify c.r q id) c.blk.vi c.blk.tag (t % 2 ^ 13) .classO
        (.notice (t / 2 ^ 16 % 64) (vectorOf c) (BitVec.ofNat 32 (c.vb 0 / 2 ^ 32)))))) ∧
  (∀ f s c, Ready .patom f s c → c.poisoned = false → s.memHeld c.r false = false → f.x.scope = .s → f.x.order ≠ .sc →
    (releases c = true → s.peersPending c.r = false ∧ canRelease c .s) →
    (∀ l ∈ c.lanes, 0 ≤ peerOffset c l ∧ peerOffset c l < 2 ^ 41 ∧ (peerOffset c l).toNat % c.size = 0) →
    let off (l : Nat) : Nat := (peerOffset c l).toNat
    let id := (s.warp c.r.blk c.r.warp).nextPend
    let u := (if releases c then retiredS c else did c).addPend c.r
      { fib := c.r.fib, dv := (List.range c.dw).map (fun k => (destReg c + k, c.act)), entries := 1, since := s.now
        body := .answer (f.x.order == .acq || f.x.order == .ar) }
    exec (.patom f) s = .next ((c.lanes.map off).eraseDups.foldl (fun (t : State) o =>
      let mine := c.lanes.filter (fun l => off l = o)
      let ptr := BitVec.ofNat 64 (c.va (c.lanes.headD 0) / 2 ^ 41 * 2 ^ 41 + o)
      t.fabSend c.blk.core (.patom c.r id mine o false) c.blk.vi c.blk.tag (ptr.toNat / 2 ^ 51) .classO
        (.atom ptr (BitVec.ofNat 4 f.x.aop) f.x.ty (mine.map (fun l =>
          BitVec.ofNat 64 (atomOperands c (f.x.aop = 9) l).2 ++ BitVec.ofNat 64 (atomOperands c (f.x.aop = 9) l).1)))) u))

namespace Sys2Proof.Rules

/-! ## Control registers, boot and power -/

/-- A control address that names a register of the table (R471): a live die's core, a live chiplet, the I/O dies. -/
abbrev controlAddress (s : State) (ca : Nat) : Prop :=
  let k := ca / 2 ^ 36
  let unit := ca / 2 ^ 30 % 64
  let off := ca % 2 ^ 30
  ca < 2 ^ 40 ∧
    ((k < 6 ∧ s.boot.dies.getLsbD k = true ∧ unit ≤ 32 ∧ off < 0x10000) ∨
     (6 ≤ k ∧ k < 14 ∧ s.boot.chiplets.getLsbD (k - 6) = true ∧ unit = 0 ∧ off < 0x10000) ∨
     (k = 14 ∧ unit = 0 ∧ off < 0x300000) ∨ (k = 15 ∧ unit = 0 ∧ off < 0x10000))

/-- TYPE and VERSION of a record, and its body, from the record's bytes (R463). -/
def recType (r : CfgRecord) : Nat := dfld r.bytes 4 2
/-- VERSION. -/
def recVersion (r : CfgRecord) : Nat := dfld r.bytes 8 8
/-- The body. -/
def recBody (r : CfgRecord) : List Byte := (r.bytes.drop 16).take (dfld r.bytes 6 2)
/-- A record begins with its magic, and holds its body and two signatures of 64 and 3,309 bytes (R463). -/
abbrev FormedRecord (r : CfgRecord) : Prop := r.bytes.take 4 = [0x4B, 0x43, 0x46, 0x47] ∧ r.bytes.length = 16 + dfld r.bytes 6 2 + 64 + 3309
/-- Both keys match their digests and both signatures verify (R463). -/
abbrev Verified (x : SigCheck) : Prop := x.edKey = true ∧ x.edSig = true ∧ x.mlKey = true ∧ x.mlSig = true
/-- A record of the store is accepted (R463, R464). -/
abbrev Accepted (st : BootStore) (r : CfgRecord) : Prop :=
  FormedRecord r ∧ Verified r.sig ∧ st.rollback.get (recType r) 0 ≤ recVersion r ∧ cfgBody (recType r) (recBody r) = true

/-- `r` is the record of its type that applies: accepted, and of the highest version (R463). -/
abbrev Applies (st : BootStore) (r : CfgRecord) : Prop :=
  r ∈ st.records ∧ Accepted st r ∧ ∀ q ∈ st.records, recType q = recType r → Accepted st q → q ≠ r → recVersion q < recVersion r

/-- A register that a head reaches from outside (R390, R422, R471): a page of a VI, or its own bridge page, once Carafe runs. -/
abbrev headReaches (s : State) (head ca : Nat) : Prop :=
  s.boot.ready = true ∧ ca % 8 = 0 ∧ ((14 * 2 ^ 36 + 0x100000 ≤ ca ∧ ca < 14 * 2 ^ 36 + 0x140000) ∨
    (head < 2 ∧ 14 * 2 ^ 36 + 0x200000 + 0x1000 * head ≤ ca ∧ ca < 14 * 2 ^ 36 + 0x201000 + 0x1000 * head))

/-- What a read of a register page by a head gives. -/
def pageRead (s : State) (bs : List Byte) : State :=
  { s with bridge := { s.bridge with lastRead := bs, lastPoison := false, lastCacheable := false } }

/-- The state a fetched word's instruction begins in: the word is no longer in the hand, and the path issues. -/
def atIssue (s : State) (r : FRef) (pc : VA) (late : Bool) : State :=
  { s.modFib r (fun f => { f with fetched := none }) with cur := ⟨r, pc, late⟩ }

/-- The state after a move has been taken from the agenda. -/
def moveTaken (s : State) (rest : List Move) : State := { s with agenda := rest }

end Sys2Proof.Rules

/-- Control registers (R8, R390, R422, R466, R468, R471 to R474): CSRR reads and CSRW writes the register a control address names, RNG
where it names none and ALN where it is misaligned; a head writes and reads the VI pages and its own bridge page, and reads its device
page; the registers of the chiplet and bridge pages and of a core; FEATACC keeps what is offered.
Where the spec leaves it open it rests on the model's choices of log 44, log 95. -/
def Obligations.ControlRegisters : Prop :=
  (∀ f s c, let ca := c.va 0
    (Ready .csrr f s c → c.poisoned = false → c.late = false → c.blk.ns = false → controlAddress s ca → ca % 8 = 0 →
      s.accessing c.r = false → s.memHeld c.r false = false →
      ∃ t, exec (.csrr f) s = .next t ∧ After c { effs := destEffs c.d 2 0 (s.csr ca).toNat } t) ∧
    (Ready .csrw f s c → c.poisoned = false → c.blk.ns = false → controlAddress s ca → ca % 8 = 0 →
      s.accessing c.r = false → s.memHeld c.r false = false → s.csrWaits ca (BitVec.ofNat 64 (c.vb 0)) = none →
      exec (.csrw f) s = .next ((did c).csrPut ca (BitVec.ofNat 64 (c.vb 0)))) ∧
    (∀ o ∈ [Op.csrr, .csrw], Ready o f s c → c.poisoned = false →
      (c.blk.ns = true ∨ ¬ controlAddress s ca → exec (o.instr f) s = .next (s.raise c.r 9 (accessTval true 0 ca) c.pc c.path false 0)) ∧
      (c.blk.ns = false → controlAddress s ca → ca % 8 ≠ 0 → exec (o.instr f) s = .next (s.raise c.r 3 (accessTval true 0 ca) c.pc c.path false 0)))) ∧
  (∀ s : State, let ca := s.arg.address.toNat
    (¬ headReaches s s.arg.head ca → exec .registerWrite s = .next s) ∧
    (headReaches s s.arg.head ca → s.csrWaits ca s.arg.value = none → exec .registerWrite s = .next (s.csrPut ca s.arg.value)) ∧
    (s.arg.flag = true → ca ≠ 0 → headReaches s s.arg.head ca → exec .hostCxlMemRead s = .next (pageRead s (leBytes 8 (s.csr ca).toNat))) ∧
    (s.arg.flag = true → ca ≠ 0 → ¬ headReaches s s.arg.head ca → exec .hostCxlMemRead s = .next s)) ∧
  (∀ s : State, s.arg.flag = true → s.arg.address = 0 →
    (s.boot.step = 0 → exec .hostCxlMemRead s = .next s) ∧
    (0 < s.boot.step → s.arg.index = 0x40 → exec .hostCxlMemRead s = .next (pageRead s (leBytes 8
      ((if s.boot.err then 1 else 0) + (if s.boot.nolive then 2 else 0) + (if s.boot.cfbad then 4 else 0) + (if s.boot.ready then 8 else 0) +
        2 ^ 8 * s.boot.step + 2 ^ 16 * s.boot.detail.toNat)))) ∧
    (0 < s.boot.step → ∀ i < 4, (s.arg.index = 8 * i → exec .hostCxlMemRead s =
        .next (pageRead s (leBytes 8 (s.boot.offered.toNat / 2 ^ (64 * i))))) ∧
      (s.arg.index = 0x20 + 8 * i → exec .hostCxlMemRead s = .next (pageRead s (leBytes 8 (s.boot.featacc.toNat / 2 ^ (64 * i))))))) ∧
  (∀ (s : State) (v : Dword) k, 6 ≤ k → k < 14 →
    let ca := k * 2 ^ 36
    s.csr ca = (s.chiplet k).ttroot ∧ s.csr (ca + 8) = (s.chiplet k).mtime ∧ s.csr (ca + 0x20) = (s.chiplet k).cecnt ∧
    s.csr (ca + 0x38) = BitVec.ofNat 64 (s.chiplet k).tlb.length ∧
    s.csrPut ca v = s.modChiplet k (fun x => { x with ttroot := v &&& 0x00000FFFFFFF0001 }) ∧
    s.csrPut (ca + 0x20) v = (if v = 0 then s.modChiplet k (fun x => { x with cecnt := 0 }) else s) ∧ s.csrPut (ca + 8) v = s) ∧
  (∀ (s : State) (v : Dword) d n, d < 6 → n < 33 →
    let ca := d * 2 ^ 36 + n * 2 ^ 30
    (s.csr ca).getLsbD 0 = (s.coreLive (33 * d + n) && (s.core (33 * d + n)).tamper == .inService) ∧
    (s.csr ca).getLsbD 1 = ((s.core (33 * d + n)).tamper == .quarantined) ∧ (s.csr ca).getLsbD 2 = ((s.core (33 * d + n)).tamper == .draining) ∧
    s.csr (ca + 0x10) = (if (s.core (33 * d + n)).latch then 1 else 0) ∧ s.csr (ca + 0x30) = (s.core (33 * d + n)).cecnt ∧
    s.csr (ca + 0x18) = BitVec.ofNat 64 (700 - 50 * s.throttle) ∧
    s.csrPut (ca + 8) v = s.modCore (33 * d + n) (fun x => { x with latch := true })) ∧
  (∀ (s : State) (v : Dword), let ca := 14 * 2 ^ 36 + 0x200000 + 0x1000 * s.bridge.active
    s.bridge.active < 2 →
    s.csr (ca + 0x20) = s.bridge.bt ∧ s.csr (ca + 0x10) = s.bridge.hobase ∧
    s.csrPut (ca + 0x10) v = { s with bridge := { s.bridge with hobase := BitVec.ofNat 64 (v.toNat / 4096 * 4096) } } ∧
    s.csrPut (ca + 0x40) v = { s with bridge := { s.bridge with cfstage := v } } ∧ s.csrPut (ca + 0x20) v = s) ∧
  (∀ s : State, s.boot.ready = true → (∀ v < s.boot.viCount, (s.vi v).drained = true) → ∃ x, exec .feataccWrite s = .next { s with boot := { s.boot with featacc := x } } ∧
    ∀ i < 256, x.getLsbD i = (i == 0 || (s.arg.feat.getLsbD i && s.boot.offered.getLsbD i))) ∧
  (∀ (s : State) v, v < s.boot.viCount → (s.vi v).drained = false → exec .feataccWrite s = .next s)

/-- Reset, boot, power and telemetry (R383, R463 to R468, R470, R472, R476): RESET gives the state after reset over the memory it finds;
BOOT takes the accepted record of the highest version of each type, without one of type LIVE, or with an image that does not verify,
sets ERR, has the service cores scanned, zeroes TTROOT and starts Carafe's blocks (log 95), one step after the other; at the cap or 105 °C the clock
falls a step, to seven at most; at 115 °C the module stops.
Where the spec leaves it open it rests on the model's choices of log 43, log 45, log 46. -/
def Obligations.ResetBootAndPower : Prop :=
  (∀ s : State, exec .reset s =
    .next { State.reset with mem := s.mem, memPoison := s.memPoison, agenda := s.agenda, turn := s.turn, free := s.free }) ∧
  (∀ s : State, (s.boot.err = true → exec .boot s = .next s) ∧ (s.boot.err = false →
    (s.boot.step = 0 → let st := s.arg.store
      ((∀ r ∈ st.records, recType r = 1 → ¬ Accepted st r) → exec .boot s = .next { s with boot := { s.boot with
        step := 1, store := st, err := true, nolive := true
        detail := BitVec.ofNat 16 (st.records.filter (fun r => decide (FormedRecord r ∧ recType r = 1))).length } }) ∧
      (∀ r, Applies st r → recType r = 1 → ∃ u, exec .boot s = .next u ∧ u.boot.step = 1 ∧ u.boot.err = false ∧ u.boot.store = st ∧
        u.boot.ready = s.boot.ready ∧
        u.boot.dies = BitVec.ofNat 6 (leNat (recBody r)) ∧ u.boot.chiplets = BitVec.ofNat 8 (leNat (recBody r) / 2 ^ 6) ∧
        (∀ d < 6, u.boot.dies.getLsbD d = true → u.boot.slices.find d = some (BitVec.ofNat 16 (leNat (recBody r) / 2 ^ (14 + 49 * d))) ∧
          u.boot.coreMask.find d = some (BitVec.ofNat 33 (leNat (recBody r) / 2 ^ (30 + 49 * d)))) ∧
        ((∀ q ∈ st.records, recType q ≠ 3) → u.boot.tamperS = 60) ∧ (∀ q, Applies st q → recType q = 3 → u.boot.tamperS = leNat (recBody q)) ∧
        ((∀ q ∈ st.records, recType q ≠ 6) → u.boot.viCount = 64) ∧ ((∀ q ∈ st.records, recType q ≠ 7) → u.boot.cap = 3400) ∧
        ((∀ q ∈ st.records, recType q ≠ 2) → u.fabric.devid = 0 ∧ u.fabric.assigned = false))) ∧
    (s.boot.step = 1 →
      (¬ Verified s.boot.store.image.sig → exec .boot s = .next { s with boot := { s.boot with err := true, cfbad := true } }) ∧
      (Verified s.boot.store.image.sig → ∃ u, exec .boot s = .next u ∧ u.boot = { s.boot with step := 2 } ∧
        ∀ d < 6, s.boot.dies.getLsbD d = true → (s.core (33 * d + 32)).tamper ≠ .quarantined → (u.core (33 * d + 32)).tamper = .draining)) ∧
    (s.boot.step = 2 →
      ((∃ d < 6, s.boot.dies.getLsbD d = true ∧ (s.core (33 * d + 32)).tamper = .draining) → exec .boot s = .next s) ∧
      ((∀ d < 6, s.boot.dies.getLsbD d = true → (s.core (33 * d + 32)).tamper ≠ .draining) →
        exec .boot s = .next { s with boot := { s.boot with step := 3 } })) ∧
    (s.boot.step = 3 → exec .boot s = .next { s with
      chiplets := s.chiplets.map (fun e => (e.1, { e.2 with ttroot := 0 })), boot := { s.boot with step := 4 } }) ∧
    (s.boot.step = 4 → ∃ u, exec .boot s = .next u ∧ u.boot.ready = true ∧ u.boot.step = 5 ∧ u.bridge.image = s.boot.store.image.version ∧
      u.boot.offered.getLsbD 0 = true ∧ (∀ i < 256, 6 ≤ i → u.boot.offered.getLsbD i = false) ∧
      (∀ v, u.vis.find v = none ↔ s.boot.viCount ≤ v) ∧
      (let img := s.boot.store.image
       ∀ k rs, kernelOf img.descriptor 0 = some k → rangeSet img.ranges = some rs → img.warps ≤ 16 →
         let b : Block := Task.shape { tr := { warps := img.warps }, ker := k, ranges := rs }
         b.rspan + b.sspan ≤ 3 * 2 ^ 20 - 2 ^ 18 →
         ∀ d < 6, s.boot.dies.getLsbD d = true → s.coreLive (33 * d + 32) = true → (s.core (33 * d + 32)).tamper = .inService →
           ∃ e ∈ u.blocks, e.2.st = .resident ∧ e.2.core = 33 * d + 32 ∧ e.2.service = true ∧ e.2.entries = k.entries ∧ e.2.ranges = rs ∧
             e.2.warps.length = img.warps ∧ e.2.start = s.h)))) ∧
  (∀ s : State, let hot := 1000 * s.boot.cap ≤ s.arg.value2.toNat ∨ 1680 ≤ s.arg.index
    (hot → exec .powerThrottle s = .next { s with throttle := if s.throttle < 7 then s.throttle + 1 else 7 }) ∧
    (¬ hot → exec .powerThrottle s = .next { s with throttle := s.throttle - 1 })) ∧
  (∀ s : State, 1840 ≤ s.arg.index → ∃ u, exec .thermalStop s = .next u ∧ u.stopped = true ∧ u.bridge.links = [false, false] ∧ step u = .fault .moduleStopped) ∧
  (∀ s : State, let t : BitVec 16 := s.arg.value.extractLsb' 0 16
    (s.arg.flag = false → exec .telemetrySample s = .next (s.modCore s.arg.core (fun c => { c with temp := t, power := s.arg.value2 }))) ∧
    (s.arg.flag = true → exec .telemetrySample s = .next (s.modChiplet s.arg.chiplet (fun c => { c with temp := t, power := s.arg.value2 }))))

/-- Decoding and encoding agree (R41 to R53, R60, R61): a well-formed instruction's word decodes to it with every operand, and a word
that decodes is the word of the instruction it decodes to, which is well formed. -/
def Obligations.DecodeAndEncodeAgree : Prop :=
  (∀ (i : Instr) w, i.wf = true → i.encode = some w → w < 2 ^ 96 ∧ decode (leBytes 12 w) = .ok i) ∧
  (∀ w i, w < 2 ^ 96 → decode (leBytes 12 w) = .ok i → i.wf = true ∧ i.encode = some w)

/-- Words written out from the encoding tables (R41 to R52 and the forms' tables) decode to what they stand for: an addition, a
uniform move of an immediate, a load, an exit. -/
def Obligations.WordsDecode : Prop :=
  decodeWord (0x000 + 0xF * 2 ^ 10 + 3 * 2 ^ 24 + 1 * 2 ^ 42 + 2 * 2 ^ 60 + 0xC * 2 ^ 78) =
    .ok (.iadd { d := .v 3 false false false, a := .v 1 false false false, b := .v 2 false false false, x := .mod 0 .none .none false .rne .n32 }) ∧
  decodeWord (0x1C8 + 0xF * 2 ^ 10 + 0x10004 * 2 ^ 24 + 0x20007 * 2 ^ 60 + 0x20000 * 2 ^ 78) =
    .ok (.umovi { d := .u 4 false false false, a := .none, b := .imm 7, x := .immHi 0 }) ∧
  decodeWord (0x100 + 0xF * 2 ^ 10 + 4 * 2 ^ 24 + 0x10002 * 2 ^ 42 + 0x20000 * 2 ^ 60 + 3 * 2 ^ 78) =
    .ok (.ldg { d := .v 4 false false false, a := .u 2 false false false, b := .imm 0, x := .mem 0 .none .none 0 .b32 }) ∧
  decodeWord (0x145 + 0xF * 2 ^ 10) = .ok (.exit {})

/-- A step runs the instruction that its path's word decodes to (R41, R42, R61, R149; which path issues is the agenda's, log 1): one core
cycle passes (log 2), the lead passes where R149 says so, and a path whose turn it is takes its opportunity: the word comes from the path's hand or from memory, the instruction is executed, and what follows by itself
follows; a word that does not decode raises ILL; an event named next is executed; nothing moves after a thermal stop.
Where the spec leaves it open it rests on the model's choices of log 12, log 46. -/
def Obligations.StepRunsTheDecoded : Prop :=
  (∀ (s : State) r pc late rest, s.stopped = false → s.agenda = .issue r pc late :: rest →
    let z := ({ moveTaken s rest with now := s.now + 1 } : State).passLead r
    (z.mayIssue r pc = false ∨ z.turnOf r pc = false → step s = .next (settle exec z)) ∧
    (z.mayIssue r pc = true → z.turnOf r pc = true → let z := z.serve r pc
    (∀ w i t, z.inHand r pc = some w → decodeWord w.toNat = .ok i → exec i (atIssue z r pc late) = .next t → step s = .next (settle exec t)) ∧
    (∀ ia i t, z.inHand r pc = none → CodeAt z (z.block r.blk) pc ia → decodeWord (codeWord z ia).toNat = .ok i →
      exec i (atIssue (keepsWord z r pc (codeWord z ia)) r pc late) = .next t → step s = .next (settle exec t)) ∧
    (∀ w e, z.inHand r pc = some w → decodeWord w.toNat = .error e →
      step s = .next (settle exec ((atIssue z r pc late).fetchIll r pc w e.bit))) ∧
    (∀ ia e, z.inHand r pc = none → CodeAt z (z.block r.blk) pc ia → decodeWord (codeWord z ia).toNat = .error e →
      step s = .next (settle exec ((atIssue (keepsWord z r pc (codeWord z ia)) r pc late).fetchIll r pc (codeWord z ia) e.bit))))) ∧
  (∀ (s : State) i a rest t, s.stopped = false → s.agenda = .event i a :: rest → exec i { moveTaken s rest with arg := a } = .next t →
    step s = .next (settle exec t)) ∧
  (∀ s : State, s.stopped = true → step s = .fault .moduleStopped)

/-- After every step each warp slot holds exactly the fibre it names as Active, and no Ready fibre waits in a slot without one
(R155, R156). -/
def Obligations.StepKeepsElected : Prop :=
  ∀ s t : State, s.elected = true → step s = .next t → t.elected = true

namespace Sys2Proof.Rules

/-! ## Runahead -/

/-- The instruction of form `o` stands at the fibre and PC of `cur` inside the episode `e`; it passes the checks of R61 steps 1 to 6, a lane is
active, and HNT.RX is clear (R215). Its context is `c`. -/
structure Ahead (o : Op) (f : Ins) (s : State) (c : Ctx) (e : Episode) : Prop where
  ctx : c = s.ctx o f c.d c.a c.b c.c
  issue : s.mayIssue s.cur.ref s.cur.pc = true
  legal : s.illegalBit (s.block s.cur.ref.blk).service o f = none
  privilege : o.cls = .s → (s.block s.cur.ref.blk).service = true
  episode : (s.fib s.cur.ref).ra = some e
  quiet : f.hnt.rx = false
  active : c.act ≠ 0
  operands : ctxLocs s s.cur.ref o f = .ok (c.d, c.a, c.b, c.c)
  narrow : c.blk.width ≤ 64

/-- A fibre whose episode has ended: what the entry kept comes back (R219). -/
def restored (e : Episode) (x : Fibre) : Fibre :=
  { x with ra := none, lanes := e.lanes0, s := e.s0, q := e.q0, x := e.x0, raDone := setAdd x.raDone e.trigger }

/-- An episode without what an instruction executed in it changes. -/
def bareEpisode (e : Episode) : Episode := { e with entries := [], shadow := [], inval := [], pinval := [] }

/-- The changes `effs` are made in the shadow alone (R213, R214, R217): the fibre reads them, each is invalid in the lanes of `bad`, the path
moves on, and nothing else of the fibre and nothing outside it changes. -/
structure Shadowed (c : Ctx) (e : Episode) (effs : List Eff) (bad : Nat → Bool) (t : State) : Prop where
  episode : ∃ e', (t.fib c.r).ra = some e' ∧ bareEpisode e' = bareEpisode e ∧
    (∀ i, i ∈ e'.entries ↔ i ∈ e.entries ∨ ∃ l v, Eff.vreg i l v ∈ effs) ∧
    (∀ i l, l < 64 → ((∃ v, Eff.vreg i l v ∈ effs) → e'.inval.contains (64 * i + l) = bad l) ∧
      ((¬ ∃ v, Eff.vreg i l v ∈ effs) → e'.inval.contains (64 * i + l) = e.inval.contains (64 * i + l))) ∧
    (∀ p l, p < 15 → ((∃ v, Eff.pred p l v ∈ effs) → (e'.pinval.get p 0).getLsbD l = bad l) ∧
      ((¬ ∃ v, Eff.pred p l v ∈ effs) → (e'.pinval.get p 0).getLsbD l = (e.pinval.get p 0).getLsbD l))
  reg : ∀ i l, l < c.blk.width → t.vreg c.r i l = vregAfter effs i l (c.s.vreg c.r i l)
  pred : ∀ l p, p < 15 → ((t.fib c.r).lane l).pred p = predAfter effs p l ((c.fib.lane l).pred p)
  pc : ∀ l, ((t.fib c.r).lane l).pc = if c.path.getLsbD l then c.pc + 12 else (c.fib.lane l).pc
  lane : ∀ l, ({ (t.fib c.r).lane l with pc := 0, preds := 0 } : Lane) = { c.fib.lane l with pc := 0, preds := 0 }
  fibre : ({ t.fib c.r with ra := none, lanes := [], stall := none } : Fibre) = { c.fib with ra := none, lanes := [], stall := none }
  outside : t.modFib c.r (fun _ => {}) = c.s.modFib c.r (fun _ => {})

/-- Vector registers that changes write for the first time in the episode. -/
def newEntries (e : Episode) (effs : List Eff) : Nat :=
  (((effs.filterMap (fun x => match x with | .vreg i _ _ => some i | _ => none)).eraseDups).filter (fun i => !e.entries.contains i)).length

/-- Do changes write the shared window? -/
def sharesWindow (c : Ctx) (effs : List Eff) : Bool :=
  effs.any (fun x => match x with | .vreg i _ _ => decide (c.blk.sharedBase ≤ i ∧ i < c.blk.sharedBase + c.blk.shared) | _ => false)

/-- The changes fit the episode (R213): room for their entries, and none in the shared window. -/
def fits (c : Ctx) (e : Episode) (effs : List Eff) : Bool :=
  decide (e.entries.length + newEntries e effs ≤ c.fib.raC) && !sharesWindow c effs

/-- The forms outside 0x200 to 0x3F0 that end an episode (R215). -/
def endingForms : List Op :=
  [.exit, .rje, .rjw, .rjx, .wsr, .ractlOff, .ractlOn, .ractlThr, .trap, .tret, .bpt, .npb, .npe, .fbara, .fbarw, .fibqState, .fibqRec, .fresume]

/-- Every destination register of the form in the active lanes: of a CAS the half that takes the old value (R137). -/
def destsOf (c : Ctx) (effs : List Eff) : Prop :=
  ∀ x, x ∈ effs.map aimOf ↔ ∃ k l, k < (if c.o = .casg ∨ c.o = .cass then c.dw / 2 else c.dw) ∧ l ∈ c.lanes ∧ x = (0, destReg c + k, l)

end Sys2Proof.Rules

namespace Sys2Proof.Rules

/-! ## What the engines compute -/

/-- One step of a chain on an FP32 pattern (R267); `t` is the table captured for it. -/
def chainStep (t : BitVec 16640) (code arg k k2 x : Nat) : Nat :=
  let v := decodeF .f32 x
  let near (y : Val) : Nat := (roundTo .f32 y .rne).1
  let n := sext 32 k
  if code = 1 then near (vadd false v (decodeF .f32 k)).1
  else if code = 2 then near (vmul v (decodeF .f32 k)).1
  else if code = 3 then near (vadd false (vmul v (decodeF .f32 k)).1 (decodeF .f32 k2)).1
  else if code = 4 then pickOf false .f32 x k
  else if code = 5 then pickOf true .f32 x k
  else if code = 6 then near (floatExact .fscale .rne v v v n).1
  else if code = 7 then
    let y : Ty := ((tyOfCode (arg % 32)).getD .f16)
    near (decodeF y (roundTo y v ((rndOfCode (arg / 32)).getD .rne)).1)
  else if code = 8 then (tableRule t x).v.getD 0
  else x

/-- The steps of a chain before its end or its reduction, from the element as an FP32 pattern (R268). -/
def chainValue (m : Cmd) (d : ChainDesc) (sf : Ty) (x : Nat) : Nat :=
  ((d.ops.takeWhile (fun o => o.1 ≠ 0 && o.1 ≠ 9)).zipIdx).foldl
    (fun y e => chainStep (m.tables.get e.2 0) e.1.1 e.1.2.1 e.1.2.2.1 e.1.2.2.2 y)
    (if sf = .f32 then x else (roundTo .f32 (decodeF sf x) .rne).1)

/-- The first slot of the list that reduces, if the list has one (R267). -/
def chainEnd (d : ChainDesc) : Option Nat :=
  match (d.ops.takeWhile (fun o => o.1 ≠ 0)).find? (fun o => decide (o.1 = 9)) with
  | some o => some o.2.1
  | none => none

/-- A row of a chain: its bytes, from the bytes of its source row (R268). -/
def chainBytes (m : Cmd) (d : ChainDesc) (sf df : Ty) (mode : Rnd) (bs : List Byte) : List Byte :=
  let ys := (List.range d.nc).map (fun c => chainValue m d sf (leNat ((bs.drop (c * sf.bytes)).take sf.bytes)))
  let out := match chainEnd d, ys with
    | none, _ => ys
    | some _, [] => [0]
    | some arg, y :: rest => [rest.foldl (fun a x =>
        if arg = 0 then (roundTo .f32 (vadd false (decodeF .f32 a) (decodeF .f32 x)).1 .rne).1 else pickOf true .f32 a x) y]
  out.flatMap (fun y => leBytes df.bytes (roundTo df (decodeF .f32 y) mode).1)

/-- The rows of a chain one after another: what each lays over its destination, the largest time, and whether a byte is poisoned. -/
def chainReads (core : Nat) (ti : Time) (row : List Byte → List Byte) : List (List Piece × List Piece) → State → Time → State × List WriteRun × Time × Bool
  | [], s, t => (s, [], t, false)
  | r :: rest, s, t =>
    let x := s.readPieces core ti r.1
    let y := chainReads core ti row rest x.1 (tmax t x.2.2)
    (y.1, layRuns r.2 ((row (x.2.1.map Prod.fst)).map (fun b => (b, false))) ++ y.2.1, y.2.2.1, x.2.1.any Prod.snd || y.2.2.2)

/-- Where a push goes (R330): its base offset and its ranks. -/
def pushAim (m : Cmd) (d : CopyDesc) : Int × List Nat :=
  if m.op = .cpym then ((d.da : Int) + sext 32 m.c.toNat, (List.range 8).filter (fun i => m.c.toNat.testBit (32 + i)))
  else
    let e := (d.da : Int) + sext 64 m.c.toNat
    (e % 2 ^ 21, [(e / 2 ^ 21).toNat])

/-- The rows of a push one after another (R331): each is read once, and laid at its offset in every member that takes it. -/
def pushReads (core : Nat) (ti : Time) (fill : Option (List Byte)) (len : Nat) (base : List (Nat × Nat)) :
    List (List Piece × Nat) → State → Time → State × List WriteRun × Time
  | [], s, t => (s, [], t)
  | r :: rest, s, t =>
    let x := match fill with
      | some bs => (s, bs.map (fun b => (b, false)), t)
      | none => s.readPieces core ti r.1
    let y := pushReads core ti fill len base rest x.1 (tmax t x.2.2)
    (y.1, base.flatMap (fun e => layRuns [{ kind := 1, core := e.1, place := e.2 + r.2, n := len }] x.2.1) ++ y.2.1, y.2.2)

/-- A record of a failed check (R257). -/
def failRecord (form code addr : Nat) : Dword := BitVec.ofNat 64 (code * 2 ^ 60 + form * 2 ^ 56 + addr / 32 % 2 ^ 52)

/-- The command has failed a check as it starts (R257). -/
def failedAt (s : State) (core id : Nat) (m : Cmd) (form code addr : Nat) : State :=
  s.modCore core (fun c => { c with cmds := c.cmds.set id { m with started := true, runs := [], err := failRecord form code addr } })

/-- The bytes of STATUS (R443). -/
def statusRuns (m : Cmd) : List WriteRun :=
  m.runs.map (fun r => { r with bytes := [BitVec.ofNat 8 m.done, BitVec.ofNat 8 m.dropped] })

end Sys2Proof.Rules

/-- Chains, pushes and lists (R266 to R268, R330, R331, R333, R443, R444, R459): a failed check leaves its record; a sound chain whose
destinations meet no source and no other row lays the values of its steps; a sound push lays each row in every member that may receive; a list of one local
destination writes it, performs its reduction at the home, or drops it with a record; STATUS is written as the command completes.
Where the spec leaves it open it rests on the model's choices of log 13, log 75. -/
def Obligations.EngineResults : Prop :=
  ∀ s : State, ∀ m, let core := s.arg.core; let id := s.arg.id
    (s.core core).cmds.find id = some m → m.engine ≠ .matrix →
    let put (x : Cmd) (t : State) : State := t.modCore core (fun c => { c with cmds := c.cmds.set id x })
    let b := s.block m.ref.blk
    (m.started = false → (∀ e ∈ (s.core core).cmds, e.1 < id → e.2.ref.blk = m.ref.blk → m.conflicts e.2 = false) →
    (m.op = .chain →
      let d := chainDesc m.desc
      let sd := sext 64 m.b.toNat
      let dd := sext 64 m.c.toNat
      let code := chainCheck d sd dd
      (code ≠ 0 → exec .commandStart s = .next (failedAt s core id m 3 code m.a.toNat)) ∧
      (∀ sf df mode, ∀ src dst : List (List Piece), code = 0 → m.badData = [] → d.sf = some sf → d.df = some df → d.rnd = some mode →
        let dn := (if chainEnd d = none then d.nc else 1) * df.bytes
        src.length = d.nr → dst.length = d.nr →
        (∀ i < d.nr, s.enginePieces b d.ss ((d.sa : Int) + sd + i * d.sstr) (d.nc * sf.bytes) Range.r = .ok (src.getD i []) ∧
          s.enginePieces b d.ds ((d.da : Int) + dd + i * d.dstr) dn Range.w = .ok (dst.getD i [])) →
        s.clearing core m.ti (src.flatten ++ dst.flatten) false = none →
        (∀ p ∈ src.flatten, ∀ q ∈ dst.flatten, p.meets q = false ∧ q.meets p = false) →
        dst.Pairwise (fun x y => ∀ p ∈ x, ∀ q ∈ y, p.meets q = false ∧ q.meets p = false) →
        let x := chainReads core m.ti (chainBytes m d sf df mode) (src.zip dst) s m.kt
        x.2.2.2 = false →
        exec .commandStart s = .next (put { m with started := true, runs := x.2.1, kt := x.2.2.1 }
          { x.1 with free := x.1.free + 2 * d.nr * dn }))) ∧
    (m.op = .cpyr ∨ m.op = .cpym →
      let d := copyDesc m.desc
      let code := pushCheck m d b.csize
      let aim := pushAim m d
      let rows := (List.range (d.n2 + 1)).flatMap (fun (q : Nat) => (List.range (d.n1 + 1)).map (fun (r : Nat) =>
        ((d.sa : Int) + sext 64 m.b.toNat + r * d.s1 + q * d.s2, aim.1 + r * d.d1 + q * d.d2)))
      (code ≠ 0 → exec .commandStart s = .next (failedAt s core id m 0 code m.a.toNat)) ∧
      (code = 0 → m.op = .cpyr → (∀ i ∈ aim.2, ∀ e, s.member b i = some e → e.2.st ≠ .resident ∨ e.2.ending = true ∨ e.2.failed = true) →
        exec .commandStart s = .next (failedAt s core id m 0 5 m.a.toNat)) ∧
      (∀ src : List (List Piece), ∀ tos : List (Nat × Block), code = 0 → m.badData = [] → aim.2.map (s.member b) = tos.map some → tos ≠ [] →
        (∀ e ∈ tos, e.2.st = .resident ∧ e.2.ending = false ∧ e.2.failed = false) →
        src.length = rows.length →
        (∀ i < rows.length, (if d.ss = 4 then src.getD i [] = []
            else s.enginePieces b d.ss (rows.getD i (0, 0)).1 d.len Range.r = .ok (src.getD i [])) ∧
          0 ≤ (rows.getD i (0, 0)).2 ∧ (rows.getD i (0, 0)).2 + d.len ≤ b.sspan) →
        s.clearing core m.ti src.flatten false = none →
        (∀ e ∈ tos, ∀ r ∈ rows, ∀ p ∈ src.flatten,
          p.meets { kind := 1, core := e.2.core, place := e.2.sbase + r.2.toNat, n := d.len } = false ∧
          ({ kind := 1, core := e.2.core, place := e.2.sbase + r.2.toNat, n := d.len } : Piece).meets p = false) →
        let x := pushReads core m.ti (fillBytes m d) d.len (tos.map (fun e => (e.2.core, e.2.sbase))) (src.zip (rows.map (fun r => r.2.toNat))) s m.kt
        let w : Cmd := { m with started := true, runs := x.2.1, kt := x.2.2, pinned := pieceLines src.flatten, targets := tos.map Prod.fst, err := 0 }
        exec .commandStart s = .next (put w
          { x.1.pinLines (core / 33) (pieceLines src.flatten) with free := x.1.free + rows.length * d.len }))) ∧
    (m.op = .mcst ∨ m.op = .mred →
      let code := listCheck m
      let n := if m.op = .mcst then listLen m.desc else m.f.x.ty.bytes
      let addr := listAddr m.desc 0
      let odd := if m.op = .mcst then addr % 4 ≠ 0 ∨ 128 < addr % 128 + n else addr % n ≠ 0
      (code ≠ 0 → exec .commandStart s = .next (failedAt s core id m (if m.op = .mcst then 9 else 10) code m.a.toNat)) ∧
      (∀ src status, code = 0 → listN m.desc = 1 → (listDev m.desc 0).testBit 15 = false →
        s.enginePieces b 1 ((m.b.toNat % 2 ^ 32 : Nat) : Int) (if m.op = .mcst then n else 0) Range.r = .ok src →
        s.vaPiece b Range.w (m.a.toNat + 4) 2 = .ok status →
        let ready (u : Cmd) (t : State) : State := put { u with started := true, runs := layRuns [status] [(0, false), (0, false)] } t
        let x := if m.op = .mcst then s.readPieces core m.ti src else (s, [], 0)
        (odd ∨ (∃ e, s.vaPiece b (if m.op = .mcst then Range.w else Range.a) addr n = .error e) → s.clearing core m.ti [status] true = none →
          exec .commandStart s = .next (ready { m with dropped := m.dropped + 1 }
            (x.1.faultRecord b.vi addr addr 7 false b.tag b.task))) ∧
        (∀ p, ¬ odd → s.vaPiece b (if m.op = .mcst then Range.w else Range.a) addr n = .ok p → p.attr ≠ .priv →
          s.clearing core m.ti [status, p] true = none →
          let key := 2 * (p.place / 128) + (if p.ns then 1 else 0)
          (m.op = .mcst →
            let y := x.1.homeWriteMarked p.place x.2.1 m.ti (m.vi, m.tag)
            exec .commandStart s = .next (ready { m with kt := tmax m.kt y.2.wt, done := m.done + 1 } (y.1.wroteBack p.core key none y.2))) ∧
          (m.op = .mred →
            let y := s.homeAtomic (p.place / 128) (p.place % 128) m.f.x.aop m.f.x.ty [(0, m.b, 0)] m.ti (m.vi, m.tag)
            (y.2.2.2 = true → exec .commandStart s = .next (ready { m with kt := m.kt } y.1)) ∧
            (y.2.2.2 = false → exec .commandStart s = .next (ready { m with kt := tmax m.kt y.2.1.wt, done := m.done + 1 }
              (y.1.wroteBack p.core key none y.2.1))))))) ∧
    (m.op = .pcpy →
      let code := pcpyCheck m.desc
      let len := dfld m.desc 16 4
      let ptr : Dword := BitVec.ofNat 64 (dfld m.desc 0 8)
      (code ≠ 0 → exec .commandStart s = .next (failedAt s core id m 0 code m.a.toNat)) ∧
      (∀ dst, code = 0 → s.enginePieces b (dfld m.desc 20 1) ((dfld m.desc 8 8 : Nat) : Int) len Range.w = .ok dst →
        (∀ p ∈ dst, p.kind = 1) → s.clearing core m.ti dst false = none → s.named ptr len = false →
        exec .commandStart s = .next ((put { m with started := true, reqs := [s.fabric.nextReq], pinned := [] } s).fabSend core
          (.pcpy core id) m.vi m.tag (BitVec.toNat (ptr.extractLsb' 51 13)) .classU (.read ptr len))))) ∧
    (m.op = .mcst ∨ m.op = .mred → m.started = true → m.reqs = [] → m.spoiled = [] → m.err = 0 → m.image = none → ∀ runs,
      s.currentRuns { m with runs := statusRuns m } = .ok runs →
      s.clearing core m.ti ((runs.filter (fun r => r.kind == 0 && r.attr != .priv)).map WriteRun.piece) true = none →
      let u := runsWritten s { m with runs := runs } runs
      exec .commandCompletion s = .next (counted (u.1.modCore core (fun c => { c with cmds := c.cmds.erase id })) m.ref m.k u.2 0))

namespace Sys2Proof.Rules

/-! ## What the matrix engine computes -/

/-- The pattern of element `k` of row `r` of a map (R278). -/
def mapPattern (s : State) (b : Block) (x : OpMap) (r k : Nat) : Nat :=
  let byte (o : Nat) : Nat := (s.storeByte b.core (b.sbase + o) false).toNat
  if x.ty = .cb4 then byte (x.base + r * x.pitch + k / 2) / 16 ^ (k % 2) % 16
  else leNat ((List.range x.ty.bytes).map (fun i => s.storeByte b.core (b.sbase + (x.base + r * x.pitch + k * x.ty.bytes) + i) false))
/-- Its value: of a codebook, the entry it names (R28). -/
def mapValue (s : State) (blk : Nat) (x : OpMap) (r k : Nat) : Val :=
  let p := mapPattern s (s.block blk) x r k
  if x.ty = .cb4 then decodeF .bf16 ((s.bookOf blk x.cb).extractLsb' (16 * p) 16).toNat else decodeF x.ty p
/-- The exponent of the scale of its group; none is NaN, 0 is no scale (R29, R278). -/
def mapScale (s : State) (b : Block) (x : OpMap) (r k : Nat) : Option Int :=
  let e := (s.storeByte b.core (b.sbase + (x.sbase + r * x.spitch + k / 32)) false).toNat
  if x.scaled = false then some 0 else if e = 255 then none else some ((e : Int) - 127)
/-- A value times a power of two. -/
def timesPower (v : Val) (e : Int) : Val := match v with | .fin n m k => .fin n m (k + e) | .inf n => .inf n | .nan q => .nan q

/-- The rows of a command in the order of R288: rank, lane, row index, and metadata (R287, R291). -/
def matrixRows (m : Cmd) : List (Nat × Nat × Nat × Word) :=
  m.members.flatMap (fun u => (lanesOf u.active).map (fun l =>
    let sel := match m.f.x with | .mma _ sl => sl.toNat | _ => 0
    let word : Word := if sel = 0 then (u.rows.get l (0, 0)).2 else if u.active.getLsbD (sel - 1) then (u.rows.get (sel - 1) (0, 0)).2 else 0
    (u.rank, l, (u.rows.get l (0, 0)).1.toNat, word)))

/-- The pairs of a stored element of A and a logical element of B that carry a product, of the 32 logical elements from `k0` (R288, R291). -/
def carried (sparse : Bool) (kb k0 : Nat) (md : Word) : List (Nat × Nat) :=
  if sparse then (List.range 8).flatMap (fun i =>
    let q := (k0 - kb) / 4 + i
    let e := md.toNat / 2 ^ (4 * (q % 8)) % 16
    [(kb / 2 + 2 * q, kb + 4 * q + e % 4), (kb / 2 + 2 * q + 1, kb + 4 * q + e / 4)])
  else (List.range 32).map (fun k => (k0 + k, k0 + k))

/-- GroupSum of R288 and R289, in a float class. -/
def groupSum (s : State) (blk : Nat) (x y : OpMap) (i n k0 : Nat) (ks : List (Nat × Nat)) : Val :=
  match mapScale s (s.block blk) x i k0, mapScale s (s.block blk) y n k0 with
  | some ea, some eb =>
    (match ks.map (fun k => (vmul (timesPower (mapValue s blk x i k.1) ea) (timesPower (mapValue s blk y n k.2) eb)).1) with
     | [] => .fin false 0 0
     | p :: rest => rest.foldl (fun a q => (vadd false a q).1) p)
  | _, _ => .nan false

/-- An element of a product: the accumulator word, and whether an addition of the integer class overflowed (R288 to R290). -/
def productAt (s : State) (m : Cmd) (i n : Nat) (md : Word) (acc : Word) : Word × Bool :=
  let blk := m.ref.blk
  let x := opMap m.desc
  let y := opMap m.desc2
  let kb := (m.regs.getD 2 0).toNat
  let sparse := m.op == .mmas
  let int := decide (x.ty = .i8 ∨ x.ty = .n8)
  let k := if x.ty = .bf16 ∨ x.ty = .f16 then 64 else if x.ty = .cb4 then 256 else 128
  (List.range ((if sparse then 2 * k else k) / 32)).foldl (fun st q =>
    let ks := carried sparse kb (kb + 32 * q) md
    if int then
      let z := st.1.toInt + ks.foldl (fun a p => a + intVal x.ty (mapPattern s (s.block blk) x i p.1) * intVal y.ty (mapPattern s (s.block blk) y n p.2)) 0
      (BitVec.ofNat 32 (wrapTo 32 z), st.2 || decide (z < -2 ^ 31) || decide (2 ^ 31 - 1 < z))
    else
      let g := (roundTo .f32 (groupSum s blk x y i n (kb + 32 * q) ks) .rne).1
      (BitVec.ofNat 32 (roundTo .f32 (vadd false (decodeF .f32 st.1.toNat) (decodeF .f32 g)).1 .rne).1, st.2)) (acc, false)

/-- The address of an accumulator word of the tile. -/
def tileAt (m : Cmd) (row col : Nat) : Nat := (m.regs.getD 0 0).toNat + row * (m.regs.getD 1 0).toNat + 4 * col
/-- The accumulator word there. -/
def tileWord (s : State) (b : Block) (m : Cmd) (row col : Nat) : Word := (s.core b.core).acc.word (b.banks.headD 0 * Config.accBank + tileAt m row col)
/-- A word of the tile written. -/
def tilePut (s : State) (b : Block) (m : Cmd) (row col : Nat) (v : Word) : State :=
  s.storeWrite b.core (b.banks.headD 0 * Config.accBank + tileAt m row col) true (wordBytes v) false
/-- Every word of a tile of so many rows and columns written, row by row. -/
def tileFill (s : State) (b : Block) (m : Cmd) (rows : List Nat) (cols : Nat) (v : Nat → Nat → Word) : State :=
  rows.foldl (fun t r => (List.range cols).foldl (fun t c => tilePut t b m r c (v r c)) t) s

/-- Rows and columns of the tile of an accumulator form (R295). -/
def formRows (m : Cmd) : Nat := (m.regs.getD 2 0).toNat
/-- COLS. -/
def formCols (m : Cmd) : Nat := (m.regs.getD 3 0).toNat

/-- What ACCLD loads (R297). -/
def loadedWord (s : State) (m : Cmd) (r c : Nat) : Word :=
  let x := opMap m.desc
  let i := (m.regs.getD 6 0).toNat + r
  let k := (m.regs.getD 7 0).toNat + c
  BitVec.ofNat 32 (if m.f.x.ty = .f32 then
      (match mapScale s (s.block m.ref.blk) x i k with
       | some e => (roundTo .f32 (timesPower (mapValue s m.ref.blk x i k) e) .rne).1
       | none => 0x7FC00000)
    else wrapTo 32 (intVal x.ty (mapPattern s (s.block m.ref.blk) x i k)))

/-- The exponents of the leading bits of the finite values that are not zero, the largest of them. -/
def topExponent (vs : List Val) : Option Int :=
  vs.foldl (fun a v => match v with
    | .fin _ m e => if m = 0 then a else some (match a with | some x => max x (leadExp m e) | none => leadExp m e)
    | _ => a) none

/-- The scale byte of a group (R298). -/
def groupByte (t : Ty) (ents : List Nat) (vs : List Val) : Nat :=
  let el : Int := if t = .e4m3 then 8 else if t = .e5m2 then 15 else (topExponent (ents.map (decodeF .bf16))).getD 0
  if vs.any (fun v => v.isNaN || v.isInf) then 255
  else match topExponent vs with
    | none => 127
    | some g => (max 0 (min 254 (g - el + 127))).toNat

/-- The pattern of an element of ACCCVT (R116, R298): `scale` is the byte of its group, where groups are scaled. -/
def Converted (m : Cmd) (t : Ty) (ents : List Nat) (scale : Option Nat) (w : Word) (p : Nat) : Prop :=
  let v0 := if m.f.x.ty = .f32 then decodeF .f32 w.toNat else ofIntV w.toInt
  let v := match scale with | some e => timesPower v0 (127 - e) | none => v0
  let lost := scale = some 255
  if t = .i32 ∨ t = .i8 ∨ t = .n8 then p = (if m.f.x.ty = .i32 then (if m.f.x.sat then satTo t w.toInt else wrapTo t.bits w.toInt) else 0)
  else if t = .cb4 then
    let e (j : Nat) : Val := decodeF .bf16 (ents.getD j 0)
    if lost ∨ v.isNaN = true ∨ ∀ j < ents.length, (e j).isNaN = true then p = 0
    else p < ents.length ∧ (e p).isNaN = false ∧
      (∀ j < ents.length, (e j).isNaN = false → nearer v (e j) (e p) = false) ∧
      ∀ j < p, (e j).isNaN = false → nearer v (e p) (e j) = true
  else if lost then p = canonNaN t
  else p = (satFinite m.f.x.sat t v (roundTo t v m.f.x.rnd)).1

/-- A pattern written to element `k` of row `r` of a map; of a codebook index, its nibble alone (R278, R298). -/
def mapPut (s : State) (b : Block) (x : OpMap) (r k p : Nat) : State :=
  if x.ty = .cb4 then
    let o := b.sbase + (x.base + r * x.pitch + k / 2)
    let old := (s.storeByte b.core o false).toNat
    s.storeWrite b.core o false [BitVec.ofNat 8 (if k % 2 = 0 then old / 16 * 16 + p % 16 else old % 16 + p % 16 * 16)] false
  else s.storeWrite b.core (b.sbase + (x.base + r * x.pitch + k * x.ty.bytes)) false (leBytes x.ty.bytes p) false

/-- Where a gang's member stands: at its presentation. -/
def memberRef (r : FRef) (u : Member) : FRef := ⟨r.blk, u.warp, r.fib⟩

end Sys2Proof.Rules

/-- Matrix commands and gangs (R274 to R300): a failed check leaves its record, a tile or map byte outside the block's space ends the task with
RNG; a product, a cleared, loaded, scaled or converted tile takes the values of its rule; every member's counter then counts down. An MMA of a gang waits at the
rendezvous and, with every member there or ended, fires one command for all, which fails with CODE 4 where they disagree (log 76).
Where the spec leaves it open it rests on the model's choices of log 13. -/
def Obligations.MatrixResults : Prop :=
  (∀ s : State, ∀ m, let core := s.arg.core; let id := s.arg.id
    (s.core core).cmds.find id = some m → m.engine = .matrix → m.op ∈ [Op.mma, .mmas, .accz, .accld, .acccvt, .accscl] →
    let put (x : Cmd) (t : State) : State := t.modCore core (fun c => { c with cmds := c.cmds.set id x })
    let b := s.block m.ref.blk
    (m.started = false → (∀ e ∈ (s.core core).cmds, e = (id, m) ∨ (e.2.ref.blk ≠ m.ref.blk ∧ e.2.engine ≠ .matrix)) →
      let u := s.modCore core (fun c => { c with lastCtx := some (b.context m) })
      let code := m.check (s.feature b.service 2) b
      (m.err ≠ 0 → exec .commandStart s = .next (put { m with started := true } u)) ∧
      (m.err = 0 → code.1 ≠ 0 → exec .commandStart s = .next (failedAt u core id m (if m.op = .mma ∨ m.op = .mmas then 6 else 7) code.1 code.2)) ∧
      let outside (at' : Nat) : State :=
        let val := accessTval true 0 (at' : Int)
        (u.modCore core (fun c => { c with cmds := c.cmds.erase id })).endTask b.task b.vi b.tag 9 val (u.faultRec m.ref 9 9 val 0 0).mid
      (m.err = 0 → code.1 = 0 → m.tileIn b = false → exec .commandStart s = .next (outside (m.regs.getD 0 0).toNat)) ∧
      (m.err = 0 → code.1 = 0 → m.tileIn b = true → ∀ first r rest, m.runsOf = first ++ r :: rest → (∀ q ∈ first, q.1 + q.2 ≤ b.sspan) →
        b.sspan < r.1 + r.2 → exec .commandStart s = .next (outside r.1)) ∧
      (m.err = 0 → code.1 = 0 → m.tileIn b = true → (∀ r ∈ m.runsOf, r.1 + r.2 ≤ b.sspan) →
        exec .commandStart s = .next (put { m with started := true } u))) ∧
    (m.started = true → m.reqs = [] → m.garbled = false → m.spoiled = [] → b.core = core → (s.cores.find core).isSome = true →
      (∀ e ∈ (s.core core).cmds, e.1 < id → e.2.engine = .matrix → (s.block e.2.ref.blk).context e.2 ≠ b.context m) →
      let ends (t : State) : State := m.members.foldl (fun t u => counted t (memberRef m.ref u) u.k m.kt m.err)
        (t.modCore core (fun c => { c with cmds := c.cmds.erase id }))
      (m.err ≠ 0 → exec .commandCompletion s = .next (ends s)) ∧
      (m.err = 0 → (s.core core).accPoison = [] → (s.core core).uniPoison = [] →
        let rows := List.range (formRows m)
        let x := opMap m.desc
        let known := x.ty ∈ [Ty.f32, .bf16, .f16, .e4m3, .e5m2, .cb4, .i32, .i8, .n8]
        (m.op = .mma ∨ m.op = .mmas → (pairClass x.ty (opMap m.desc2).ty).isSome = true →
          exec .commandCompletion s = .next (ends ((matrixRows m).foldl (fun t r =>
            let row := r.1 * b.width + r.2.1
            (List.range m.cols).foldl (fun t n =>
              let v := productAt s m r.2.2.1 n r.2.2.2 (tileWord s b m row n)
              let u := tilePut t b m row n v.1
              if v.2 then u.modCore core (fun c => { c with iovf := c.iovf.set (b.context m) true }) else u) t) s))) ∧
        (m.op = .accz → exec .commandCompletion s = .next (ends (tileFill s b m rows (formCols m) (fun _ _ => 0)))) ∧
        (m.op = .accld → known → exec .commandCompletion s = .next (ends (tileFill s b m rows (formCols m) (loadedWord s m)))) ∧
        (m.op = .accscl → exec .commandCompletion s = .next (ends ((m.lanes.filter (fun e => decide (e.1 < formRows m))).foldl (fun t e =>
          (List.range (formCols m)).foldl (fun t c => tilePut t b m e.1 c
            (BitVec.ofNat 32 (roundTo .f32 (vmul (decodeF .f32 (tileWord s b m e.1 c).toNat) (decodeF .f32 e.2.toNat)).1 .rne).1)) t) s))) ∧
        (m.op = .acccvt → known → ∀ pat : Nat → Nat → Nat, ∀ ents : List Nat,
          ents = (List.range 16).map (fun i => ((s.bookOf m.ref.blk x.cb).extractLsb' (16 * i) 16).toNat) →
          let value (r c : Nat) : Val := if m.f.x.ty = .f32 then decodeF .f32 (tileWord s b m r c).toNat else ofIntV (tileWord s b m r c).toInt
          let columns (g : Nat) : List Nat := (List.range (min 32 (formCols m - 32 * g))).map (32 * g + ·)
          let scale (r g : Nat) : Option Nat := if x.scaled then some (groupByte x.ty ents ((columns g).map (value r))) else none
          (∀ r < formRows m, ∀ c < formCols m, Converted m x.ty ents (scale r (c / 32)) (tileWord s b m r c) (pat r c)) →
          exec .commandCompletion s = .next (ends (rows.foldl (fun t r => (List.range ((formCols m + 31) / 32)).foldl (fun t g =>
            let i := (m.regs.getD 6 0).toNat + r
            let k := (m.regs.getD 7 0).toNat
            let t := match scale r g with
              | some e => t.storeWrite core (b.sbase + (x.sbase + i * x.spitch + (k + 32 * g) / 32)) false [BitVec.ofNat 8 e] false
              | none => t
            (columns g).foldl (fun t c => mapPut t b x i (k + c) (pat r c)) t) t) s)))))) ∧
  (∀ o ∈ [Op.mma, .mmas], ∀ f s c, Ready o f s c → c.poisoned = false → c.fib.g.setWidth 16 ≠ 0 →
    let core := c.blk.core
    let mask : Word := (c.fib.g.setWidth 16).setWidth 32
    let rows := c.lanes.map (fun l => (l, (BitVec.ofNat 32 (c.va l), BitVec.ofNat 32 (c.va l / 2 ^ 32))))
    let me : Member := { selfMember c rows with rank := (List.range c.r.warp).countP (fun i => mask.getLsbD i) }
    let entry := (me, (⟨c.pc, o, f⟩ : Stall), paramWords c 8, c.path)
    let vaA : Nat := ((paramWords c 8).getD 4 0).toNat + ((paramWords c 8).getD 5 0).toNat * 2 ^ 32
    let vaB : Nat := ((paramWords c 8).getD 6 0).toNat + ((paramWords c 8).getD 7 0).toNat * 2 ^ 32
    s.opfWaits c.r = false → s.memHeld c.r true = false → vaA % 32 = 0 → vaB % 32 = 0 →
    (∃ p, s.enginePieces c.blk 0 vaA 1 Range.r = .ok p) → (∃ p, s.enginePieces c.blk 0 vaB 1 Range.r = .ok p) →
    let group (lo hi : List (Member × Stall × List Word × LaneSet)) : Latch :=
      { blk := c.r.blk, fib := c.r.fib, mask := mask, members := lo ++ [entry] ++ hi }
    let there (g : Latch) : Prop := ∀ w < 16, mask.getLsbD w = true → g.members.any (fun x => x.1.warp = w) = true ∨ (s.fib ⟨c.r.blk, w, c.r.fib⟩).st = .ended
    let held (g : Latch) : State := (s.modCore core (fun x => { x with latches := [g] })).stallAt c.r c.pc o f
    ∀ lo hi : List (Member × Stall × List Word × LaneSet),
      (s.core core).latches = (if lo ++ hi = [] then [] else [{ group lo hi with members := lo ++ hi }]) →
      (∀ x ∈ lo, x.1.warp < c.r.warp) → (∀ x ∈ hi, c.r.warp < x.1.warp) →
      let g := group lo hi
      (¬ there g → exec (o.instr f) s = .next (held g)) ∧
      (∀ first rest, there g → g.members = first :: rest → (∀ x ∈ g.members, ((held g).fib (memberRef c.r x.1)).ra = none) →
        let t := held g
        let m : Cmd := { issued c .matrix 0 0 0 [] 0 with ref := memberRef c.r first.1, op := first.2.1.op, f := first.2.1.f, k := first.1.k, regs := first.2.2.1, c := mask.setWidth 64, members := g.members.map Prod.fst, ti := g.members.foldl (fun y x => tmax y (t.fib (memberRef c.r x.1)).ptime) (t.fib (memberRef c.r first.1)).ptime }
        let gone (u : State) : State := (g.members.foldl (fun u x => u.advance (memberRef c.r x.1) x.2.2.2 x.2.1.pc) u).modCore core (fun x => { x with latches := [] })
        let same := ∀ x ∈ g.members, x.2.1.f.x = first.2.1.f.x ∧ x.2.1.op = first.2.1.op ∧ x.2.2.1 = first.2.2.1
        t.matrixRoom c.blk m = true →
        (¬ same → exec (o.instr f) s = .next (gone (t.acceptMatrix { m with err := failRecord 6 4 0 }))) ∧
        (same → ∀ pa pb, s.enginePieces c.blk 0 vaA 32 Range.r = .ok pa → s.enginePieces c.blk 0 vaB 32 Range.r = .ok pb →
          t.clearing core m.ti (pa ++ pb) false = none →
          let x := t.readPieces core m.ti pa
          let y := x.1.readPieces core m.ti pb
          x.2.1.any Prod.snd = false → y.2.1.any Prod.snd = false →
          exec (o.instr f) s = .next (gone (y.1.acceptMatrix
            (({ m with desc := x.2.1.map Prod.fst, desc2 := y.2.1.map Prod.fst, kt := tmax x.2.2 y.2.2 } : Cmd).ranged c.blk))))))

/-- Every step keeps memory and the stores of the cores in canonical form: addresses rise, and no byte is listed that reads as an unlisted one does.
Where the spec leaves it open it rests on the model's choices of log 4. -/
def Obligations.StepKeepsCanonicalMemory : Prop :=
  ∀ s t : State, s.memWf = true → Sys2Proof.Machine.step s = .next t → t.memWf = true

/-- Special functions and the fast division (R119 to R122).
Special functions (R119 to R122): the bits delivered are one function of the operand bits and FTZ for each form, within the
table of R121, and nothing else changes.
FDIVF (R119, R121).
Where the spec leaves it open it rests on the model's choices of log 7. -/
def Obligations.SpecialFunctionsAndDivision : Prop :=
  ((∀ o ∈ specialForms, ∀ f s c, Ready o f s c → c.poisoned = false → c.late = false → fpcsEnables c.fib.fpcs = 0 →
    ∃ t, exec (o.instr f) s = .next t ∧ ∃ out : LaneIn → LaneOut, After c (c.laneRes out) t ∧ ∀ i, SpecialRule o f i (out i)) ∧
  (∀ o ∈ specialForms, ∃ out : Ins → LaneIn → LaneOut,
    (∀ f i, SpecialRule o f i (out f i)) ∧
    (∀ f i j, i.a = j.a → fpcsFtz i.fpcs = fpcsFtz j.fpcs → out f i = out f j) ∧
    ∀ f s c, Ready o f s c → c.poisoned = false → c.late = false → fpcsEnables c.fib.fpcs = 0 →
      ∃ t, exec (o.instr f) s = .next t ∧ After c (c.laneRes (out f)) t)) ∧
  ((∀ f s c, Ready .fdivf f s c → c.poisoned = false → c.late = false → fpcsEnables c.fib.fpcs = 0 →
    ∃ t, exec (.fdivf f) s = .next t ∧ ∃ out : LaneIn → LaneOut, After c (c.laneRes out) t ∧ ∀ i, DivideRule i (out i)) ∧
  (∃ out : LaneIn → LaneOut, (∀ i, DivideRule i (out i)) ∧
    (∀ i j, i.a = j.a → i.b = j.b → fpcsFtz i.fpcs = fpcsFtz j.fpcs → out i = out j) ∧
    ∀ f s c, Ready .fdivf f s c → c.poisoned = false → c.late = false → fpcsEnables c.fib.fpcs = 0 →
      ∃ t, exec (.fdivf f) s = .next t ∧ After c (c.laneRes out) t))

/-- Quantisation by codebooks and evaluation of activation tables (R116 to R118, R123, R124).
Quantisation (R116, R117) where no CBLD to the slot is outstanding: each index QCB4 writes is the nearest entry's, the
lowest of equals, in the half it names of the old D; DQCB4 copies the entries its indices name.
TBLEV (R123, R124): the live table as it stands at issue, the segment of the operand, one rounding. -/
def Obligations.TablesAndCodebooks : Prop :=
  ((∀ f s c, Ready .qcb4 f s c → c.poisoned = false → c.late = false → fpcsEnables c.fib.fpcs = 0 →
    s.bookComing c.r.blk (bookSlot f.b) = none →
    ∃ t, exec (.qcb4 f) s = .next t ∧ ∃ out : LaneIn → LaneOut, After c (c.laneRes out) t ∧
      ∀ i, ∃ q : Nat → Nat,
        let ents := (List.range 16).map (bookEntry (s.bookOf c.r.blk (bookSlot f.b)))
        let x (k : Nat) : Nat := i.a / 2 ^ (16 * k) % 65536
        (∀ k < 4, QuantIndex ents (x k) (q k)) ∧
        out i = ans (if f.x.fn % 2 = 1 then i.d % 65536 + (q 0 + q 1 * 16 + q 2 * 256 + q 3 * 4096) * 65536
          else i.d / 65536 * 65536 + (q 0 + q 1 * 16 + q 2 * 256 + q 3 * 4096))
          (quantFlags ents (x 0) (q 0) ||| quantFlags ents (x 1) (q 1) ||| quantFlags ents (x 2) (q 2) ||| quantFlags ents (x 3) (q 3))) ∧
  (∀ f s c, Ready .dqcb4 f s c → c.poisoned = false → c.late = false →
    s.bookComing c.r.blk (bookSlot f.b) = none →
    ∃ t, exec (.dqcb4 f) s = .next t ∧ After c (c.laneRes (fun i =>
      let e (k : Nat) : Nat := bookEntry (s.bookOf c.r.blk (bookSlot f.b)) (i.a / 2 ^ (4 * (4 * (f.x.fn % 2) + k)) % 16)
      { v := some (e 0 + e 1 * 2 ^ 16 + e 2 * 2 ^ 32 + e 3 * 2 ^ 48) })) t)) ∧
  (∀ f s c, Ready .tblev f s c → c.poisoned = false → c.late = false →
    fpxSet c.fib.fpcs (c.laneRes (fun i => tableRule (s.tableOf c.r.blk (tabSlot f.b)) i.a)).effs = 0 →
    ∃ t, exec (.tblev f) s = .next t ∧ After c (c.laneRes (fun i => tableRule (s.tableOf c.r.blk (tabSlot f.b)) i.a)) t)

/-- Entering the trap handler by an instruction, and the return from it (R164, R167, R168, R204, R205). Which lanes a
return re-enters with is read by inference (log 22).
TRAP and BPT (R164, R167, R204): outside trap mode the fibre enters the handler with cause BPT, software for TRAP, and
TVAL the immediate; in trap mode the fault is latched and the instruction retires.
TRET (R168, R205): outside trap mode it is illegal; in trap mode with no second error pending the handler's lanes that
have not exited go to TPC, out of the masks they are parked on, and the fibre leaves trap mode; with one pending it enters
again at once for the first that was latched.
Where the spec leaves it open it rests on the model's choices of log 69. -/
def Obligations.TrapForms : Prop :=
  (∀ o ∈ [Op.trap, .bpt], ∀ f s c, Ready o f s c →
    let val : Dword := if o = .trap then BitVec.ofNat 64 (immB f) else 0
    (∀ entry, c.fib.trap = false → c.blk.trapEntry = some entry →
      exec (o.instr f) s = .next (s.modFib c.r (entered (if o = .trap then 22 else 6) val c.pc entry c.path))) ∧
    (c.fib.trap = true → exec (o.instr f) s = .next (did c (latched cBPT val)))) ∧
  (∀ f s c, Ready .tret f s c →
    (c.fib.trap = false → exec (.tret f) s = .next (s.raise c.r cILL (Op.tret.code.setWidth 64) c.pc c.path false 0)) ∧
    (c.fib.trap = true → c.fib.tpend.extractLsb' 0 4 = 0 → ∃ t, exec (.tret f) s = .next t ∧
      let on (j : Nat) : LaneSet := c.fib.lanesWith (fun l => l.handler && !l.exited && l.park == some (BitVec.ofNat 3 j))
      let free (j : Nat) : Bool := on j != 0 && maskFull (Mask.minus (c.fib.mask j) (on j))
      (t.fib c.r).trap = false ∧ (t.fib c.r).tpend = c.fib.tpend ∧ (t.fib c.r).tpval = c.fib.tpval ∧
      (∀ j < 8, (t.fib c.r).mask j = if on j = 0 then c.fib.mask j
        else if free j then { Mask.minus (c.fib.mask j) (on j) with arr := 0 } else Mask.minus (c.fib.mask j) (on j)) ∧
      (∀ l < c.fib.lanes.length, (t.fib c.r).lane l =
        let x := c.fib.lane l
        { x with
          pc := if x.handler && !x.exited then c.fib.tpc else if c.path.getLsbD l then c.pc + 12 else x.pc
          handler := false
          park := if x.handler then none else match x.park with | some j => if free j.toNat then none else some j | none => none }) ∧
      { t.fib c.r with lanes := [], j := [], trap := true } =
        { c.fib with lanes := [], j := [], stall := none, quantum := c.fib.quantum + 1 } ∧
      t = s.modFib c.r (fun _ => t.fib c.r)) ∧
    (c.fib.trap = true → c.fib.tpend.extractLsb' 0 4 ≠ 0 → ∃ t, exec (.tret f) s = .next t ∧
      let first := c.fib.tpend.toNat / 2 ^ 8 % 16
      let rest := c.fib.tpend &&& 0xF &&& ~~~(if first = cFPX then 1 else if first = cBPT then 2 else if first = cWCH then 4 else 8)
      let low : BitVec 12 := if rest.getLsbD 0 then 5 else if rest.getLsbD 1 then 6 else if rest.getLsbD 2 then 7 else 8
      (t.fib c.r).trap = true ∧ (t.fib c.r).tcause = BitVec.ofNat 6 (first + 32) ∧ (t.fib c.r).tval = c.fib.tpval ∧
      (t.fib c.r).tpval = 0 ∧ (t.fib c.r).tpend = (if rest = 0 then (0 : BitVec 12) else rest ||| (low <<< 8)) ∧
      (t.fib c.r).tpc = c.fib.tpc ∧ t = s.modFib c.r (fun _ => t.fib c.r)))

/-- Faults of the forms on memory (R125 to R127, R140, R141, R396).
Faults of the scratchpad and accumulator forms (R125, R126, R140, R141): RNG for the lowest lane outside its window, else ALN
for the lowest lane whose address is no multiple of the size; no lane does anything.
Faults of LDO and STO (R129), REDR (R335) and PATOM (R461): RNG for the lowest lane whose address the space does not admit, else ALN for
the lowest misaligned one.
Faults of the descriptors of commands and of the slot loads (R125, R261): RNG where the VA lies in no range with R, ALN where it is no
multiple of 32; an image in scratchpad likewise by its offset.
Faults of the global forms (R127, R140, R141, R371, R396): RNG for the lowest lane that no range admits, or whose page is
not there while its bytes are not in the level-one cache, with a fault record of the refusal's cause (log 11); else ALN; else WCH for the
lowest lane a watchpoint matches.
Where the spec leaves it open it rests on the model's choices of log 70. -/
def Obligations.AccessFaults : Prop :=
  (∀ e ∈ windowForms, ∀ f s c, Ready e.1 f s c → ∀ l,
    (c.lanes.find? (outside c e.2.1 e.2.2) = some l →
      exec (e.1.instr f) s = .next (s.raise c.r cRNG (accessTval true l (laneAddr c e.2.2 l)) c.pc c.path false 0)) ∧
    (c.lanes.find? (outside c e.2.1 e.2.2) = none →
      c.lanes.find? (fun k => decide ((laneAddr c e.2.2 k).toNat % 2 ^ 64 % c.size ≠ 0)) = some l →
      exec (e.1.instr f) s = .next (s.raise c.r cALN (accessTval true l (laneAddr c e.2.2 l)) c.pc c.path false 0))) ∧
  ((∀ o ∈ [Op.ldo, .sto], ∀ f s c, Ready o f s c → ∀ l,
    let a (k : Nat) : Nat := wrapTo 64 (laneAddr c true k)
    let out (k : Nat) : Bool := (s.mapPlace c.blk (a k) (f.x.ty == .b64)).isNone
    (c.lanes.find? out = some l →
      exec (o.instr f) s = .next (s.raise c.r cRNG (accessTval true l (a l)) c.pc c.path false 0)) ∧
    (c.lanes.find? out = none → c.lanes.find? (fun k => decide (a k % c.size ≠ 0)) = some l →
      exec (o.instr f) s = .next (s.raise c.r cALN (accessTval true l (a l)) c.pc c.path false 0))) ∧
  (∀ o ∈ [Op.redr, .patom], ∀ f s c, Ready o f s c → ∀ l,
    (c.lanes.find? (remoteOut o c) = some l →
      exec (o.instr f) s = .next (s.raise c.r cRNG (accessTval true l (remoteAddr o c l)) c.pc c.path false 0)) ∧
    (c.lanes.find? (remoteOut o c) = none →
      c.lanes.find? (fun k => decide ((remoteAddr o c k).toNat % 2 ^ 64 % c.size ≠ 0)) = some l →
      exec (o.instr f) s = .next (s.raise c.r cALN (accessTval true l (remoteAddr o c l)) c.pc c.path false 0)))) ∧
  ((∀ e ∈ describedBy, ∀ f s c, Ready e.1 f s c → c.mayCommand e.2.2 = true →
    (reachable c.blk (c.va 0) = false → exec (e.1.instr f) s = .next (s.raise c.r cRNG (accessTval false 0 (c.va 0)) c.pc c.path false 0)) ∧
    (reachable c.blk (c.va 0) = true → c.va 0 % 32 ≠ 0 → (∃ p, s.enginePieces c.blk 0 (c.va 0) 1 Range.r = .ok p) →
      exec (e.1.instr f) s = .next (s.raise c.r cALN (accessTval false 0 (c.va 0)) c.pc c.path false 0))) ∧
  (∀ e ∈ [(Op.tblld, 2080), (Op.cbld, 32)], ∀ f s c, Ready e.1 f s c → c.mayCommand .copy = true →
    (s.core c.blk.core).tabOwner = [] → (s.core c.blk.core).bookOwner = [] →
    (f.x.fn = 1 → c.blk.sspan < c.va 0 + e.2 →
      exec (e.1.instr f) s = .next (s.raise c.r cRNG (accessTval true 0 (c.va 0)) c.pc c.path false 0)) ∧
    (f.x.fn = 1 → c.va 0 + e.2 ≤ c.blk.sspan → c.va 0 % 32 ≠ 0 →
      exec (e.1.instr f) s = .next (s.raise c.r cALN (accessTval true 0 (c.va 0)) c.pc c.path false 0)) ∧
    (f.x.fn ≠ 1 → reachable c.blk (c.va 0) = false →
      exec (e.1.instr f) s = .next (s.raise c.r cRNG (accessTval false 0 (c.va 0)) c.pc c.path false 0)))) ∧
  (∀ e ∈ globalForms, ∀ f s c, Ready e.1 f s c → ∀ l,
    let bad (k : Nat) : Bool := !reaches c e.2.1 e.2.2 k
    let page (k : Nat) := c.attrAt (laneIa c e.2.1 k) (laneNs c e.2.1 k) c.size
    let addr (k : Nat) := wrapTo 64 (laneAddr c e.2.1 k)
    let fault (t : State) (cls : Nat) := t.raise c.r cls (accessTval false l (addr l)) c.pc c.path false 0
    let watched (k : Nat) : Bool := c.fib.watched (addr k) c.size (e.1 != .stg && e.1 != .redg) (e.1 != .ldg)
    (∀ pre post, c.lanes = pre ++ l :: post → (∀ k ∈ pre, bad k = false ∧ ∃ a, page k = .ok a) →
      (bad l = true → exec (e.1.instr f) s = .next (fault s cRNG)) ∧
      (bad l = false → page l = .error none → exec (e.1.instr f) s = .next (fault s cRNG)) ∧
      (∀ n, bad l = false → page l = .error (some n) → exec (e.1.instr f) s = .next
        (fault (s.faultRecord c.blk.vi (laneIa c e.2.1 l / 65536 * 65536) (addr l) n false c.blk.tag c.blk.task) cRNG))) ∧
    ((∀ k ∈ c.lanes, bad k = false ∧ ∃ a, page k = .ok a) →
      (c.lanes.find? (fun k => decide (addr k % c.size ≠ 0)) = some l → exec (e.1.instr f) s = .next (fault s cALN)) ∧
      (c.lanes.find? (fun k => decide (addr k % c.size ≠ 0)) = none → c.lanes.find? watched = some l → c.fib.trap = false →
        exec (e.1.instr f) s = .next (fault s cWCH))))

/-- Loads and stores of global memory.
Global loads (R133, R235, R239, R245): with every lane's bytes in the core's cache at the fibre's time they reach D at once
and ptime takes the largest time read; otherwise the lines that cannot be read are asked for, once each, at the largest time of their lanes, and the load
is left outstanding.
Global stores (R134, R233, R236, R245): the bytes of each line, in lane order, are marked dirty in the core's cache with the
fibre's time, or are sent to the home where the page is MANUAL or the order and scope ask for it and no byte of them is
dirty there.
Where the spec leaves it open it rests on the model's choices of log 18, log 26, log 28, log 67. -/
def Obligations.GlobalLoadsAndStores : Prop :=
  (∀ f s c, Ready .ldg f s c → c.poisoned = false → c.late = false → c.fib.latches cWCH = false → calm c →
    ∀ as, c.accesses (c.globalAcc Range.r c.size) false true false = .ok as →
    let l0 := outstanding c as 0 []
    let now (a : Acc) : Option (Nat × Time × Bool) := if l0.renews a then none
      else s.l1Read c.blk.core (l1Key (a.place / 128) a.ns) (a.place % 128) c.size c.fib.ptime
    let u := didReleased c (f.x.order == .sc)
    (∀ v : Acc → Nat, ∀ tm : Acc → Time, (∀ a ∈ as, now a = some (v a, tm a, false)) →
      exec (.ldg f) s = .next (numbered c
        ((u.modFib c.r (fun x => { x with ptime := as.foldl (fun t a => if a.attr = .priv then t else tmax t (tm a)) x.ptime })).applyEffs c.r
          (as.flatMap (fun a => vregEffs (destReg c) f.x.ty.words a.lane (loaded f.x.ty (v a))))))) ∧
    (let time (k : Nat × Bool) : Time := (as.filter (fun a => a.place / 128 = k.1 && a.ns = k.2)).foldl (fun t a => tmax t (readTime c a)) c.fib.ptime
     let need := ((as.filter (fun a => (now a).isNone)).map (fun a => (a.place / 128, a.ns))).eraseDups
     let ordered := f.x.order != .none && (f.x.scope == .c || f.x.scope == .d || f.x.scope == .s)
     let id := (s.warp c.r.blk c.r.warp).nextPend
     need ≠ [] →
      exec (.ldg f) s = .next (need.foldl (fun (t : State) k => t.newReq
          { core := c.blk.core, ref := c.r, pend := some id, line := k.1, ns := k.2, vi := c.blk.vi, tag := c.blk.tag
            tval := refusalTval as k.1
            kind := .read (time k) f.hnt.lease ordered })
        (u.addPend c.r (outstandingPend c (outstanding c as 0 ((List.range need.length).map (s.nextReq + ·)))))))) ∧
  (∀ f s c, Ready .stg f s c → c.poisoned = false → c.fib.latches cWCH = false → calm c →
    ∀ as, c.accesses (c.globalAcc Range.w c.size) false false true = .ok as →
    let keys := (as.map (fun a => (a.place / 128, a.ns, a.attr))).eraseDups
    let bytes (k : Nat × Bool × Attr) : List (Nat × Byte) :=
      (as.filter (fun a => a.place / 128 = k.1 && a.ns = k.2.1)).flatMap (fun a =>
        (storedBytes c a.lane).zipIdx.map (fun e => (a.place % 128 + e.2, e.1)))
    let through (k : Nat × Bool × Attr) : Bool := k.2.2 == .manual ||
      (k.2.2 == .leased && f.x.order != .none && (f.x.scope == .c || f.x.scope == .d || f.x.scope == .s))
    (∀ k ∈ keys, through k = true → ∀ l, s.l1 c.blk.core (l1Key k.1 k.2.1) = some l → ∀ e ∈ bytes k, l.dirtyAt e.1 = false) →
    exec (.stg f) s = .next (keys.foldl (fun (t : State) k =>
      if through k then t.newReq
        { core := c.blk.core, ref := c.r, line := k.1, ns := k.2.1, vi := c.blk.vi, tag := c.blk.tag
          tval := refusalTval as k.1
          kind := .write (bytes k) c.fib.ptime none false, raise := f.x.order == .sc && k.2.2 == .leased, hold := f.x.order == .sc }
      else t.dirty c.blk.core (l1Key k.1 k.2.1) k.2.2 (bytes k) (s.warp c.r.blk c.r.warp).slot c.fib.ptime false)
      (didReleased c (releases c))))

/-- Completion counters, and the instructions that only steer issue.
Completion counters (R252, R256, R257, R272): KWAIT goes on once the counter is at most the limit, ptime taking the
counter's time, and raises ILL with the error record if there is one; KADJ adds, KRD reads.
The instructions that only steer a fibre's issue (R159, R206 to R208, R317): NOP and YIELD, the runahead controls, and the
section that NPB opens and NPE closes. -/
def Obligations.CountersAndIssueControl : Prop :=
  (∀ f s c n, f.a = .sp (.ctr n) →
    let k := c.fib.ctr n.toNat
    (Ready .kwait f s c →
      (sext 32 k.val.toNat ≤ sext 32 (c.vb 0) → k.ec = 0 →
        exec (.kwait f) s = .next (did c (fun x => { x with ptime := tmax x.ptime k.kt }))) ∧
      (sext 32 k.val.toNat ≤ sext 32 (c.vb 0) → k.ec ≠ 0 →
        exec (.kwait f) s = .next ((s.modFib c.r (fun x => { x with k := x.k.set n.toNat { k with ec := 0 } })).raise
          c.r cILL k.ec c.pc c.path false 0)) ∧
      (sext 32 (c.vb 0) < sext 32 k.val.toNat → exec (.kwait f) s = .next (s.stallAt c.r c.pc .kwait f))) ∧
    (Ready .kadj f s c → exec (.kadj f) s =
      .next (did c (fun x => { x with k := x.k.set n.toNat { k with val := k.val + BitVec.ofNat 32 (c.vb 0) } }))) ∧
    (Ready .krd f s c → c.poisoned = false → c.late = false →
      ∃ t, exec (.krd f) s = .next t ∧ After c { effs := destEffs c.d 1 0 k.val.toNat } t)) ∧
  (∀ f s c, c.poisoned = false →
    (Ready .nop f s c → exec (.nop f) s = .next (did c)) ∧
    (Ready .yield f s c → exec (.yield f) s =
      .next ((did c).modWarp c.r.blk c.r.warp (fun w => { w with yieldUntil := s.now + immB f }))) ∧
    (Ready .ractlOff f s c → exec (.ractlOff f) s = .next (did c (fun x => { x with raOn := false }))) ∧
    (Ready .ractlOn f s c → exec (.ractlOn f) s =
      .next (did c (fun x => { x with raOn := x.raOn || (x.raC ≠ 0 && s.feature c.blk.service 3) }))) ∧
    (Ready .ractlThr f s c → exec (.ractlThr f) s = .next (did c (fun x => { x with
      raThr := if c.vb 0 < 64 then 64 else if 4095 < c.vb 0 then 4095 else c.vb 0 }))) ∧
    (Ready .npb f s c →
      (c.fib.sec = none → c.blk.stopping = false → exec (.npb f) s = .next (did c (fun x => { x with sec := some (c.pc, s.now) }))) ∧
      (c.fib.sec ≠ none → exec (.npb f) s = .next (s.raise c.r cILL (Op.npb.code.setWidth 64) c.pc c.path false 0))) ∧
    (Ready .npe f s c →
      (c.fib.sec ≠ none → exec (.npe f) s = .next (did c (fun x => { x with sec := none }))) ∧
      (c.fib.sec = none → exec (.npe f) s = .next (s.raise c.r cILL (Op.npe.code.setWidth 64) c.pc c.path false 0))))

/-- The forms of the matrix engine as they issue.
MMA and MMAS of a fibre whose G is 0 (R274, R282, R284, R287): with both maps reachable and aligned, no access of the fibre
awaited and room in the engine, the instruction retires with the command accepted, its maps as read.
Accumulator forms (R281, R293, R295 to R299): ACCZ, ACCLD, ACCCVT and ACCSCL issue their command, ACCZ.st reads and clears
the overflow flag of a bank, GANG sets G, OPF notes the local accesses that later matrix commands wait for.
Where the spec leaves it open it rests on the model's choices of log 13. -/
def Obligations.MatrixForms : Prop :=
  (∀ o ∈ [Op.mma, .mmas], ∀ f s c, Ready o f s c → c.poisoned = false → c.fib.g.setWidth 16 = 0 →
    let rows := c.lanes.map (fun l => (l, (BitVec.ofNat 32 (c.va l), BitVec.ofNat 32 (c.va l / 2 ^ 32))))
    let u := selfMember c rows
    let m : Cmd := { issued c .matrix 0 0 0 [] 0 with k := u.k, regs := paramWords c 8, members := [u] }
    (s.core c.blk.core).latches.any (fun g => g.blk = c.r.blk && g.fib = c.r.fib && g.members.any (fun x => x.1.warp = c.r.warp)) = false →
    s.opfWaits c.r = false → s.memHeld c.r true = false → s.matrixRoom c.blk m = true → m.mapA % 32 = 0 → m.mapB % 32 = 0 →
    ∀ pa pb, s.enginePieces c.blk 0 m.mapA 32 Range.r = .ok pa → s.enginePieces c.blk 0 m.mapB 32 Range.r = .ok pb →
    s.clearing c.blk.core c.fib.ptime (pa ++ pb) false = none →
    let x := s.readPieces c.blk.core c.fib.ptime pa
    let y := x.1.readPieces c.blk.core c.fib.ptime pb
    x.2.1.any Prod.snd = false → y.2.1.any Prod.snd = false →
    let m := { m with desc := x.2.1.map Prod.fst, desc2 := y.2.1.map Prod.fst, kt := tmax x.2.2 y.2.2 }
    exec (o.instr f) s = .next (c.retire (y.1.acceptMatrix (m.ranged c.blk)))) ∧
  (∀ f s c,
    (∀ o ∈ [Op.accz, .accscl, .accld, .acccvt], Ready o f s c → c.poisoned = false →
      s.opfWaits c.r = false → s.memHeld c.r true = false →
      let m : Cmd := { issued c .matrix 0 0 0 [] 0 with
        regs := paramWords c (if o = .accld ∨ o = .acccvt then 8 else 4), members := [selfMember c []]
        lanes := if o = .accscl then c.lanes.map (fun l => (l, BitVec.ofNat 32 (c.va l))) else [] }
      s.matrixRoom c.blk m = true →
      (o = .accz ∨ o = .accscl → exec (o.instr f) s = .next ((did c).acceptMatrix (m.ranged c.blk))) ∧
      (∀ p u bs t, o = .accld ∨ o = .acccvt → s.enginePieces c.blk 0 m.mapA 32 Range.r = .ok p → DescRead c m.mapA 32 u bs t →
        exec (o.instr f) s = .next ((c.retire u).acceptMatrix (({ m with desc := bs.map Prod.fst, kt := t } : Cmd).ranged c.blk)))) ∧
    (Ready .acczSt f s c → c.poisoned = false → c.late = false → ∀ n bank, f.a = .sp (.accb n) → c.blk.banks[n.toNat]? = some bank →
      (s.core c.blk.core).cmds.any (fun e => e.2.engine == .matrix && (s.block e.2.ref.blk).context e.2 == bank) = false →
      ∃ t, After c { effs := destEffs c.d 1 0 (if (s.core c.blk.core).iovf.getD bank false then 1 else 0) } t ∧
        exec (.acczSt f) s = .next (t.modCore c.blk.core (fun x => { x with iovf := x.iovf.set bank false }))) ∧
    (Ready .gang f s c →
      let g : Word := BitVec.ofNat 32 (c.vb 0 % 2 ^ 16)
      let n := (List.range 16).countP (fun i => g.getLsbD i)
      (g = 0 ∨ (g.getLsbD c.r.warp = true ∧ 2 ≤ n ∧ n ≤ 6 ∧ g.toNat < 2 ^ c.blk.warps.length) →
        exec (.gang f) s = .next (did c (fun x => { x with g := g }))) ∧
      (¬ (g = 0 ∨ (g.getLsbD c.r.warp = true ∧ 2 ≤ n ∧ n ≤ 6 ∧ g.toNat < 2 ^ c.blk.warps.length)) →
        exec (.gang f) s = .next (s.raise c.r cILL (Op.gang.code.setWidth 64) c.pc c.path false 0))) ∧
    (Ready .opf f s c → exec (.opf f) s = .next (did c (fun x => { x with
      opf := (((s.warp c.r.blk c.r.warp).pend.filter (fun e => e.2.fib = c.r.fib && (match e.2.body with
        | .load l => l.space != .global
        | _ => false))).map Prod.fst) }))))

/-- Named barriers and remote reductions.
Named barriers (R311 to R314): an arrival that is legal and waits for nothing is counted, and the phase turns if it is then
complete; BARA gives the phase as a token, BARX leaves for good; BARW and BARS go on when the phase of the token is past,
ptime taking the barrier's time, and stall until then. An arrival, or a token of BARW, that is not legal beside every arrival issued raises ILL; one that has to wait for a
release or a transfer retires as it issues and is left to be counted, BARS waiting for that.
REDR and REMOTE_REDUCTION (R335, R336): the lanes that name one address of a member that may receive make one request, the
lanes ascending; the event performs the request at the member's scratchpad in one step, unless an earlier one of the fibre
meets it, the member receives no more or the word is poisoned.
Where the spec leaves it open it rests on the model's choices of log 49. -/
def Obligations.BarriersAndReductions : Prop :=
  (∀ f s c,
    let x := s.bar c.r.blk f.x.scope (barOf f)
    let leave (y : State) (z : Bar) : State := (c.retire y).modFib c.r (fun w =>
      { w with ptime := tmax w.ptime z.last, phases := w.phases.erase c.pc.toNat })
    (Ready .bara f s c → mayArrive c (c.vb 0) →
      exec (.bara f) s = .next ((c.retire (afterArrival c (c.vb 0) false)).applyEffs c.r (destEffs c.d 1 0 x.ph.toNat))) ∧
    (Ready .barx f s c → mayArrive c 0 → exec (.barx f) s = .next (c.retire (afterArrival c 0 true))) ∧
    (Ready .barw f s c → c.barIll (barOf f) 0 = false →
      let t : Word := BitVec.ofNat 32 (c.vb 0)
      let z := s.barAhead c.r.blk f.x.scope (barOf f)
      let illegal := 0 < (t - z.ph).toInt ∨ (t = z.ph ∧ z.scp ≠ .none ∧ z.scp ≠ f.x.scope) ∨
        (t = z.ph - 1 ∧ z.lscp ≠ .none ∧ z.lscp ≠ f.x.scope)
      (illegal → exec (.barw f) s = .next (s.raise c.r cILL (Op.barw.code.setWidth 64) c.pc c.path false 0)) ∧
      (¬ illegal → 0 < (x.ph - t).toInt → exec (.barw f) s = .next (leave s x)) ∧
      (¬ illegal → ¬ 0 < (x.ph - t).toInt → exec (.barw f) s = .next (s.stallAt c.r c.pc .barw f))) ∧
    (Ready .bars f s c → c.fib.phases.find c.pc.toNat = none → mayArrive c (c.vb 0) →
      let y := (afterArrival c (c.vb 0) false).modFib c.r (fun w => { w with phases := w.phases.set c.pc.toNat (.bars (some x.ph)) })
      let z := y.bar c.r.blk f.x.scope (barOf f)
      (z.ph = x.ph + 1 → exec (.bars f) s = .next (leave y z)) ∧
      (z.ph = x.ph → exec (.bars f) s = .next (y.stallAt c.r c.pc .bars f))) ∧
    (∀ t, Ready .bars f s c → c.fib.phases.find c.pc.toNat = some (.bars (some t)) →
      (0 < (x.ph - t).toInt → exec (.bars f) s = .next (leave s x)) ∧
      (¬ 0 < (x.ph - t).toInt → exec (.bars f) s = .next (s.stallAt c.r c.pc .bars f))) ∧
    (∀ o ∈ [Op.bara, .bars, .barx], Ready o f s c → (o = .bars → c.fib.phases.find c.pc.toNat = none) →
      let cnt := if o = .barx then 0 else c.vb 0
      (¬ legalArrival c cnt → exec (o.instr f) s = .next (s.raise c.r cILL (o.code.setWidth 64) c.pc c.path false 0))) ∧
    (∀ cnt, legalArrival c cnt → c.arrivesNow f.x.scope = false →
      let a (drop : Bool) := leftToCount c cnt drop
      let id := (s.warp c.r.blk c.r.warp).nextPend
      (∀ u, c.d.us 1 = [u] → cnt = c.vb 0 → Ready .bara f s c → exec (.bara f) s =
        .next (((did c).addPend c.r { fib := c.r.fib, du := [u], since := s.now, body := .answer false }).addArrival c.r
          { a false with tok := some (u, id) })) ∧
      (cnt = 0 → Ready .barx f s c → exec (.barx f) s = .next ((did c).addArrival c.r (a true))) ∧
      (cnt = c.vb 0 → Ready .bars f s c → c.fib.phases.find c.pc.toNat = none → exec (.bars f) s =
        .next (((s.modFib c.r (fun w => { w with phases := w.phases.set c.pc.toNat (.bars none) })).addArrival c.r
          { a false with bars := some c.pc.toNat }).stallAt c.r c.pc .bars f))) ∧
    (Ready .bars f s c → c.fib.phases.find c.pc.toNat = some (.bars none) → exec (.bars f) s = .next (s.stallAt c.r c.pc .bars f))) ∧
  ((∀ f s c, Ready .redr f s c → c.poisoned = false → calm c → (∀ l ∈ c.lanes, remoteOk c l = true) →
    (∀ l ∈ c.lanes, (laneAddr c false l).toNat % 2 ^ 64 % c.size = 0) →
    exec (.redr f) s = .next ((remoteSpots c).foldl (fun (t : State) p =>
      match remoteMember c p.1 with
      | none => t
      | some e => { t with
          remreds := t.remreds.set t.nextRem ⟨c.r, e.1, p.2, f.x.aop, f.x.ty,
            (c.lanes.filter (fun l => (remoteRank c l, remoteOff c l) = p)).map (fun l => (l, BitVec.ofNat 64 (c.vd l)))⟩
          nextRem := t.nextRem + 1 }) (didReleased c (releases c)))) ∧
  ∀ s q, s.remreds.find s.arg.id = some q →
    let n := q.ty.bytes
    let b := s.block q.blk
    let place := b.sbase + q.off
    let t := { s with remreds := s.remreds.erase s.arg.id }
    let bad := (List.range n).any (fun i => (s.core b.core).uniPoison.contains ((place + i) / 4))
    (∀ e ∈ s.remreds, e.1 < s.arg.id → e.2.ref = q.ref → e.2.blk = q.blk →
      e.2.off + e.2.ty.bytes ≤ q.off ∨ q.off + n ≤ e.2.off) →
    (b.st = .resident → b.ending = false → b.failed = false → bad = false → exec .remoteReduction s = .next (t.storeWrite b.core place false
      (leBytes n (q.lanes.foldl (fun m e => atomValue q.aop q.ty m e.2.toNat 0)
        (leNat ((List.range n).map (fun i => (s.core b.core).uni.read (place + i)))))) false)) ∧
    (b.st ≠ .resident ∨ b.ending = true ∨ b.failed = true ∨ bad = true → exec .remoteReduction s = .next t))

/-- Fibre switches, fibre barriers, and the states of fibres.
Switches and fibre barriers (R156, R160, R161, R193, R194): FIBSW gives the slot up to a Ready fibre; FBARA, after a
release at warp scope, joins its participants and arrives with a token of the phase at the largest of ptime and its counters' times,
and a complete phase turns and wakes those who wait for it; FBARW goes on without a token, waits in Barrier-wait for a phase that stands, and leaves a complete
one with the largest ptime of its arrivals.
FIBQ and FRESUME (R171, R173, R195, R196): the states of a warp's fibres and the record of one; a frozen fibre whose record
is resumable becomes Ready again at its resume address or at the target given, and QD tells whether it did. -/
def Obligations.FibreControl : Prop :=
  (∀ f s c,
    (Ready .fibsw f s c → exec (.fibsw f) s =
      .next (did c (fun x => if s.otherReady c.r then { x with st := .ready } else x))) ∧
    (Ready .fbara f s c → canRelease c .w →
      let b := (match f.a with | .imm x => x.toNat | _ => 0) % 4
      let w := s.warp c.r.blk c.r.warp
      let x := w.fbs.get b {}
      let y := arrived x (BitVec.ofNat 4 (c.vb 0)) (1#4 <<< c.r.fib) ((s.transferCmds c.r).map (fun e => (e.1, c.r.fib, e.2.k))) c.fib.arrival
      let u := did c (fun z => { z with relw := z.ptime, tok := z.tok.set b x.phase })
      exec (.fbara f) s = .next (u.modWarp c.r.blk c.r.warp (fun w' =>
        if phaseFull w y then
          { w' with fbs := w'.fbs.set b (turned y)
                    fibs := w'.fibs.map (fun z => if z.st = .barrierWait ∧ z.tok.find b = some x.phase then { z with st := .ready, stall := none } else z) }
        else { w' with fbs := w'.fbs.set b y }))) ∧
    (Ready .fbarw f s c →
      let b := (match f.a with | .imm x => x.toNat | _ => 0) % 4
      let x := (s.warp c.r.blk c.r.warp).fbs.get b {}
      (c.fib.tok.find b = none → exec (.fbarw f) s = .next (did c)) ∧
      (c.fib.tok.find b = some x.phase → exec (.fbarw f) s =
        .next (s.modFib c.r (fun y => { y with st := .barrierWait, stall := some ⟨c.pc, .fbarw, f⟩ }))) ∧
      (∀ p, c.fib.tok.find b = some p → p ≠ x.phase → exec (.fbarw f) s =
        .next (did c (fun y => { y with tok := y.tok.erase b, ptime := (x.lasts.find p.toNat).elim y.ptime (tmax y.ptime) }))))) ∧
  (∀ f s c,
    (Ready .fibqState f s c → c.poisoned = false → c.late = false →
      let code (i : Nat) : Nat :=
        if c.blk.warps.length ≤ c.va 0 % 16 ∨ c.blk.nf ≤ i then 7
        else
          let x := s.fib ⟨c.r.blk, c.va 0 % 16, i⟩
          (match x.st with | .active => 0 | .ready => 1 | .waiting => 2 | .barrierWait => 3 | .frozen => 4 | .ended => 5) +
            (if x.trap then 8 else 0)
      ∃ t, exec (.fibqState f) s = .next t ∧
        After c { effs := destEffs c.d 1 0 (code 0 + 2 ^ 4 * code 1 + 2 ^ 8 * code 2 + 2 ^ 12 * code 3) } t) ∧
    (Ready .fibqRec f s c → c.poisoned = false → c.late = false →
      let w := c.va 0 / 4 % 16
      let i := c.va 0 % 4
      ∃ t, exec (.fibqRec f) s = .next t ∧
        After c { effs := destEffs c.d 8 0
                    (if c.blk.warps.length ≤ w ∨ c.blk.nf ≤ i then 0 else leNat (s.fib ⟨c.r.blk, w, i⟩).frec.bytes) } t) ∧
    (Ready .fresume f s c → canRelease c .b →
      let r : FRef := ⟨c.r.blk, c.va 0 / 4 % 16, c.va 0 % 4⟩
      let x := s.fib r
      let ok := decide (r.warp < c.blk.warps.length) && decide (r.fib < c.blk.nf) && decide (x.st = .frozen) &&
        decide (x.frec.rc.toNat ≠ cDBL) && (f.x.fn != 1 || decide (c.vb 0 < 2 ^ 57) && decide (c.vb 0 % 4 = 0)) && !c.blk.ending
      let target : VA := if f.x.fn = 1 then BitVec.ofNat 57 (c.vb 0) else x.frec.pc
      let q := match f.d with | .sp (.upred n _) => n.toNat | _ => 15
      let u := (did c (fun y => { y with relw := y.ptime, phases := y.phases.erase c.pc.toNat })).applyEff c.r (.upred q ok)
      exec (.fresume f) s = .next (if ok then u.modFib r (fun y => { y with
          lanes := y.lanes.mapIdx (fun l z => if x.frec.lanes.getLsbD l && !z.exited then { z with pc := target } else z)
          st := .ready, frozenFor := 0 }) else u)))

/-- Runahead from inside, and loads that read poison.
Execution in a runahead episode (R64, R213 to R217, R219, R222): forms on registers, local loads and hits of global loads go to the shadow
alone; stores, atomics and LDO change nothing and leave invalid destinations; a fault, a form without treatment, a poisoned source, the shared window or
want of entries ends the episode, which restores the fibre; and so do the trigger's data and another fibre that becomes Ready.
The consumption of poison by loads (R62, R142, R322): where a lane of a local load, or of a global load that lands, reads a poisoned byte, the
destinations take values of any kind in every active lane, and POI is raised.
Where the spec leaves it open it rests on the model's choices of log 84, log 67. -/
def Obligations.RunaheadAndPoison : Prop :=
  ((∀ o f s c e, Ahead o f s c e →
    let v : Ctx := { c with act := laneSet (c.lanes.filter (fun l => !c.srcInvalid e l)) }
    let ends : State := s.modFib c.r (restored e)
    (∀ forms rule, (forms, rule) ∈ [(intForms, intRule), (bitForms, bitRule), (moveForms, moveRule), (floatForms, floatRule),
        (compareForms, compareRule), (convertForms, convertRule)] → o ∈ forms →
      let x := c.laneRes (rule o f)
      (v.poisoned = false → fits c e x.effs = true → ∃ t, exec (o.instr f) s = .next t ∧
        Shadowed c e x.effs (fun l => c.srcInvalid e l || !x.sr.isEmpty) t) ∧
      (v.poisoned = true ∨ fits c e x.effs = false → exec (o.instr f) s = .next ends)) ∧
    (o ∈ [Op.fence, .fibsw, .nop, .yield] → v.poisoned = false → fits c e [] = true → ∃ t, exec (o.instr f) s = .next t ∧ Shadowed c e [] (fun _ => false) t) ∧
    (o ∈ [Op.lds, .lda] → v.poisoned = false → (∀ l ∈ c.lanes, c.srcInvalid e l = false) → ∀ at', SpotsOf o c at' →
      let wait (l : Nat) : Bool := s.readHeld (at' l).1 c.r.blk (at' l).2.2 c.size ((at' l).2.1 == 1)
      let bad (l : Nat) : Bool := (List.range c.size).any (fun i => s.storePoison (at' l).1 ((at' l).2.2 + i) ((at' l).2.1 == 1))
      let effs := c.lanes.flatMap (fun l => vregEffs (destReg c) f.x.ty.words l (loaded f.x.ty (spotValue s (at' l) c.size)))
      ((∀ l ∈ c.lanes, bad l = true → wait l = true) → fits c e effs = true →
        ∃ t, exec (o.instr f) s = .next t ∧ Shadowed c e effs (fun l => decide (l ∈ c.lanes) && wait l) t) ∧
      (∀ l ∈ c.lanes, bad l = true → wait l = false → exec (o.instr f) s = .next ends)) ∧
    (o ∈ [Op.sts, .sta, .sto, .atoms, .reds, .cass, .ldo] → v.poisoned = false → (∃ at', SpotsOf o v at') → ∀ effs, destsOf c effs →
      (o.dOnlySrc = true → fits c e [] = true → ∃ t, exec (o.instr f) s = .next t ∧ Shadowed c e [] (fun _ => false) t) ∧
      (o.dOnlySrc = false → fits c e effs = true → ∃ t es, exec (o.instr f) s = .next t ∧ destsOf c es ∧ Shadowed c e es (fun _ => true) t)) ∧
    (o = .ldg → v.poisoned = false → f.x.order = .none ∨ f.x.order = .rlx → (∀ l ∈ c.lanes, c.srcInvalid e l = false) → ∀ as,
      c.accesses (c.globalAcc Range.r c.size) false true false = .ok as →
      (∀ l ∈ c.lanes, isMapIa (laneIa c true l) = false ∧ (isIdentity (laneIa c true l) = true → c.blk.service = true)) →
      ∀ val : Acc → Nat, (∀ a ∈ as, a.attr ≠ .manual ∧
        s.l1Read c.blk.core (l1Key (a.place / 128) a.ns) (a.place % 128) c.size c.fib.ptime = some (val a, c.fib.ptime, false)) →
      let effs := as.flatMap (fun a => vregEffs (destReg c) f.x.ty.words a.lane (loaded f.x.ty (val a)))
      fits c e effs = true → ∃ t, exec (o.instr f) s = .next t ∧ Shadowed c e effs (fun _ => false) t) ∧
    (o ∈ endingForms ∨ 0x200 ≤ o.code.toNat → exec (o.instr f) s = .next ends)) ∧
  (∀ o f s e, s.mayIssue s.cur.ref s.cur.pc = true → (s.fib s.cur.ref).ra = some e →
    f.hnt.rx = true ∨ s.illegalBit (s.block s.cur.ref.blk).service o f ≠ none ∨ (o.cls = .s ∧ (s.block s.cur.ref.blk).service = false) →
    exec (o.instr f) s = .next (s.modFib s.cur.ref (restored e))) ∧
  (∀ (s : State) (r : FRef) e, (s.fib r).ra = some e →
    (∀ i, i ∈ s.readyOthers r → i ∉ e.ready → s.settleRa r = s.modFib r (restored e)) ∧
    ((s.readyOthers r).all e.ready.contains = true → s.settleRa r = s.modFib r (fun x => { x with ra := some { e with ready := s.readyOthers r } }))) ∧
  (∀ s p l e, let r := s.arg.ref
    (s.warp r.blk r.warp).pend.find s.arg.id = some p → p.body = .load l → l.refused = none → l.failed = false → l.poisoned = false →
    l.reqs = [] → l.space = .global → l.op = .ldg → (s.fib r).ra = some e → e.trigger = s.arg.id →
    (∀ x ∈ (s.warp r.blk r.warp).pend, x.1 < s.arg.id → x.2.fib = r.fib → ∀ k, x.2.body = .load k → k.space ≠ .global) →
    ∀ v : Acc → Nat, ∀ tm : Acc → Time, (∀ a ∈ l.accs, s.laneRead r l a = some (v a, tm a, false)) →
    exec .loadCompletion s = .next ((((unpend s r s.arg.id).modFib r (fun x =>
        { x with ptime := l.accs.foldl (fun t a => if a.attr = .priv then t else tmax t (tm a)) x.ptime })).applyEffs r
      (l.accs.flatMap (fun a => vregEffs l.d l.ty.words a.lane (loaded l.ty (v a))))).modFib r (restored e)))) ∧
  ((∀ o ∈ [Op.lds, .lda], ∀ f s c, Ready o f s c → c.poisoned = false → c.late = false → calm c → ∀ at', SpotsOf o c at' →
    (∀ l ∈ c.lanes, s.overlapping c.r (at' l).1 (at' l).2.2 c.size ((at' l).2.1 == 1) = [] ∧
      s.readingMatrix (at' l).1 (at' l).2.2 c.size ((at' l).2.1 == 1) = []) →
    (∃ l ∈ c.lanes, ∃ i < c.size, s.storePoison (at' l).1 ((at' l).2.2 + i) ((at' l).2.1 == 1) = true) →
    ∃ es k, destsOf c es ∧ exec (o.instr f) s = .next ((({ numbered c (didReleased c (releases c)) with free := s.free + k } : State).applyEffs c.r es).consumePoison c.r 0)) ∧
  (∀ s p l, let r := s.arg.ref
    (s.warp r.blk r.warp).pend.find s.arg.id = some p → p.body = .load l → l.refused = none → l.failed = false →
    l.reqs = [] → l.space = .global → l.op = .ldg → (s.fib r).ra = none →
    (∀ x ∈ (s.warp r.blk r.warp).pend, x.1 < s.arg.id → x.2.fib = r.fib → ∀ k, x.2.body = .load k → k.space ≠ .global) →
    ∀ v : Acc → Nat, ∀ tm : Acc → Time, ∀ bad : Acc → Bool, (∀ a ∈ l.accs, s.laneRead r l a = some (v a, tm a, bad a)) → (∃ a ∈ l.accs, bad a = true) →
    ∃ es k ia, (∀ x, x ∈ es.map aimOf ↔ ∃ a ∈ l.accs, ∃ i < l.ty.words, x = (0, l.d + i, a.lane)) ∧
      exec .loadCompletion s = .next ((({ (unpend s r s.arg.id).modFib r (fun x =>
          { x with ptime := l.accs.foldl (fun t a => if a.attr = .priv then t else tmax t (tm a)) x.ptime }) with free := s.free + k } : State).applyEffs r es).consumePoison r ia)))

/-- Loads, stores and atomics of the scratchpad, the accumulator windows and the on-chip map (R125, R133, R134, R136, R137).
That their stores act at issue is read by inference (log 23).
Loads of the scratchpad, the accumulator windows and the on-chip map (R125, R133, R134): each active lane takes its bytes,
extended by the type, and nothing else changes.
Stores to them (R133, R134): the low bytes of D at each lane's address, lanes ascending, after the release of a `.rel`.
Atomics, reductions and compare-and-swap on the scratchpad (R136, R137): the lanes act one after another, ascending; the old
values reach D, but of a reduction.
Where the spec leaves it open it rests on the model's choices of log 67, log 70. -/
def Obligations.LocalAccesses : Prop :=
  (∀ o ∈ [Op.lds, .lda, .ldo], ∀ f s c, Ready o f s c → c.poisoned = false → c.late = false → calm c →
    ∀ at', SpotsOf o c at' → (∀ l ∈ c.lanes, spotClear c (at' l)) →
    exec (o.instr f) s = .next (numbered c ((didReleased c (releases c)).applyEffs c.r
      (c.lanes.flatMap (fun l => vregEffs (destReg c) c.f.x.ty.words l (loaded c.f.x.ty (spotValue s (at' l) c.size))))))) ∧
  (∀ o ∈ [Op.sts, .sta, .sto], ∀ f s c, Ready o f s c → c.poisoned = false → c.late = false → calm c →
    ∀ at', SpotsOf o c at' → (∀ l ∈ c.lanes, spotClear c (at' l)) →
    exec (o.instr f) s = .next (numbered c (c.lanes.foldl
      (fun t l => spotStore t (at' l) c.size (c.vd l % 2 ^ 128)) (didReleased c (releases c))))) ∧
  (∀ o ∈ [Op.atoms, .reds, .cass], ∀ f s c, Ready o f s c → c.poisoned = false → c.late = false → calm c →
    ∀ at', SpotsOf o c at' → (∀ l ∈ c.lanes, spotClear c (at' l)) →
    let x := atomLocal c (if o = .cass then 9 else f.x.aop) (o == .cass) (o == .reds) at' c.lanes (didReleased c (releases c))
    exec (o.instr f) s = .next (numbered c (x.1.applyEffs c.r x.2)))

/-- Atomics, reductions and compare-and-swap of global memory (R137, R240, R245).
Global atomics, reductions and compare-and-swap on pages that are not PRIVATE (R137, R240): one request to the home for each
address, its lanes ascending; one that returns a value is left outstanding for the replies.
The same on PRIVATE pages (R245), with the lines in the core's cache: performed there, lanes ascending.
Where the spec leaves it open it rests on the model's choices of log 18, log 67. -/
def Obligations.GlobalAtomicsAnywhere : Prop :=
  (∀ o ∈ [Op.atomg, .redg, .casg], ∀ f s c, Ready o f s c → c.poisoned = false → c.fib.latches cWCH = false → calm c →
    ∀ as, c.accesses (c.globalAcc Range.a c.size) false (o != .redg) true = .ok as → (∀ a ∈ as, a.attr ≠ .priv) →
    let xs := withOperands c (o == .casg) as
    let aop := if o = .casg then 9 else f.x.aop
    let id := (s.warp c.r.blk c.r.warp).nextPend
    let u := didReleased c (releases c)
    let u := if o = .redg then u
      else u.addPend c.r (outstandingPend c (outstanding c xs aop ((List.range (heads as).length).map (s.nextReq + ·))))
    exec (o.instr f) s = .next ((heads xs).foldl (fun (t : State) a =>
      t.newReq (atomRequest c xs aop (if o = .redg then none else some id) a)) u)) ∧
  (∀ o ∈ [Op.atomg, .redg, .casg], ∀ f s c, Ready o f s c → c.poisoned = false → c.late = false → c.fib.latches cWCH = false →
    calm c → ∀ as, c.accesses (c.globalAcc Range.a c.size) false (o != .redg) true = .ok as →
    (∀ a ∈ as, a.attr = .priv ∧ ∃ l, lineOfAcc s a = some l ∧ l.attr = .priv ∧ l.has (a.place % 128) c.size = true ∧
      ∀ e ∈ l.secs, e.2.poison = false ∧ e.2.dpoison = false) →
    let x := atomPrivate c (if o = .casg then 9 else f.x.aop) (withOperands c (o == .casg) as) (didReleased c (releases c))
    exec (o.instr f) s = .next (numbered c (x.1.applyEffs c.r
      (if o = .redg then [] else x.2.flatMap (fun e => vregEffs (destReg c) f.x.ty.words e.1 e.2)))))

/-- Kick queues and the notices sent to them (R353 to R355).
Kick queues (R353): KICKCFG.open checks its limits, opens the record with the next generation and gives the handle; `.free`
gives buffers back; `.close` closes the record and fails its pending notices.
NOTIFY and its notice (R354, R355): the counter counts it, and after a release at device scope the notice is sent; at a queue
of the generation and VI that the handle names it is pending, at another it fails with CODE 5, at a full one it returns and
is sent again 1 μs later; landing reads it, and in a second event copies it into the buffer with its header and completes both
counters.
Where the spec leaves it open it rests on the model's choices of log 34, log 57. -/
def Obligations.QueuesAndNotices : Prop :=
  (∀ f s c, c.poisoned = false → c.late = false →
    let core := c.blk.core
    (Ready .kickcfgOpen f s c →
      let rbase := paramWord c 0
      let bufsz := paramWord c 1
      let nbuf := paramWord c 2
      let q := paramWord c 3
      let ok := rbase % 32 = 0 ∧ bufsz % 32 = 0 ∧ 32 ≤ bufsz ∧ bufsz ≤ 65536 ∧ 1 ≤ nbuf ∧ nbuf ≤ 64 ∧ q ≤ 7 ∧
        rbase + nbuf * (bufsz + 32) ≤ c.blk.sspan ∧ (kickOf s core q).owner = none
      let gen := (kickOf s core q).gen + 1
      (ok → ∃ u, After c { effs := destEffs c.d 2 0 (core / 33 + core % 33 * 2 ^ 4 + q * 2 ^ 10 + c.blk.vi * 2 ^ 16 + gen.toNat * 2 ^ 32) } u ∧
        exec (.kickcfgOpen f) s = .next (setKick u core q
          { owner := some c.r.blk, fib := c.r, k := (match f.a with | .sp (.ctr n) => n.toNat | _ => 0), gen := gen
            rbase := rbase, bufsz := bufsz, nbuf := nbuf, free := nbuf, landing := (kickOf s core q).landing })) ∧
      (¬ ok → exec (.kickcfgOpen f) s = .next (s.raise c.r cILL (Op.kickcfgOpen.code.setWidth 64) c.pc c.path false 0))) ∧
    (Ready .kickcfgFree f s c →
      let q := c.va 0
      let x := kickOf s core q
      (x.owner = some c.r.blk → q ≤ 7 → c.vb 0 ≤ x.nbuf - x.free →
        exec (.kickcfgFree f) s = .next (setKick (did c) core q { x with free := x.free + c.vb 0 })) ∧
      (x.owner ≠ some c.r.blk ∨ 7 < q ∨ x.nbuf - x.free < c.vb 0 →
        exec (.kickcfgFree f) s = .next (s.raise c.r cILL (Op.kickcfgFree.code.setWidth 64) c.pc c.path false 0))) ∧
    (Ready .kickcfgClose f s c →
      let q := c.va 0
      let x := kickOf s core q
      (x.owner = some c.r.blk → q ≤ 7 → exec (.kickcfgClose f) s =
        .next (x.pend.foldl (fun t n => t.endNotice n 0 5) (setKick (did c) core q { x with owner := none, pend := [] }))) ∧
      (x.owner ≠ some c.r.blk ∨ 7 < q →
        exec (.kickcfgClose f) s = .next (s.raise c.r cILL (Op.kickcfgClose.code.setWidth 64) c.pc c.path false 0)))) ∧
  ((∀ f s c, Ready .notify f s c → c.mayCommand .copy = true →
    let h := c.va 0
    let va : Nat := paramWord c 0 + paramWord c 1 * 2 ^ 32
    let len := paramWord c 2
    len % 4 = 0 → 4 ≤ len → len ≤ 65536 → h / 2 ^ 48 % 2 ^ 16 = 0 → h / 2 ^ 22 % 2 ^ 10 = 0 → h / 2 ^ 13 % 8 = 0 →
    h % 16 ≤ 5 → h / 16 % 64 ≤ 31 →
    (∃ ps, s.enginePieces c.blk 0 va len Range.r = .ok ps) → va % 4 = 0 →
    ∀ g, vaRange c.blk va = some g → g.r = true → (g.ns = true ∨ c.blk.ns = false) → va + len ≤ g.vabase + g.gran * 65536 →
    va + len ≤ 2 ^ 57 →
    let m : Cmd := { issued c .copy va 0 0 [] 0 with started := true }
    let tried := (c.fib.phases.find c.pc.toNat).isSome
    let count (x : Fibre) : Fibre := if tried then x else
      { x with k := x.k.set m.k { x.ctr m.k with val := (x.ctr m.k).val + 1 }, phases := x.phases.set c.pc.toNat .counted }
    let u := (did c (fun x => { count x with relw := x.ptime, phases := (count x).phases.erase c.pc.toNat })).queueCmd m
    (tried = false → ∃ t, exec (.notify f) s = .next t ∧ (t.fib c.r).ctr m.k = { c.fib.ctr m.k with val := (c.fib.ctr m.k).val + 1 }) ∧
    (canRelease c .d → exec (.notify f) s = .next { u with
      notices := s.notices.set s.nextNotice
        { n := { core := c.blk.core, cmd := (s.core c.blk.core).nextCmd, ia := g.iabase + (va - g.vabase), len := len
                 uword := BitVec.ofNat 32 (paramWord c 3), tn := c.fib.ptime, vi := c.blk.vi, tag := c.blk.tag, ns := c.blk.ns }
          core := 33 * (h % 16) + h / 16 % 64, queue := h / 2 ^ 10 % 8, gen := BitVec.ofNat 16 (h / 2 ^ 32), hvi := h / 2 ^ 16 % 64 }
      nextNotice := s.nextNotice + 1 })) ∧
  (∀ s p, s.notices.find s.arg.id = some p → p.returned = none → s.noticeBehind s.arg.id p = false →
    let q := kickOf s p.core p.queue
    let t := { s with notices := s.notices.erase s.arg.id }
    (∀ b, q.owner = some b → q.gen = p.gen → (s.block b).vi = p.hvi → (p.n.ns = false ∨ (s.block b).ns = true) →
      (q.pend.length < 64 → exec .noticeArrival s = .next (setKick t p.core p.queue { q with pend := q.pend ++ [p.n] })) ∧
      (64 ≤ q.pend.length → exec .noticeArrival s =
        .next { s with notices := s.notices.set s.arg.id { p with returned := some s.now } })) ∧
    (q.owner = none ∨ q.gen ≠ p.gen ∨ (∃ b, q.owner = some b ∧ ((s.block b).vi ≠ p.hvi ∨ (p.n.ns = true ∧ (s.block b).ns = false))) →
      exec .noticeArrival s = .next (t.endNotice p.n 0 5))) ∧
  (∀ s p at', s.notices.find s.arg.id = some p → p.returned = some at' → at' + 700 ≤ s.now →
    exec .noticeResend s = .next { s with notices := s.notices.set s.arg.id { p with returned := none } }) ∧
  (∀ s blk n rest m, let core := s.arg.core; let q := kickOf s core s.arg.index
    q.owner = some blk → q.landing = none → q.pend = n :: rest → 0 < q.free → (s.core n.core).cmds.find n.cmd = some m →
    let b := s.block blk
    let place := b.sbase + q.rbase + q.next * q.bufsz
    let head := b.sbase + q.rbase + q.nbuf * q.bufsz + 32 * q.next
    let x : Landing := { n := n, gen := q.gen, core := core, buf := place, bufsz := q.bufsz, head := head, seq := q.seq + 1, fib := q.fib, k := q.k }
    (∀ ps, n.len ≤ q.bufsz →
      s.iaPieces { s.block m.ref.blk with core := core } n.ia n.len (s.lineHome (n.ia / 128)).ns = .ok ps →
      s.clearing core n.tn ps false = none →
      let y := s.readPieces core n.tn ps
      exec .noticeLanding s = .next (setKick (y.1.pinLines (core / 33) (pieceLines ps)) core s.arg.index { q with
        pend := rest
        landing := some { x with
          runs := layRuns [{ kind := 1, core := core, place := place, n := n.len }] y.2.1, t := y.2.2, lines := pieceLines ps } })) ∧
    (q.bufsz < n.len →
      exec .noticeLanding s = .next (setKick s core s.arg.index { q with pend := rest, landing := some { x with status := 2 } }))) ∧
  (∀ s x, let core := s.arg.core; let q := kickOf s core s.arg.index
    q.landing = some x →
    let t := x.runs.foldl (fun t r => t.storeWrite x.core r.addr false r.bytes r.poison) s
    let t := t.storeWrite x.core x.head false (landHeader x.n x.status x.seq.toNat) false
    let q' : KickQ := if q.gen = x.gen then { q with free := q.free - 1, next := (q.next + 1) % q.nbuf, seq := x.seq } else q
    exec .noticeLanding s = .next (setKick ((landCounter t x.fib x.k x.t).endNotice x.n x.t (if x.status = 0 then 0 else 2))
      core s.arg.index { q' with landing := none })))

/-- Migration, waits, wakes and time (R357, R359 to R361).
MIGRATE (R357): illegal for a block of several warps or of a cluster, or inside a section; a VA in no range raises RNG; at the
home die QD is true at once; with a landing slot there and no other stop asked for it is true and the block begins to move,
without one it is false.
Waits, wakes and time (R359 to R361): WAITA asks for a registration and stalls, and when its value has come writes it;
on a PRIVATE page it reads once, when the line can be had; WAKEA, after its release, wakes what is registered on the line, with a permit
free toward its home and no earlier request of its die on the line; PTADV
advances ptime by at most 2^20, and asks for a step of the horizon where the time it makes needs one (R380).
Where the spec leaves it open it rests on the model's choices of log 53. -/
def Obligations.MigrationAndWaits : Prop :=
  (∀ f s c, Ready .migrate f s c → c.poisoned = false → c.late = false →
    let q := match f.d with | .sp (.upred n _) => n.toNat | _ => 15
    let ia (g : Range) : Nat := g.iabase + (c.va 0 - g.vabase)
    (c.blk.warps.length ≠ 1 ∨ 1 < c.blk.csize ∨ c.fib.sec ≠ none →
      exec (.migrate f) s = .next (s.raise c.r cILL (Op.migrate.code.setWidth 64) c.pc c.path false 0)) ∧
    (c.blk.warps.length = 1 → c.blk.csize ≤ 1 → c.fib.sec = none →
      (vaRange c.blk (c.va 0) = none → exec (.migrate f) s =
        .next (s.raise c.r cRNG (accessTval false 0 (c.va 0)) c.pc c.path false 0)) ∧
      (∀ g, vaRange c.blk (c.va 0) = some g → (g.ns = true ∨ c.blk.ns = false) → c.va 0 < 2 ^ 57 →
        let h := (s.home (ia g)).1
        (h = c.blk.core / 33 → ∃ t, exec (.migrate f) s = .next t ∧ After c { effs := [.upred q true] } t) ∧
        (h ≠ c.blk.core / 33 → 16 ≤ (s.die h).landed ∨ c.blk.stopping = true →
          ∃ t, exec (.migrate f) s = .next t ∧ After c { effs := [.upred q false] } t) ∧
        (h ≠ c.blk.core / 33 → (s.die h).landed < 16 → c.blk.stopping = false →
          ∃ t, After c { effs := [.upred q true] } t ∧ exec (.migrate f) s =
            .next ((t.modDie h (fun d => { d with landed := d.landed + 1 })).modBlock c.r.blk
              (fun x => { x with stopping := true, reason := .migrate, landing := some h })))))) ∧
  (∀ f s c,
    (∀ v, Ready .waita f s c → c.poisoned = false → c.late = false → c.fib.phases.find c.pc.toNat = some (.got v) →
      ∃ t, After c { effs := destEffs c.d f.x.ty.words 0 v.toNat } t ∧
        exec (.waita f) s = .next (t.modFib c.r (fun x => { x with phases := x.phases.erase c.pc.toNat }))) ∧
    (∀ ps, Ready .waita f s c → c.fib.phases.find c.pc.toNat = none → s.enginePieces c.blk 0 (c.va 0) 1 Range.r = .ok ps →
      c.va 0 % c.size = 0 → c.fib.watched (c.va 0) c.size true false = false → s.memHeld c.r true = false →
      let p := ps.headD default
      s.lineBusy c.r [p.place / 128] true = false →
      (p.attr ≠ .priv → exec (.waita f) s = .next ((s.waitaRegister c.r c.pc.toNat
        { line := p.place / 128, off := p.place % 128, n := c.size, e := BitVec.ofNat 64 (c.vb 0), ns := p.ns, scope := f.x.scope
          tval := accessTval false 0 (c.va 0) }).stallAt c.r c.pc .waita f)) ∧
      (p.attr = .priv →
        let x := s.readPiece c.blk.core c.fib.ptime { p with n := c.size }
        s.clearing c.blk.core c.fib.ptime [{ p with n := c.size }] false = none → x.2.1.any Prod.snd = false → exec (.waita f) s =
          .next ((c.retire x.1).applyEffs c.r (destEffs c.d f.x.ty.words 0 (leNat (x.2.1.map Prod.fst)))))) ∧
    (∀ ps, Ready .wakea f s c → s.enginePieces c.blk 0 (c.va 0) 1 Range.w = .ok ps → canRelease c f.x.scope →
      let p := ps.headD default
      (p.attr = .priv ∨ (s.permitFree c.blk.core (p.place / 128) = true ∧ s.lineBefore s.nextReq c.blk.socket (p.place / 128) = false)) →
      exec (.wakea f) s = .next (if p.attr = .priv then didReleased c true
        else ((didReleased c true).countSeqs c.blk.core [p.place / 128]).wakeLine (p.place / 128) .wakea)) ∧
    (Ready .ptadv f s c →
      let t := did c (fun x => { x with ptime := x.ptime + BitVec.ofNat 64 (if c.vb 0 ≤ 2 ^ 20 then c.vb 0 else 2 ^ 20) })
      exec (.ptadv f) s = .next { t with stepReq := t.stepReq || tle (s.h + 0x20000000) (t.fib c.r).ptime }))

/-- Package time, and the errors of stores and memory (R378 to R381, R384 to R386).
Package time (R378 to R381, R384): a beacon brings every chiplet to within 2^19 of BMAX; a report raises BMAX; a sweep of
a chiplet raises its mtime to the threshold H + 2^28 − 2^30, reporting first where that lies too far past the last beacon; with every live die and chiplet swept the horizon moves on by 2^28,
the epoch counts it and the device's own held writes are tried again; refresh changes nothing.
Errors of the stores and of memory (R322, R384, R385): corrected ones are counted; an uncorrectable one in a word of a block
marks it, in a sector of memory, of data on the base die or a dirty sector of a home marks the sector, in a clean sector of a home or
of the level-one cache or in a copy drops it.
Where the spec leaves it open it rests on the model's choices of log 48. -/
def Obligations.TimeAndErrors : Prop :=
  (∀ s : State,
    exec .beaconBroadcast s = .next { s with chiplets := s.chiplets.map (fun e =>
      (e.1, { e.2 with seen := s.bmax, mtime := tmax e.2.mtime (s.bmax - 0x80000) })) } ∧
    ((s.chiplet s.arg.chiplet).reporting = false → exec .beaconReport s =
      .next { s with bmax := tmax s.bmax (s.chiplet s.arg.chiplet).mtime }) ∧
    ((s.chiplet s.arg.chiplet).reporting = true → ∃ t, exec .beaconReport s =
        .next { s.modChiplet s.arg.chiplet (fun x => { x with reporting := false }) with bmax := t } ∧
      let held := (s.evicts.filter (fun e => s.chipletOf e.2.pa = s.arg.chiplet)).foldl (fun t e => tmax t e.2.rt)
        (tmax s.bmax (s.chiplet s.arg.chiplet).mtime)
      t = if s.stepReq && !s.swept.contains s.arg.chiplet then tmax held (s.h + 0x10000000 - 0x40000000) else held) ∧
    (s.stepReq = true → s.swept.contains s.arg.die = false →
      let q := s.h + 0x10000000 - 0x40000000
      let near := tle q (s.chiplet s.arg.die).mtime || tle q ((s.chiplet s.arg.die).seen + 0x80000)
      (6 ≤ s.arg.die → near = true → exec .sweepPass s = .next { s.modChiplet s.arg.die (fun x => { x with mtime := atLeast q x.mtime }) with
        swept := s.arg.die :: s.swept }) ∧
      (6 ≤ s.arg.die → near = false → exec .sweepPass s = .next (s.modChiplet s.arg.die (fun x => { x with reporting := true }))) ∧
      (s.arg.die < 6 → ∃ t, exec .sweepPass s = .next t ∧ t.swept = s.arg.die :: s.swept ∧
        (∀ line h, s.homes.find line = some h → (s.home (line * 128)).1 = s.arg.die →
          t.homes.find line = some { h with wt := atLeast q h.wt, rt := atLeast q h.rt }) ∧
        (∀ r, s.hasFib r = true → (s.block r.blk).core / 33 = s.arg.die → (s.block r.blk).st = .resident →
          (t.fib r).ptime = atLeast q (s.fib r).ptime ∧ (∀ k ∈ (t.fib r).k, ∃ c, (k.1, c) ∈ (s.fib r).k ∧
            k.2 = { c with kt := atLeast q c.kt })) ∧
        (∀ line c, (t.die s.arg.die).copies.find line = some c → precedes c.ver.rt q = false) ∧
        t.mem = s.mem ∧ t.h = s.h ∧ t.epoch = s.epoch ∧ t.chiplets = s.chiplets ∧ t.reqs = s.reqs ∧ t.evicts = s.evicts)) ∧
    (s.stepReq = true → (∀ d ∈ s.liveDies ++ s.liveChiplets, s.swept.contains d = true) →
      let q := s.h + 0x10000000 - 0x40000000
      exec .horizonStep s = .next (State.drainDevq { s with
        h := s.h + 0x10000000, epoch := s.epoch + 1, stepReq := false, swept := []
        bridge := { s.bridge with bt := atLeast q s.bridge.bt }, fabric := { s.fabric with ft := atLeast q s.fabric.ft } })) ∧
    exec .refresh s = .next s) ∧
  (∀ s : State,
    (s.arg.flag = false →
      (s.arg.ecc = .clean → exec .scrub s = .next s) ∧
      (s.arg.ecc = .corrected → exec .scrub s = .next (s.modChiplet s.arg.chiplet (fun x => { x with cecnt := satInc x.cecnt 1 }))) ∧
      (s.arg.ecc = .uncorrectable → exec .scrub s = .next { s.modChiplet s.arg.chiplet (fun x => { x with uecnt := satInc x.uecnt 1 }) with
        memPoison := if s.memPoison.contains s.arg.sector then s.memPoison else s.arg.sector :: s.memPoison })) ∧
    (s.arg.flag = true → s.arg.ecc = .clean → (s.chiplet s.arg.chiplet).scrubAt + 3600000000 * s.boot.scrubH * 700 ≤ s.now →
      exec .scrub s = .next (s.modChiplet s.arg.chiplet (fun x => { x with scrubs := x.scrubs + 1, scrubAt := s.now }))) ∧
    (let c := s.arg.core
     let counted := s.modCore c (fun x => { x with uecnt := satInc x.uecnt 1 })
     (s.arg.ecc = .clean → exec .storeError s = .next s) ∧
     (s.arg.ecc = .corrected → exec .storeError s = .next (s.modCore c (fun x => { x with cecnt := satInc x.cecnt 1 }))) ∧
     (s.arg.ecc = .uncorrectable →
      (∀ e b, (e, b) ∈ s.blocks → b.core = c → b.st = .resident → s.arg.flag = false → b.sbase ≤ 4 * s.arg.index →
        4 * s.arg.index < b.sbase + b.sspan → exec .storeError s = .next (counted.modCore c (fun x => { x with
          uniPoison := if x.uniPoison.contains s.arg.index then x.uniPoison else s.arg.index :: x.uniPoison }))) ∧
      (∀ l, s.wordOwned c s.arg.index s.arg.flag = false →
        s.l1 c (2 * s.arg.line + (if s.arg.value ≠ 0 then 1 else 0)) = some l →
        let key := 2 * s.arg.line + (if s.arg.value ≠ 0 then 1 else 0)
        let x := l.sec (s.arg.sector % 4)
        exec .storeError s = .next (counted.setL1 c key (l.setSec (s.arg.sector % 4)
          (if x.mine = 0 then { x with valid := false } else { x with dpoison := true })))))) ∧
    (s.arg.place = .memory → exec .memoryError s = .next
      { s.modChiplet (s.chipletOf (32 * s.arg.sector)) (fun x => { x with uecnt := satInc x.uecnt 1 }) with
        memPoison := if s.memPoison.contains s.arg.sector then s.memPoison else s.arg.sector :: s.memPoison }) ∧
    (s.arg.place = .homeCopy → ∀ h, s.homes.find s.arg.line = some h → h.dirty.getLsbD (s.arg.sector % 4) = true →
      exec .memoryError s = .next (withHome s s.arg.line { h with poison := setBit h.poison (s.arg.sector % 4) true })) ∧
    (s.arg.place = .homeCopy → ∀ h, s.homes.find s.arg.line = some h → h.dirty.getLsbD (s.arg.sector % 4) = false →
      exec .memoryError s = .next (withHome s s.arg.line { h with valid := setBit h.valid (s.arg.sector % 4) false })) ∧
    (s.arg.place = .eviction → ∀ e, s.evicts.find s.arg.id = some e → exec .memoryError s =
      .next { s with evicts := s.evicts.set s.arg.id { e with poison := setBit e.poison (s.arg.sector % 4) true } }) ∧
    (s.arg.place = .message → ∀ q x t lease ordered, s.reqs.find s.arg.id = some q → q.kind = .read t lease ordered →
      q.reply = some x → (s.home (q.line * 128)).1 ≠ q.core / 33 → exec .memoryError s = .next (withReq s s.arg.id
        { q with reply := some { x with ver := { x.ver with poison := setBit x.ver.poison (s.arg.sector % 4) true } } })) ∧
    (s.arg.place = .message → ∀ q, s.reqs.find s.arg.id = some q → (s.home (q.line * 128)).1 ≠ q.core / 33 →
      (∀ bytes stamp wb bad, q.kind = .write bytes stamp wb bad → q.reply = none → exec .memoryError s = .next (withReq s s.arg.id
        { q with kind := .write bytes stamp wb true })) ∧
      (∀ off aop ty lanes t ret, q.kind = .atomic off aop ty lanes t ret → q.reply = none → exec .memoryError s = .next (withReq s s.arg.id
        { q with bad := true })) ∧
      (∀ x off aop ty lanes t ret, q.kind = .atomic off aop ty lanes t ret → q.reply = some x → exec .memoryError s = .next (withReq s s.arg.id
        { q with reply := some { x with poisoned := true } }))) ∧
    (s.arg.place = .fill → ∀ h, s.homes.find s.arg.line = none → (s.fill s.arg.line).homes.find s.arg.line = some h →
      exec .memoryError s = .next (withHome (s.fill s.arg.line) s.arg.line { h with poison := setBit h.poison (s.arg.sector % 4) true })) ∧
    (s.arg.place = .engine → ∀ m, (s.core s.arg.core).cmds.find s.arg.id = some m → (s.home (s.arg.line * 128)).1 ≠ s.arg.core / 33 →
      exec .memoryError s = .next (s.modCore s.arg.core (fun c => { c with cmds := c.cmds.set s.arg.id { m with
        badData := if m.badData.contains (4 * s.arg.line + s.arg.sector % 4) then m.badData
          else (4 * s.arg.line + s.arg.sector % 4) :: m.badData } }))) ∧
    (s.arg.place = .requesterCopy → exec .memoryError s =
      .next (s.modDie s.arg.die (fun d => { d with copies := d.copies.erase s.arg.line }))))

/-- Results left outstanding and the events of fibres (R39, R42, R58, R149, R159, R174, R211 to R213, R235, R240, R317). Whether a
result is left outstanding is the schedule's choice (log 3).
Events of a fibre (R39, R42, R58, R149, R159, R174, R211 to R213, R235, R240, R317): a fetched word reaches its path and the
buffer; a result left outstanding is written; a load lands when every lane can be read; a quantum, a section and a freeze run
out; a runahead episode begins, with every register and predicate that is outstanding invalid.
Results left outstanding (R39, R58, log 3): an integer, logic or move form that is not to complete at once moves its path on and
leaves its changes to its completion, in the next entry of the slot's scoreboard.
Where the spec leaves it open it rests on the model's choices of log 12, log 68. -/
def Obligations.ResultsAndFibreEvents : Prop :=
  (∀ s : State, let r := s.arg.ref; let f := s.fib r
    (∀ ia, s.mayIssue r s.arg.pc = true → s.leads r s.arg.pc = true → CodeAt s (s.block r.blk) s.arg.pc ia →
      exec .fetchReturn s = .next ((keepsWord s r s.arg.pc (codeWord s ia)).modFib r (fun x =>
        { x with fetched := some (s.arg.pc, codeWord s ia) }))) ∧
    (∀ p effs, (s.warp r.blk r.warp).pend.find s.arg.id = some p → p.body = .result effs →
      let q : FRef := ⟨r.blk, r.warp, p.fib⟩
      (s.fib q).ra = none → exec .instructionCompletion s = .next ((unpend s r s.arg.id).applyEffs q effs)) ∧
    (∀ p l, (s.warp r.blk r.warp).pend.find s.arg.id = some p → p.body = .load l → l.refused = none → l.failed = false → l.poisoned = false →
      l.reqs = [] → l.space = .global → f.ra = none →
      (l.op = .ldg → (∀ e ∈ (s.warp r.blk r.warp).pend, e.1 < s.arg.id → e.2.fib = r.fib → ∀ k, e.2.body = .load k → k.space ≠ .global) →
        ∀ v : Acc → Nat, ∀ tm : Acc → Time, (∀ a ∈ l.accs, s.laneRead r l a = some (v a, tm a, false)) →
        exec .loadCompletion s = .next (((unpend s r s.arg.id).modFib r (fun x =>
            { x with ptime := l.accs.foldl (fun t a => if a.attr = .priv then t else tmax t (tm a)) x.ptime })).applyEffs r
          (l.accs.flatMap (fun a => vregEffs l.d l.ty.words a.lane (loaded l.ty (v a)))))) ∧
      (l.op = .atomg ∨ l.op = .casg → (∀ a ∈ l.accs, a.attr ≠ .priv) →
        exec .loadCompletion s = .next (((unpend s r s.arg.id).modFib r (fun x =>
            { x with ptime := if l.order = .rlx ∨ l.t = 0 then x.ptime else tmax x.ptime l.t })).applyEffs r
          (l.accs.flatMap (fun a => vregEffs l.d l.ty.words a.lane (l.olds.get a.lane 0).toNat))))) ∧
    (f.st = .active → 256 ≤ f.quantum → s.otherReady r = true →
      exec .quantumExpiry s = .next (s.modFib r (fun x => { x with st := .ready, quantum := 0 }))) ∧
    (∀ at' opened, f.ra = none → f.sec = some (at', opened) → opened + 65536 ≤ s.now →
      exec .npx s = .next (between (s.modFib r (fun x => { x with sec := none })) r 8 (at'.setWidth 64))) ∧
    (f.st = .frozen → (s.block r.blk).st = .resident → (s.block r.blk).ending = false →
      (let ms := (s.vi (s.block r.blk).vi).freezelim.toNat; (if ms = 0 then 1 else ms) * 1000 * 700 < s.now - f.frozenAt + f.frozenFor) →
      ∃ t, exec .freezeLimitExpiry s = .next t ∧ t = s.endFrozen r.blk 12 f.frec ∧ (t.block r.blk).ending = true ∧ (t.fib r).st = .frozen) ∧
    (∀ id, s.trigger r = some id → f.st = .active → f.trap = false → f.raOn = true → f.raC ≠ 0 → f.ra = none → s.held r = false →
      s.feature (s.block r.blk).service 3 = true → (f.quantum < 256 ∨ s.otherReady r = false) →
      (∀ pc ∈ f.pcs, pc ∈ f.stuck) → s.stalledOn r id s.arg.pc = true →
      let out := (s.warp r.blk r.warp).pend.map Prod.snd
      let mine := out.filter (fun p => p.fib = r.fib)
      exec .runaheadEntry s = .next (s.modFib r (fun y => { y with
        stall := none
        ra := some { trigger := id, lanes0 := f.lanes, s0 := f.s, q0 := f.q, x0 := f.x, entries := [], shadow := []
                     inval := out.flatMap (fun p => p.dv.flatMap (fun d => (lanesOf d.2).map (fun l => 64 * d.1 + l)))
                     pinval := (mine.flatMap Pend.dp).foldl (fun m d => m.set d.1 (m.get d.1 0 ||| d.2)) []
                     sinval := mine.flatMap Pend.du
                     qinval := (mine.flatMap Pend.dq).foldl (fun q n => setBit q n true) 0
                     xinval := false, dormant := ~~~(f.path s.arg.pc), ready := s.readyOthers r } })))) ∧
  (∀ o ∈ intForms ++ bitForms ++ moveForms, ∀ f s c, Ready o f s c → c.poisoned = false → c.late = true → fpcsEnables c.fib.fpcs = 0 →
    let rule := if o ∈ intForms then intRule o f else if o ∈ bitForms then bitRule o f else moveRule o f
    (c.laneRes rule).effs ≠ [] →
    ∃ u p, After c {} u ∧ p.body = .result (c.laneRes rule).effs ∧ p.fib = c.r.fib ∧ p.since = s.now ∧
      exec (o.instr f) s = .next (u.modWarp c.r.blk c.r.warp (fun w =>
        { w with pend := w.pend.set w.nextPend p, nextPend := w.nextPend + 1 })))

/-- Drains of a virtual interface, and Tamper (R219, R391, R401, R402, R410 to R412).
RUN and the drain of a virtual interface (R391, R401, R402, R431): RUN 0 begins a drain; past DRAINLIM every resident block
begins to stop; with none left, and its writes made, the queues go back to the table and then the counters of CTXSV count down; RUN 1 reads the queue
table of a drained interface.
Tamper (R219, R283, R326, R410 to R412): a turn of a die begins the drain of one core; its episodes and presentations end, its
clusters stop, and after three deferrals every block; a drain of
20 ms is abandoned; an emptied core is scanned, its log reported with kind 4 or 5, and it returns to service or is
quarantined.
Where the spec leaves it open it rests on the model's choices of log 30, log 37, log 47, log 52, log 79. -/
def Obligations.DrainsAndTamper : Prop :=
  (∀ s : State, let vi := s.arg.vi
    let v := s.vi vi
    let open' := s.boot.ready = true ∧ vi < s.boot.viCount
    (¬ open' → exec .viPreempt s = .next s ∧ exec .viResume s = .next s) ∧
    (open' → v.run = true → v.drained = false → exec .viPreempt s = .next ((s.storeArea vi).modVi vi (fun v =>
      { v with run := false, starting := false, drainAt := some s.now }))) ∧
    (open' → v.run = false → v.starting = false → v.uibase = 0 ∨ v.areaDirty = [] →
      (v.uibase ≠ 0 ∧ s.readable v.uibase.toNat 0x4000 = false) ∨ (v.drained = true ∧ s.readable v.qtbase.toNat 4096 = false) →
      ∃ u, exec .viResume s = .next u ∧ (u.vi vi).run = false ∧ (u.vi vi).starting = true ∧ (u.vi vi).drained = v.drained) ∧
    (open' → v.run = false → v.starting = false → v.uibase = 0 ∨ v.areaDirty = [] →
      v.uibase = 0 ∨ s.readable v.uibase.toNat 0x4000 = true → v.drained = false ∨ s.readable v.qtbase.toNat 4096 = true →
      exec .viResume s = .next ((s.loadArea vi).modVi vi (fun x => { x with
      run := true, starting := false, drained := false, drainAt := none, force := false
      queues := if v.drained then (List.range 128).map (fun p => (p, { queueOf (s.devBytes (v.qtbase.toNat + 32 * p) 32) with headAt := s.now }))
        else v.queues }))) ∧
    (∀ t, v.drainAt = some t → v.force = true ∨ t + 700 * (if v.drainlim = 0 then 1 else v.drainlim.toNat) ≤ s.now →
      ∃ u, exec .drainLimitExpiry s = .next u ∧ ∀ n, (s.blocks.find n).isSome = true → (s.block n).vi = vi → (s.block n).st = .resident →
        (s.block n).service = false → (s.block n).ending = false → (u.block n).stopping = true ∧
        ((s.block n).stopping = false → (u.block n).reason = .preempt)) ∧
    (v.run = false → v.starting = false → v.drained = false → v.areaDirty = [] → (∀ e ∈ s.blocks, e.2.vi = vi → e.2.service = false → e.2.st ≠ .resident) →
      ((∃ w ∈ s.devq, w.2.2.2.2.1 = vi) → exec .drainComplete s = .next s) ∧
      ((∀ w ∈ s.devq, w.2.2.2.2.1 ≠ vi) →
        let u := v.queues.foldl (fun u q => if q.2.en then
            (u.devWrite (v.qtbase.toNat + 32 * q.1 + 16) (leBytes 8 q.2.head ++ leBytes 8 q.2.tail) s.h false (vi, 0)).1 else u) s
        exec .drainComplete s = .next (if u.devq.any (fun w => decide (w.2.2.2.2.1 = vi)) then u
          else v.ctxsv.foldl (fun u e => u.modFib e.1 (fun f => { f with k := f.k.set e.2 { f.ctr e.2 with val := (f.ctr e.2).val - 1 } }))
            (u.modVi vi (fun v => { v with drained := true, drainAt := none, force := false, ctxsv := [] })))))) ∧
  ((∀ (s : State) i, let d := s.arg.die
    let c := 33 * d + i
    (∀ j < 32, (s.core (33 * d + j)).tamper ≠ .draining) → (s.die d).turnAt + 1000000 * s.boot.tamperS * 700 / 32 ≤ s.now →
    TurnTakes s d i →
    ∃ u, exec .tamperTurn s = .next u ∧
      (u.core c).tamper = .draining ∧ (u.core c).drainAt = s.now ∧ (u.die d).turnAt = s.now ∧
      u.core c = { s.core c with
        tamper := .draining, drainAt := s.now
        latches := (s.core c).latches.filter (fun g => !s.blocks.any (fun e => decide (e.1 = g.blk ∧ e.2.st = .resident ∧ e.2.core = c))) } ∧
      (u.die d).rotation = (if 0 < (s.core c).deferred then (s.die d).rotation else i) ∧
      (∀ n, (s.blocks.find n).isSome = true → (s.block n).st = .resident → (s.block n).core = c →
        (∀ w ∈ (u.block n).warps, ∀ f ∈ w.fibs, f.ra = none) ∧
        ((s.core c).deferred < 3 → (∀ e ∈ s.blocks, e.2.st = .resident → e.2.core = c → e.2.csize ≤ 1) →
          (u.block n).stopping = (s.block n).stopping) ∧
        (3 ≤ (s.core c).deferred ∨ 1 < (s.block n).csize → (s.block n).ending = false → (u.block n).stopping = true))) ∧
  (∀ s : State, let c := s.arg.core
    c % 33 < 32 → (s.core c).tamper = .draining → (s.core c).deferred < 3 → (s.core c).drainAt + 14000000 ≤ s.now →
    (∃ e ∈ s.blocks, e.2.st = .resident ∧ e.2.core = c) →
    exec .tamperDrainTimeout s = .next (s.modCore c (fun x => { x with tamper := .inService, deferred := x.deferred + 1 }))) ∧
  (∀ s : State, let c := s.arg.core
    let x := s.core c
    let a := BitVec.ofNat 64 (c / 33 + c % 33 * 16)
    x.tamper = .draining → (∀ e ∈ s.blocks, e.2.st = .resident → e.2.core ≠ c) → x.cmds = [] →
    let told (kind : Nat) : State := if x.tall
      then (lanesOf x.tvis).foldl (fun u v => u.event v kind 1 0 0 a x.tpass) s
      else x.tlog.reverse.foldl (fun u e => u.event e.1 kind 0 e.2 0 a x.tpass) s
    (s.arg.flag = true → exec .tamperScan s = .next ((told 4).modCore c (fun y => scanned y s.ns .inService))) ∧
    (s.arg.flag = false →
      let u := (List.range s.boot.viCount).foldl (fun u v => u.event v 7 0 0 0 a 0)
        ((told 5).modCore c (fun y => scanned y s.ns .quarantined))
      exec .tamperScan s = .next { u with cores := u.cores.map (fun e =>
        (e.1, if e.1 % 33 = 32 then { e.2 with latch := true } else e.2)) })))

/-- The host's accesses, the heads and the handover (R359, R416 to R419, R422 to R425, R445).
The host's accesses and the lines it shares (R359, R416 to R419): in device bias a read renews at BT with a lease of 1 and enters
the host-view filter while there is room, a write is a HomeWrite with stamp BT; in host bias the bridge's M data of the line go first; a snoop or an eviction takes a host line from
the bridge, M data going to the host, and only SnpInv and evictions raise BT; an answer of the host brings a line.
Heads, HWAIT and the handover area (R422 to R425, R445): the active head registers on a line; RELEASE is its to write; links go
down and up; a standby head adopts where it may, and then no host line, filter entry or registration of the old head is left
and every lost M line's key is under purge; an update waits until every
line it writes can be written, and leaves SEQ two further on.
Where the spec leaves it open it rests on the model's choices of log 39, log 63, log 82. -/
def Obligations.HostSide : Prop :=
  (∀ s : State,
    (∀ h, let ia := s.arg.ia
      let line := ia / 128
      let off := ia % 128
      InDevice s line h → s.boot.ready = true →
      (let n := min s.arg.index (128 - off)
       let rt := tmax h.rt (tmax s.bridge.bt h.wt)
       let known := s.bridge.filter.contains line
       let room := known || decide (s.bridge.filter.length < 32768)
       s.arg.flag = false → roomFor s rt →
       exec .hostCxlMemRead s = .next { withHome (noted s rt) line { h with rt := rt, used := s.now } with bridge := { s.bridge with
         bt := tmax s.bridge.bt h.wt
         filter := if known ∨ room = false then s.bridge.filter else line :: s.bridge.filter
         lastRead := (List.range n).map (fun i => lineByte h.data (off + i))
         lastPoison := (List.range n).any (fun i => h.poison.getLsbD ((off + i) / 32))
         lastCacheable := room } }) ∧
      (let bytes := (s.arg.data.take (128 - off)).zipIdx.map (fun e => (off + e.2, e.1))
       let w := tmax s.bridge.bt (h.rt + 1)
       let u := (withHome (noted s w) line { h with
         data := lineMerge h.data bytes, poison := poisonRule h.poison bytes s.arg.flag, wt := w, rt := w, c := 0, used := s.now
         dirty := h.dirty ||| sectorsOf bytes }).wakeLine line .write
       roomFor s w → exec .hostCxlMemWrite s = .next { u with bridge := { u.bridge with bt := tmax u.bridge.bt w } })) ∧
    (∀ h l, let ia := s.arg.ia
      let line := ia / 128
      let off := ia % 128
      s.homes.find line = none → isIdentity ia = false → isHostWindow ia = false → s.flipping ia = false →
      s.translate ia = .ok l → s.translate (128 * line) = .ok l → l.bias = true → l.pa ia = l.pa (128 * line) + off →
      s.bridge.lines.find line = some h → h.st = .m → s.boot.ready = true →
      (s.arg.flag = false → ∃ u, exec .hostCxlMemRead s = .next u ∧ u.bridge.bt = s.bridge.bt ∧ (u.bridge.lines.find line).map HostLine.st = some .s ∧
        u.bridge.lastRead = (List.range (min s.arg.index (128 - off))).map (fun i => lineByte h.data (off + i))) ∧
      (∃ u, exec .hostCxlMemWrite s = .next u ∧ u.bridge.lines.find line = none ∧ u.bridge.bt = tmax s.bridge.bt (h.rt + 1) ∧
        ∀ i < 128, u.mem.read (l.pa (128 * line) + i) =
          if off ≤ i ∧ i - off < s.arg.data.length then s.arg.data.getD (i - off) 0 else lineByte h.data i)) ∧
    (∀ h, let line := s.arg.line
      s.bridge.lines.find line = some h → isHostWindow (128 * line) = true →
      let told := if h.st = .m then (line, h.data) :: s.bridge.toHost else s.bridge.toHost
      (s.arg.flag = false → exec .snpData s = .next { s with bridge := { s.bridge with
        toHost := told, lines := (s.bridge.lines.erase line).set line { h with st := .s, tags := [] } } }) ∧
      (s.arg.flag = true → exec .snpData s = .next { s with bridge := { s.bridge with toHost := told } }) ∧
      exec .snpInv s = .next ((hostLineGone s line h).wakeHost line) ∧
      exec .bridgeEviction s = .next (hostLineGone s line h)) ∧
    (∀ own, let line := s.arg.line
      s.bridge.asked.find line = some own → s.arg.data.length = 128 → s.devq = [] →
      let asked := if own = true ∧ s.arg.flag = false then s.bridge.asked else s.bridge.asked.erase line
      (s.bridge.lines.find line = none → s.bridge.lines.length < 65536 →
        let x : HostLine := { st := if s.arg.flag then .e else .s, data := BitVec.ofNat 1024 (leNat s.arg.data), wt := s.bridge.bt, rt := s.bridge.bt }
        exec .cxlCacheResponse s = .next { s with bridge := { s.bridge with asked := asked, lines := s.bridge.lines.set line x } }) ∧
      (∀ h, s.bridge.lines.find line = some h →
        let x : HostLine := { h with st := if s.arg.flag = true ∧ h.st = .s then .e else h.st }
        exec .cxlCacheResponse s = .next { s with bridge := { s.bridge with asked := asked, lines := s.bridge.lines.set line x } })) ∧
    (s.arg.line ∈ s.bridge.invPend → s.devq = [] →
      exec .bisnpinvResponse s = .next { s with bridge := { s.bridge with
        filter := s.bridge.filter.filter (· ≠ s.arg.line), invPend := s.bridge.invPend.filter (· ≠ s.arg.line) } }) ∧
    (s.boot.ready = false → s.arg.flag = false → exec .hostCxlMemRead s = .next s ∧ exec .hostCxlMemWrite s = .next s)) ∧
  (∀ s : State,
    (let line := s.arg.value.toNat / 128 % 2 ^ 45
     let d := (s.home (line * 128)).1
     let l := (s.die d).waits.get line []
     s.boot.ready = true → s.arg.head = s.bridge.active → l ≠ [] ∨ ((s.die d).waits.filter (fun e => !e.2.isEmpty)).length < 4096 →
     exec .hwait s = .next (s.modDie d (fun x => { x with waits := x.waits.set line (.host s.arg.head (s.arg.value.toNat / 2 ^ 56) :: l) }))) ∧
    (s.boot.ready = false → ∀ i ∈ [Instr.hwait, .release, .adopt, .headLinkUp], exec i s = .next s) ∧
    (s.arg.head ≠ s.bridge.active → exec .hwait s = .next s ∧ exec .release s = .next s) ∧
    (s.boot.ready = true → s.arg.head = s.bridge.active → exec .release s = .next { s with bridge := { s.bridge with releaseReq := true } }) ∧
    (s.bridge.links.length = 2 → s.arg.head < 2 →
      (s.boot.ready = true → exec .headLinkUp s = .next { s with bridge := { s.bridge with links := s.bridge.links.set s.arg.head true } }) ∧
      exec .headLinkDown s = .next { s with bridge := { s.bridge with
        links := s.bridge.links.set s.arg.head false
        downAt := if s.arg.head = s.bridge.active ∧ s.bridge.links.getD s.arg.head false = true then s.now else s.bridge.downAt } }) ∧
    (s.arg.head = s.bridge.active ∨ 1 < s.arg.head ∨ ¬ adoptable s → exec .adopt s = .next s) ∧
    (s.boot.ready = true → s.arg.head ≠ s.bridge.active → s.arg.head ≤ 1 → adoptable s → ∃ u, exec .adopt s = .next u ∧
      u.bridge.active = s.arg.head ∧ u.bridge.adoptions = s.bridge.adoptions + 1 ∧ u.bridge.releaseReq = false ∧ u.bridge.lines = [] ∧
      u.bridge.filter = [] ∧
      (∀ d ∈ u.dies, ∀ w ∈ d.2.waits, ∀ v, .host s.bridge.active v ∉ w.2) ∧
      (s.bridge.links.getD s.bridge.active false = false → ∀ e ∈ s.bridge.lines, e.2.st = .m → ∀ t ∈ e.2.tags, t.2 ≠ 0 →
        u.purging t.1 t.2 = true)) ∧
    (s.bridge.hobase = 0 → exec .handoverUpdate s = .next s) ∧
    (s.bridge.hobase ≠ 0 → let lines := (s.bridge.hobase.toNat / 128 :: s.handoverRuns.map (fun e => e.1 / 128)).eraseDups
      ((∃ l ∈ lines, s.devReady l s.h = false) → exec .handoverUpdate s =
        .next ((lines.filter (fun l => !s.devReady l s.h)).foldl (fun u l => u.devAsk l s.h) s)) ∧
      let tables := (s.vis.filter (fun e => e.2.drained && e.2.qtbase ≠ 0)).map (fun e => e.2.qtbase.toNat)
      ((∀ l ∈ lines, s.devReady l s.h = true) → (∀ a ∈ tables, s.readable a 4096 = true) → s.handoverRuns = [] →
        exec .handoverUpdate s = .next s) ∧
      ((∀ l ∈ lines, s.devReady l s.h = true) → (∀ a ∈ tables, s.readable a 4096 = true) → s.handoverRuns ≠ [] → ∃ u, exec .handoverUpdate s = .next u ∧ u.bridge.handSeq = s.bridge.handSeq + 2 ∧
        (s.bridge.hobase.toNat % 4096 = 0 → u.devBytes s.bridge.hobase.toNat 8 = leBytes 8 (s.bridge.handSeq + 2).toNat))))

/-- The ports of the fabric, and the way of a packet (R446 to R454, R457).
Ports (R446, R447, R451, R454, R457): EN trains a port and takes it down; training ends in Up with the partner's identifier or fails
after 10 ms; a failure loses the replay buffer; a good flit in order is taken with its acknowledgement and credits, a damaged
one negatively acknowledged; a replay sends again what was asked for, and after eight in a row that failed the port fails.
Routing (R448 to R451, R453): a packet for the module's own identifier is delivered, one without an entry dropped and counted; it
goes by a candidate that is Up, chosen by the two identifiers for class O, else by the escape channel; one without a credit
waits, a taken one's credit goes back, 2 μs before it moves to the escape channel and 100 μs there before it is dropped; a key or a manager lets it in.
Where the spec leaves it open it rests on the model's choices of log 42, log 83, log 94. -/
def Obligations.PortsAndRouting : Prop :=
  (∀ s : State, let p := s.arg.port
    let x := portOf s p
    let stops (st : PortSt) (lost : Bool) (en : Bool) : State :=
      holds (setPort s p { x with
        st := st, replay := [], retries := 0, credits := [], nacks := [], ackDue := false, owed := [], asked := none, lost := lost, en := en }) (candOf s p)
    (p < 96 → x.en = false → exec .portEnable s = .next (setPort s p { x with en := true, st := .training, trainAt := s.now })) ∧
    (x.en = true → x.st = .training ∨ x.st = .down → exec .portDisable s = .next (setPort s p { x with en := false, st := .down })) ∧
    (x.en = true → x.st = .failed → exec .portDisable s = .next (setPort s p { x with en := false })) ∧
    (x.en = true → x.st = .up → quietPort s p → exec .portDisable s = .next (stops .down x.lost false)) ∧
    (x.st = .training → p < 96 → s.now < x.trainAt + 7000000 → quietPort s p →
      let n := s.arg.index
      exec .trainingComplete s = .next (holds (setPort s p { x with
        st := .up, peer := s.arg.partner.getD 0, peerv := s.arg.partner.isSome, lost := false, credits := [(0, n), (1, n), (2, n), (3, n)]
        replay := [], retries := 0, txSeq := 0, rxSeq := 0 }) (candOf s p))) ∧
    (x.st = .training → x.trainAt + 7000000 ≤ s.now → quietPort s p → exec .trainingTimeout s = .next (stops .failed true x.en)) ∧
    (upPort s p = true → quietPort s p → exec .portFailure s = .next (stops .failed true x.en)) ∧
    (∀ fl, s.arg.flit = some fl → upPort s p = true →
      (fl.good = false → exec .flitReceive s = .next (setPort s p (tells { x with nacks := x.rxSeq :: x.nacks }))) ∧
      (fl.good = true → fl.seq ≠ x.rxSeq → exec .flitReceive s = .next s) ∧
      (fl.good = true → fl.seq = x.rxSeq → quietPort s p →
        let left := match fl.ack with | some a => x.replay.filter (fun y => a < y.seq) | none => x.replay
        let u := setPort s p (tells { x with
          ackDue := x.ackDue || fl.part || fl.packet.isSome
          owed := if fl.part then x.owed.set (chan fl.vc) (x.owed.get (chan fl.vc) 0 + 1) else x.owed
          rxSeq := x.rxSeq + 1, credits := x.credits.set (chan fl.vc) (x.credits.get (chan fl.vc) 0 + fl.credit), replay := left
          retries := if left.length = x.replay.length then x.retries else 0, asked := if fl.nack = none then x.asked else fl.nack })
        exec .flitReceive s = .next (match fl.packet with
          | some k => withFabric u (fun f => { f with arrivals := f.arrivals.set f.nextT (p, k), nextT := f.nextT + 1 })
          | none => u))) ∧
    (∀ n, x.asked = some n → upPort s p = true →
      (x.retries < 8 → exec .flitReplay s = .next (withFabric (setPort s p { x with
          asked := none, retries := x.retries + 1, replays := satInc x.replays 1 }) (fun f => { f with
        sent := ((x.replay.filter (fun y => n ≤ y.seq)).filterMap (fun y => y.packet.map (fun k => (p, k)))).reverse ++ f.sent }))) ∧
      (8 ≤ x.retries → quietPort s p → exec .flitReplay s = .next (stops .failed true x.en)))) ∧
  ((∀ (s : State) k src, let e := s.fabric.routes.get k.dst {}
    let live := upCands s e
    (k.dst = s.fabric.devid.toNat → s.fabric.assigned = true ∨ isMgmt k = true → s.transmit k src = delivered s src k) ∧
    (s.fabric.assigned = false → isMgmt k = false → s.transmit k src = s) ∧
    (k.dst ≠ s.fabric.devid.toNat → s.fabric.assigned = true ∨ isMgmt k = true →
      (e.v = false → let p := src.getD e.esc.toNat
        s.transmit k src = setPort s p { portOf s p with dropr := satInc (portOf s p).dropr 1 }) ∧
      (e.v = true → k.vc = .escape ∨ live = [] →
        s.transmit k src = if upPort s e.esc.toNat then s.queueAt e.esc.toNat k true src else s) ∧
      (e.v = true → k.vc ≠ .escape → live ≠ [] → ∃ p ∈ live, s.transmit k src = s.queueAt p k false src ∧
        (k.vc ≠ .classU → live[Config.flowHash k.src k.dst % live.length]? = some p)))) ∧
  (∀ (s : State) p k esc came, let k' : Packet := if esc then { k with vc := .escape } else k
    let x := portOf s p
    let free := upPort s p = true ∧ ∀ e ∈ s.fabric.transit, e.2.port = p → e.2.packet.vc ≠ k'.vc
    let u (n : Nat) : State := if n = 0 then s else setPort s p (sends x k' n)
    ∀ n, (free → n = min (flitCount k') (min (x.credits.get (chan k'.vc) 0) (256 - x.replay.length))) → (¬ free → n = 0) →
      (n = flitCount k' → s.queueAt p k esc came = withFabric (u n) (fun f => { f with sent := (p, k') :: f.sent })) ∧
      (n ≠ flitCount k' → s.queueAt p k esc came = withFabric (u n) (fun f => { f with
        transit := f.transit.set f.nextT { packet := k', port := p, since := s.now, escape := esc, came := came, gone := n }
        nextT := f.nextT + 1 }))) ∧
  (∀ (s : State) p k, s.fabric.arrivals.find s.arg.id = some (p, k) →
    (k.classO = true → ∀ e ∈ s.fabric.arrivals, e.1 < s.arg.id → e.2.2.classO = true → e.2.2.src = k.src → e.2.2.dst ≠ k.dst) →
    let v := withFabric s (fun f => { f with arrivals := f.arrivals.erase s.arg.id })
    let u := told (setPort v p { portOf s p with owed := (portOf s p).owed.set (chan k.vc) ((portOf s p).owed.get (chan k.vc) 0 + 1) }) p
    let accepted := if isMgmt k then k.key = 0xFFFF ∧ (k.dst ≠ s.fabric.devid.toNat ∨ ∃ e ∈ s.fabric.mgrs, e.2.2 = true ∧ e.2.1.toNat = k.src)
      else ∃ e ∈ (portOf s p).keys, e.2 ≠ 0 ∧ e.2.toNat % 2 ^ 15 = k.key.toNat % 2 ^ 15 ∧ (2 ^ 15 ≤ e.2.toNat ∨ 2 ^ 15 ≤ k.key.toNat)
    (accepted → exec .packetArrival s = .next (u.transmit k (some p))) ∧
    (¬ accepted → exec .packetArrival s = .next (setPort u p { portOf u p with dropk := satInc (portOf u p).dropk 1 }))) ∧
  (∀ (s : State) t, s.fabric.transit.find s.arg.id = some t →
    let u := withFabric s (fun f => { f with transit := f.transit.erase s.arg.id })
    let e := s.fabric.routes.get t.packet.dst {}
    (t.escape = false → t.gone = 0 → t.since + 1400 ≤ s.now → e.v = true → upPort s e.esc.toNat = true → exec .escapeMove s =
      .next ((if t.packet.src = s.fabric.devid.toNat then holds u (fun d => d = t.packet.dst) else u).queueAt e.esc.toNat t.packet true t.came)) ∧
    (t.escape = true → t.since + 70000 ≤ s.now → exec .escapeDrop s =
      .next (withFabric (setPort s t.port { portOf s t.port with drope := satInc (portOf s t.port).drope 1 })
        (fun f => { f with transit := f.transit.erase s.arg.id })))))

/-- Requests of this module and of its peers (R448, R451, R452, R455 to R457, R459 to R462).
Requests of this module (R451, R452, R459 to R462): each takes the next sequence number and is sent, unless its pair is held; after
200 μs it is sent again, five times, and then fails; a reply ends it: a notice's answer reaches qd, the lanes of PATOM take
their old values or zero, and the data of PCPY are laid over its destination, or its counter takes CODE 7 or 8.
Accesses of peers and of the fabric manager (R448, R452, R455 to R457, R460): an admitted read returns the home's data, a write is a
HomeWrite stamped FT, a notice is a send at FT, and each reply is kept; a refused one performs nothing; a request already
performed is answered from its record; a management packet reads or writes one register whole.
Where the spec leaves it open it rests on the model's choices of log 41, log 42, log 83, log 94. -/
def Obligations.FabricTraffic : Prop :=
  ((∀ (s : State) core kind vi tag dst vc body,
    let k : Packet := { src := s.fabric.devid.toNat, dst := dst, unassigned := false, vi := vi, key := (s.vi vi).fpkey, vc := vc
                        classO := vc == .classO, engine := core, seq := s.fabric.seq, body := body }
    isAsk k = true → (∀ e ∈ s.fabric.reqs, e.2.packet.engine = core → e.2.packet.seq = s.fabric.seq → e.2.packet.dst ≠ dst) →
    let back := (vc = .classO ∧ ∃ e ∈ s.fabric.reqs, e.1 ≠ s.fabric.nextReq ∧ e.2.old = true ∧ e.2.packet.dst = dst) ∨
      (∃ r p pend to' n w, kind = .pnotify r p pend ∧ body = .notice to' n w ∧ ∃ e ∈ s.fabric.reqs, e.1 < s.fabric.nextReq ∧
        e.2.packet.dst = dst ∧ (∃ p' pend', e.2.kind = .pnotify r p' pend') ∧ ∃ n' w', e.2.packet.body = .notice to' n' w')
    let q : FabReq := { packet := k, kind := kind, vi := vi, tag := tag, sends := 0 }
    let u (q : FabReq) (l : List Packet) : State := withFabric s (fun f => { f with
      reqs := f.reqs.set f.nextReq q, nextReq := f.nextReq + 1, seq := f.seq + 1, heldBack := f.heldBack ++ l })
    (back → s.fabSend core kind vi tag dst vc body = u q [k]) ∧
    (¬ back → s.fabSend core kind vi tag dst vc body = (u { q with sends := 1, sentAt := s.now } []).transmit k none)) ∧
  (∀ (s : State) q, s.fabric.reqs.find s.arg.id = some q → q.sends ≠ 0 → q.sentAt + 140000 ≤ s.now → s.fabric.heldBack = [] →
    (q.sends ≤ 5 → exec .fabricRequestTimer s = .next ((withFabric s (fun f => { f with
      reqs := f.reqs.set s.arg.id { q with sends := q.sends + 1, sentAt := s.now, old := false } })).transmit q.packet none)) ∧
    (6 ≤ q.sends → ∀ r p pend, q.kind = .pnotify r p pend → exec .fabricRequestTimer s =
      .next ((unpend (reqGone s s.arg.id) r pend).landEff r (.upred p false))) ∧
    (6 ≤ q.sends → ∀ core cmd m, q.kind = .pcpy core cmd → (s.core core).cmds.find cmd = some m → exec .fabricRequestTimer s =
      .next ((reqGone s s.arg.id).setCmd core cmd { m with reqs := m.reqs.filter (· ≠ s.arg.id), err := ecRecord 0 8 m.a.toNat })) ∧
    (6 ≤ q.sends → ∀ r pend lanes off ptr aop ty vals p d rest, q.kind = .patom r pend lanes off false → q.packet.body = .atom ptr aop ty vals →
      (s.warp r.blk r.warp).pend.find pend = some p → p.dv = d :: rest →
      (∀ e ∈ s.fabric.reqs, e.1 ≠ s.arg.id → ∀ l o x, e.2.kind ≠ .patom r pend l o x) →
      exec .fabricRequestTimer s = .next (unpend (peerLost (reqGone s s.arg.id) r ptr lanes d.1 ty.words) r pend))) ∧
  (∀ (s : State) port k id q, (∃ b, s.fabric.inbox.find s.arg.id = some { port := port, packet := k, sent := b }) → InTurn s s.arg.id k → isAsk k = false → isMgmt k = false →
    (id, q) ∈ s.fabric.reqs → s.fabric.reqs.find id = some q → q.packet.engine = k.engine → q.packet.seq = k.seq → q.packet.dst = k.src → 0 < q.sends →
    (∀ e ∈ s.fabric.reqs, e.2.packet.engine = k.engine → e.2.packet.seq = k.seq → e.2.packet.dst = k.src → e = (id, q)) →
    s.fabric.heldBack = [] →
    let u := reqGone (taken s s.arg.id) id
    (∀ r p pend ok, q.kind = .pnotify r p pend → k.body = .answer ok →
      exec .fabricReply s = .next ((unpend u r pend).landEff r (.upred p ok))) ∧
    (∀ r pend lanes off ptr aop ty vals p d rest, q.kind = .patom r pend lanes off false → q.packet.body = .atom ptr aop ty vals →
      (s.warp r.blk r.warp).pend.find pend = some p → p.dv = d :: rest →
      (∀ e ∈ s.fabric.reqs, e.1 ≠ id → ∀ l o x, e.2.kind ≠ .patom r pend l o x) →
      (∀ vs, k.body = .olds vs false →
        exec .fabricReply s = .next (unpend (u.landEffs r (lanes.zipIdx.flatMap (fun e => vregEffs d.1 ty.words e.1 (vs.getD e.2 0).toNat))) r pend)) ∧
      (∀ vs, k.body = .olds vs true →
        let effs : List Eff := p.dv.flatMap (fun e => (lanesOf e.2).map (fun l => .vreg e.1 l 0))
        exec .fabricReply s = .next ((unpend (({ u with free := u.free + effs.length } : State).landEffs r (garble u.free effs)) r pend).consumePoison r 0)) ∧
      (k.body = .refusal → exec .fabricReply s = .next (unpend (peerLost u r ptr lanes d.1 ty.words) r pend))) ∧
    (∀ core cmd m, q.kind = .pcpy core cmd → (s.core core).cmds.find cmd = some m →
      let m' := { m with reqs := m.reqs.filter (· ≠ id) }
      (k.body = .refusal → exec .fabricReply s = .next (u.setCmd core cmd { m' with err := ecRecord 0 7 m.a.toNat })) ∧
      (∀ bytes bad ps, k.body = .data bytes bad →
        u.enginePieces (s.block m.ref.blk) (dfld m.desc 20 1) (dfld m.desc 8 8) bytes.length Range.w = .ok ps →
        exec .fabricReply s = .next (u.setCmd core cmd { m' with runs := layRuns ps (bytes.zipIdx.map (fun e => (e.1, bad.getD e.2 false))) }))))) ∧
  ((∀ (s : State) port k b, s.fabric.inbox.find s.arg.id = some { port := port, packet := k, sent := b } → InTurn s s.arg.id k →
    let u := taken s s.arg.id
    (∀ vi b, isAsk k = true → s.fabric.doneRecs.find? (fun e => e.1 = k.src && e.2.1 = k.engine && e.2.2.1 = k.seq) =
        some (k.src, k.engine, k.seq, vi, b) →
      exec .inboundPeerAccess s = .next (u.answer port k vi b)) ∧
    (b = true ∨ s.inPermit port (s.inLines k).1 = true → (∀ e ∈ s.fabric.doneRecs, e.1 ≠ k.src ∨ e.2.1 ≠ k.engine ∨ e.2.2.1 ≠ k.seq) →
      (∀ ptr n, k.body = .read ptr n →
        (∀ ia, Admitted s k ptr n PeerWin.r ia → (∀ a, ia ≤ a → a < ia + n → s.homeReady (a / 128) false = true) →
          let b := PktBody.data (s.iaBytes ia n) ((List.range n).map (fun i => s.iaPoison (ia + i)))
          exec .inboundPeerAccess s = .next ((kept u k (ptr.toNat / 2 ^ 45 % 64) b).answer port k (ptr.toNat / 2 ^ 45 % 64) b)) ∧
        (0 < n → (∀ ia, ¬ Admitted s k ptr n PeerWin.r ia) →
          exec .inboundPeerAccess s = .next ((kept u k (ptr.toNat / 2 ^ 45 % 64) .refusal).answer port k (ptr.toNat / 2 ^ 45 % 64) .refusal))) ∧
      (∀ ptr data bad ia h, k.body = .write ptr data bad → Admitted s k ptr data.length PeerWin.w ia → ia % 128 + data.length ≤ 128 →
        (∀ b ∈ bad, b = false) → (∃ x, s.homes.find (ia / 128) = some x ∧ h = s.whole x) →
        isIdentity (ia / 128 * 128) = false → s.flipping (ia / 128 * 128) = false →
        s.bridge.filter.contains (ia / 128) = false → s.brokenPage (ia / 128 * 128) = false → roomFor s (tmax s.fabric.ft (h.rt + 1)) →
        let bytes := data.zipIdx.map (fun e => (ia % 128 + e.2, e.1))
        let w := tmax s.fabric.ft (h.rt + 1)
        let v := (withHome (noted s w) (ia / 128) { h with
          data := lineMerge h.data bytes, poison := poisonRule h.poison bytes false, wt := w, rt := w, c := 0, used := s.now
          dirty := h.dirty ||| sectorsOf bytes }).wakeLine (ia / 128) .write
        exec .inboundPeerAccess s = .next ((kept (taken (withFabric v (fun f => { f with ft := tmax f.ft w })) s.arg.id) k (ptr.toNat / 2 ^ 45 % 64) .ack).answer
          port k (ptr.toNat / 2 ^ 45 % 64) .ack)) ∧
      (∀ vi vector payload, k.body = .notice vi vector payload → s.sendReady vi vector (.peer k.src k.vi) = true →
        let a := s.acceptSend vi vector payload s.fabric.ft (.peer k.src k.vi)
        exec .inboundPeerAccess s = .next ((kept (taken a.1 s.arg.id) k vi (.answer a.2)).answer port k vi (.answer a.2)))) ∧
    (∀ off, k.body = .mgmtRead off → exec .managementPacket s = .next (u.answer port k 0 (.mgmtValue (s.fabReg off).2.2))) ∧
    (∀ off v, k.body = .mgmtWrite off v → let z := u.fabPut (s.fabReg off).1 v
      exec .managementPacket s = .next (z.answer port k 0 (.mgmtValue (z.fabReg off).2.2)))) ∧
  (∀ (s : State) v, let u (g : Fabric → Fabric) := withFabric s g
    s.fabReg 0 = (0, 8, s.fabric.devid.toNat + (if s.fabric.assigned then 2 ^ 15 else 0)) ∧
    s.fabPut 0 v = u (fun f => { f with devid := BitVec.ofNat 13 v, assigned := v.testBit 15 }) ∧
    (∀ n < 8, s.fabPut (0x10 + 8 * n) v = u (fun f => { f with mgrs := f.mgrs.set n (BitVec.ofNat 13 v, v.testBit 15) })) ∧
    (∀ p < 96, ∀ i < 64, s.fabPut (0x1000 + 128 * p + 2 * i) v =
      setPort s p { portOf s p with keys := (portOf s p).keys.set i (BitVec.ofNat 16 v) }) ∧
    (∀ p < 96, s.fabReg (0x100 + 8 * p) = (0x100 + 8 * p, 8, (if (portOf s p).en then 1 else 0) +
      2 * (match (portOf s p).st with | .down => 0 | .training => 1 | .up => 2 | .failed => 3) + 8 * (portOf s p).peer.toNat +
      (if (portOf s p).peerv then 2 ^ 16 else 0))) ∧
    (∀ d < 8192, v / 2 ^ 96 % 128 ≤ 95 → s.fabPut (0x10000 + 16 * d) v =
      holds (u (fun f => { f with routes := f.routes.set d { cand := BitVec.ofNat 96 v, esc := BitVec.ofNat 7 (v / 2 ^ 96), v := v.testBit 104 } }))
        (fun x => x = d)) ∧
    (∀ d < 8192, 95 < v / 2 ^ 96 % 128 → s.fabPut (0x10000 + 16 * d) v = s)))

/-- The state after reset: what R383 says of its times and caches, and that it is safe in the sense of `State.safe`.
Reset (R383).
The state after reset is elected and its memory is in canonical form.
Where the spec leaves it open it rests on the model's choices of log 4, log 5. -/
def Obligations.AfterReset : Prop :=
  (State.reset.h = 0x80000000 ∧ State.reset.epoch = 0 ∧ State.reset.bmax = State.reset.h ∧ State.reset.bridge.bt = State.reset.h ∧
  State.reset.fabric.ft = State.reset.h ∧ (∀ c, 6 ≤ c → c < 14 → (State.reset.chiplet c).mtime = State.reset.h) ∧
  State.reset.homes = [] ∧ (∀ d, (State.reset.die d).copies = []) ∧ (∀ c, (State.reset.core c).l1 = []) ∧ State.reset.bridge.lines = [] ∧
  (∀ c, (State.reset.chiplet c).tlb = [])) ∧
  (State.reset.elected = true ∧ State.reset.memWf = true ∧ State.reset.mem.wf = true)
end

