-- ==== Sys2Proof/Laws/Store.lean ====
section
/-!
SUPPORT. Laws of the sparse tables, of memory in its canonical form, and of sets of lanes.
-/

namespace Sys2Proof

variable {α : Type}

@[simp] theorem Map.get_set_self (m : Map α) (k : Nat) (v d : α) : (Map.set m k v).get k d = v := by
  induction m with
  | nil => simp [Map.set, Map.get]
  | cons e m ih => simp only [Map.set]; split <;> simp_all [Map.get]

theorem Map.get_set_ne (m : Map α) {k j : Nat} (h : j ≠ k) (v d : α) : (Map.set m k v).get j d = m.get j d := by
  induction m with
  | nil => simp [Map.set, Map.get, Ne.symm h]
  | cons e m ih => simp only [Map.set]; split <;> simp_all [Map.get, Ne.symm h]

theorem Map.get_set (m : Map α) (k j : Nat) (v d : α) : (Map.set m k v).get j d = if j = k then v else m.get j d := by
  by_cases h : j = k
  · simp [h]
  · simp [h, Map.get_set_ne m h]

@[simp] theorem Map.find_set_self (m : Map α) (k : Nat) (v : α) : (Map.set m k v).find k = some v := by
  induction m with
  | nil => simp [Map.set, Map.find]
  | cons e m ih => simp only [Map.set]; split <;> simp_all [Map.find]

theorem Map.find_set_ne (m : Map α) {k j : Nat} (h : j ≠ k) (v : α) : (Map.set m k v).find j = m.find j := by
  induction m with
  | nil => simp [Map.set, Map.find, Ne.symm h]
  | cons e m ih => simp only [Map.set]; split <;> simp_all [Map.find, Ne.symm h]

/-- A reading with a default is the listed entry, or the default. -/
theorem Map.get_eq_find (m : Map α) (k : Nat) (d : α) : m.get k d = (m.find k).getD d := by
  induction m with
  | nil => rfl
  | cons e m ih => simp only [Map.get, Map.find]; split <;> simp_all

@[simp] theorem Map.set_set (m : Map α) (k : Nat) (v w : α) : Map.set (Map.set m k v) k w = Map.set m k w := by
  induction m with
  | nil => simp [Map.set]
  | cons e m ih => simp only [Map.set]; split <;> simp_all [Map.set]

/-- Setting an entry to the value it holds changes nothing. -/
theorem Map.set_find (m : Map α) (k : Nat) (v : α) (h : m.find k = some v) : Map.set m k v = m := by
  induction m with
  | nil => simp [Map.find] at h
  | cons e m ih =>
    obtain ⟨i, w⟩ := e
    simp only [Map.set, Map.find] at *
    by_cases hi : i = k
    · simp_all
    · simp only [hi, if_false] at h ⊢; rw [ih h]

theorem Map.find_erase_self (m : Map α) (k : Nat) : (Map.erase m k).find k = none := by
  induction m with
  | nil => rfl
  | cons e m ih =>
    simp only [Map.erase, List.filter_cons]
    split <;> simp_all [Map.find, Map.erase]

theorem Map.find_erase_ne (m : Map α) {k j : Nat} (h : j ≠ k) : (Map.erase m k).find j = m.find j := by
  induction m with
  | nil => rfl
  | cons e m ih =>
    simp only [Map.erase, List.filter_cons] at *
    split
    · simp only [Map.find]; split <;> simp_all
    · next h' => have : e.1 = k := by simpa using h'
                 simp only [Map.find]; split <;> simp_all

end Sys2Proof

namespace Sys2Proof.Machine

/-! Memory -/

@[simp] theorem Memory.read_nil (a : Nat) : Memory.read [] a = 0 := rfl

theorem Memory.wfFrom_mono {lo lo' : Nat} (h : lo ≤ lo') {m : Memory} (w : m.wfFrom lo' = true) : m.wfFrom lo = true := by
  cases m with
  | nil => rfl
  | cons e m =>
    simp only [Memory.wfFrom, Bool.and_eq_true, decide_eq_true_eq] at *
    exact ⟨⟨by omega, w.1.2⟩, w.2⟩

theorem Memory.wfFrom_filter {m : Memory} {lo : Nat} (p : Host.Cell → Bool) (w : m.wfFrom lo = true) :
    Memory.wfFrom lo (m.filter p) = true := by
  induction m generalizing lo with
  | nil => rfl
  | cons e m ih =>
    simp only [Memory.wfFrom, Bool.and_eq_true, decide_eq_true_eq] at w
    rw [List.filter_cons]
    split
    · simp only [Memory.wfFrom, Bool.and_eq_true, decide_eq_true_eq]; exact ⟨w.1, ih w.2⟩
    · exact Memory.wfFrom_mono (by omega) (ih w.2)

theorem Memory.wfFrom_insert {m : Memory} {lo a : Nat} {b : Byte} (hb : b ≠ 0) (w : m.wfFrom lo = true) (h : lo ≤ a) :
    (m.insert a b).wfFrom lo = true := by
  induction m generalizing lo with
  | nil => simpa [Memory.insert, Memory.wfFrom, h] using hb
  | cons e m ih =>
    simp only [Memory.wfFrom, Bool.and_eq_true, decide_eq_true_eq] at w
    simp only [Memory.insert]
    split
    · simp only [Memory.wfFrom, Bool.and_eq_true, decide_eq_true_eq]
      exact ⟨⟨h, by simpa using hb⟩, ⟨by omega, w.1.2⟩, w.2⟩
    · split
      · next h2 =>
        simp only [Memory.wfFrom, Bool.and_eq_true, decide_eq_true_eq]
        exact ⟨⟨h, by simpa using hb⟩, by rw [h2]; exact w.2⟩
      · simp only [Memory.wfFrom, Bool.and_eq_true, decide_eq_true_eq]
        exact ⟨w.1, ih w.2 (by omega)⟩

/-- A write keeps the canonical form. -/
theorem Memory.wf_write {m : Memory} (w : m.wf = true) (a : Nat) (b : Byte) : (m.write a b).wf = true := by
  simp only [Memory.write]
  split
  · exact Memory.wfFrom_filter _ w
  · next hb => exact Memory.wfFrom_insert hb w (Nat.zero_le a)

theorem Memory.wf_writes {m : Memory} (w : m.wf = true) (a : Nat) (bs : List Byte) : (m.writes a bs).wf = true := by
  induction bs generalizing m a with
  | nil => exact w
  | cons b bs ih => exact ih (Memory.wf_write w a b) (a + 1)

theorem Memory.wf_writeWord {m : Memory} (w : m.wf = true) (a : Nat) (v : Word) : (m.writeWord a v).wf = true :=
  Memory.wf_writes w a _

/-- Clearing a range keeps the canonical form. -/
theorem Memory.wf_clear {m : Memory} (w : m.wf = true) (a n : Nat) : (m.clear a n).wf = true :=
  Memory.wfFrom_filter _ w

theorem Memory.read_filter (m : Memory) (a x : Nat) :
    Memory.read (m.filter (fun c => c.1 ≠ a)) x = if x = a then 0 else m.read x := by
  induction m with
  | nil => simp
  | cons e m ih =>
    obtain ⟨i, c⟩ := e
    by_cases h : i = a
    · subst h
      simp only [ne_eq, List.filter_cons, not_true_eq_false, decide_false, Bool.false_eq_true, if_false] at ih ⊢
      rw [ih]
      by_cases hx : x = i
      · simp [hx]
      · simp [hx, Memory.read, Ne.symm hx]
    · simp only [ne_eq, List.filter_cons, h, not_false_eq_true, decide_true, if_true, Memory.read] at ih ⊢
      by_cases hx : i = x
      · subst hx; simp [h]
      · simp only [hx, if_false]; exact ih

theorem Memory.read_insert (m : Memory) (a x : Nat) (b : Byte) :
    (m.insert a b).read x = if x = a then b else m.read x := by
  induction m with
  | nil =>
    by_cases h : x = a
    · simp [h, Memory.insert, Memory.read]
    · simp [h, Memory.insert, Memory.read, Ne.symm h]
  | cons e m ih =>
    obtain ⟨i, c⟩ := e
    simp only [Memory.insert]
    by_cases h1 : a < i
    · by_cases h : x = a
      · simp [h1, h, Memory.read]
      · simp [h1, h, Memory.read, Ne.symm h]
    · by_cases h2 : a = i
      · subst h2
        by_cases h : x = a
        · simp [h, Memory.read]
        · simp [h, Memory.read, Ne.symm h]
      · simp only [h1, h2, if_false, Memory.read]
        by_cases h3 : i = x
        · subst h3; simp [Ne.symm h2]
        · simp only [h3, if_false]; exact ih

/-- The byte written is read back, and every other byte stays. -/
theorem Memory.read_write (m : Memory) (a x : Nat) (b : Byte) :
    (m.write a b).read x = if x = a then b else m.read x := by
  simp only [Memory.write]
  by_cases h : b = 0
  · rw [if_pos h, h]; exact Memory.read_filter m a x
  · rw [if_neg h]; exact Memory.read_insert m a x b

/-- Bytes outside the range written stay. -/
theorem Memory.read_writes_out (m : Memory) (a : Nat) (bs : List Byte) {x : Nat}
    (h : x < a ∨ a + bs.length ≤ x) : (m.writes a bs).read x = m.read x := by
  induction bs generalizing m a with
  | nil => rfl
  | cons b bs ih =>
    simp only [List.length_cons] at h
    rw [Memory.writes, ih (m.write a b) (a + 1) (by omega), Memory.read_write]
    simp [show x ≠ a by omega]

/-- Bytes of the range written are the bytes given. -/
theorem Memory.read_writes_in (m : Memory) (a : Nat) (bs : List Byte) {i : Nat} (h : i < bs.length) :
    (m.writes a bs).read (a + i) = bs[i] := by
  induction bs generalizing m a i with
  | nil => simp at h
  | cons b bs ih =>
    cases i with
    | zero =>
      rw [Memory.writes, Memory.read_writes_out (m.write a b) (a + 1) bs (by omega), Nat.add_zero,
        Memory.read_write]
      simp
    | succ i =>
      rw [Memory.writes, show a + (i + 1) = a + 1 + i by omega]
      simpa using ih (m.write a b) (a + 1) (by simpa using h)

/-- A word written is read back. -/
@[simp] theorem Memory.word_writeWord (m : Memory) (a : Nat) (v : Word) : (m.writeWord a v).word a = v := by
  have h (i : Nat) (hi : i < 4) := Memory.read_writes_in m a (wordBytes v) (i := i) (by simpa [wordBytes] using hi)
  have h0 := h 0 (by decide)
  have h1 := h 1 (by decide)
  have h2 := h 2 (by decide)
  have h3 := h 3 (by decide)
  simp only [Nat.add_zero] at h0
  simp only [Memory.word, Memory.writeWord, h0, h1, h2, h3]
  simp only [wordBytes, List.getElem_cons_zero, List.getElem_cons_succ]
  ext i hi
  simp only [BitVec.getElem_append, BitVec.getElem_extractLsb']
  by_cases a1 : i < 8
  · simp [a1, BitVec.getLsbD_eq_getElem hi]
  · by_cases a2 : i - 8 < 8
    · simp [a1, a2, show 8 + (i - 8) = i by omega, BitVec.getLsbD_eq_getElem hi]
    · by_cases a3 : i - 8 - 8 < 8
      · simp [a1, a2, a3, show 16 + (i - 8 - 8) = i by omega, BitVec.getLsbD_eq_getElem hi]
      · simp [a1, a2, a3, show 24 + (i - 8 - 8 - 8) = i by omega, BitVec.getLsbD_eq_getElem hi]

/-- A word apart from the one written stays. -/
theorem Memory.word_writeWord_ne (m : Memory) {a b : Nat} (v : Word) (h : b + 4 ≤ a ∨ a + 4 ≤ b) :
    (m.writeWord a v).word b = m.word b := by
  have hl : (wordBytes v).length = 4 := rfl
  simp only [Memory.word, Memory.writeWord]
  rw [Memory.read_writes_out m a _ (by omega), Memory.read_writes_out m a _ (by omega),
    Memory.read_writes_out m a _ (by omega), Memory.read_writes_out m a _ (by omega)]

/-- Bytes outside a word written stay. -/
theorem Memory.read_writeWord_ne (m : Memory) {a x : Nat} (v : Word) (h : x < a ∨ a + 4 ≤ x) :
    (m.writeWord a v).read x = m.read x :=
  Memory.read_writes_out m a _ (by simpa [wordBytes] using h)

/-- A cleared byte reads zero; the others stay. -/
theorem Memory.read_clear (m : Memory) (a n x : Nat) :
    (m.clear a n).read x = if a ≤ x ∧ x < a + n then 0 else m.read x := by
  induction m with
  | nil => simp [Memory.clear, Memory.read]
  | cons e m ih =>
    obtain ⟨i, c⟩ := e
    simp only [Memory.clear, List.filter_cons] at *
    split
    · next h =>
      simp only [Memory.read]
      by_cases hx : i = x
      · subst hx
        simp at h
        simp only [if_true]
        rw [if_neg (by omega)]
      · simp only [hx, if_false]; exact ih
    · next h =>
      rw [ih]
      simp at h
      simp only [Memory.read]
      by_cases hx : i = x
      · subst hx; simp [h]
      · simp [hx]

/-! Sets of lanes -/

theorem getLsbD_oneLane (i j : Nat) : (oneLane i).getLsbD j = (decide (j = i) && decide (j < 64)) := by
  simp only [oneLane, BitVec.getLsbD_shiftLeft, BitVec.getLsbD_one]
  by_cases h : j < 64 <;> by_cases h2 : j = i <;> simp [h, h2] <;> omega

theorem getLsbD_laneSet_aux (l : List Nat) (s : LaneSet) (j : Nat) :
    (l.foldl (fun s i => s ||| (1#64 <<< i)) s).getLsbD j = (s.getLsbD j || (decide (j ∈ l) && decide (j < 64))) := by
  induction l generalizing s with
  | nil => simp
  | cons i l ih =>
    simp only [List.foldl_cons, ih, BitVec.getLsbD_or]
    have := getLsbD_oneLane i j
    rw [oneLane] at this
    rw [this]
    by_cases h : j < 64 <;> by_cases h2 : j = i
    · subst h2; simp [h]
    · simp [h, h2]
    · subst h2; simp [h]
    · simp [h, h2]

@[simp] theorem getLsbD_laneSet (l : List Nat) (j : Nat) :
    (laneSet l).getLsbD j = (decide (j ∈ l) && decide (j < 64)) := by
  simp [laneSet, getLsbD_laneSet_aux]

@[simp] theorem mem_lanesOf (s : LaneSet) (j : Nat) : j ∈ lanesOf s ↔ s.getLsbD j = true := by
  simp only [lanesOf, List.mem_filter, List.mem_range]
  constructor
  · exact fun h => h.2
  · intro h
    refine ⟨?_, h⟩
    rcases Nat.lt_or_ge j 64 with hj | hj
    · exact hj
    · rw [BitVec.getLsbD_of_ge s j hj] at h; exact absurd h (by decide)

theorem lanesOf_nodup (s : LaneSet) : (lanesOf s).Nodup := (List.nodup_range).filter _

end Sys2Proof.Machine
end

