-- ==== Sys2Proof/Laws/State.lean ====
section
/-!
SUPPORT. What an update of the state leaves as it is, field by field, and what reading gives after an update.
-/

namespace Sys2Proof.Machine

/-! setCore -/

@[simp] theorem State.setCore_blocks (s : State) (c : Nat) (x : Core) : (s.setCore c x).blocks = s.blocks := rfl
@[simp] theorem State.setCore_nextBlk (s : State) (c : Nat) (x : Core) : (s.setCore c x).nextBlk = s.nextBlk := rfl
@[simp] theorem State.setCore_dies (s : State) (c : Nat) (x : Core) : (s.setCore c x).dies = s.dies := rfl
@[simp] theorem State.setCore_chiplets (s : State) (c : Nat) (x : Core) : (s.setCore c x).chiplets = s.chiplets := rfl
@[simp] theorem State.setCore_mem (s : State) (c : Nat) (x : Core) : (s.setCore c x).mem = s.mem := rfl
@[simp] theorem State.setCore_memPoison (s : State) (c : Nat) (x : Core) : (s.setCore c x).memPoison = s.memPoison := rfl
@[simp] theorem State.setCore_homes (s : State) (c : Nat) (x : Core) : (s.setCore c x).homes = s.homes := rfl
@[simp] theorem State.setCore_owners (s : State) (c : Nat) (x : Core) : (s.setCore c x).owners = s.owners := rfl
@[simp] theorem State.setCore_evicts (s : State) (c : Nat) (x : Core) : (s.setCore c x).evicts = s.evicts := rfl
@[simp] theorem State.setCore_nextEv (s : State) (c : Nat) (x : Core) : (s.setCore c x).nextEv = s.nextEv := rfl
@[simp] theorem State.setCore_reqs (s : State) (c : Nat) (x : Core) : (s.setCore c x).reqs = s.reqs := rfl
@[simp] theorem State.setCore_nextReq (s : State) (c : Nat) (x : Core) : (s.setCore c x).nextReq = s.nextReq := rfl
@[simp] theorem State.setCore_nextReply (s : State) (c : Nat) (x : Core) : (s.setCore c x).nextReply = s.nextReply := rfl
@[simp] theorem State.setCore_seqs (s : State) (c : Nat) (x : Core) : (s.setCore c x).seqs = s.seqs := rfl
@[simp] theorem State.setCore_devq (s : State) (c : Nat) (x : Core) : (s.setCore c x).devq = s.devq := rfl
@[simp] theorem State.setCore_h (s : State) (c : Nat) (x : Core) : (s.setCore c x).h = s.h := rfl
@[simp] theorem State.setCore_epoch (s : State) (c : Nat) (x : Core) : (s.setCore c x).epoch = s.epoch := rfl
@[simp] theorem State.setCore_bmax (s : State) (c : Nat) (x : Core) : (s.setCore c x).bmax = s.bmax := rfl
@[simp] theorem State.setCore_stepReq (s : State) (c : Nat) (x : Core) : (s.setCore c x).stepReq = s.stepReq := rfl
@[simp] theorem State.setCore_swept (s : State) (c : Nat) (x : Core) : (s.setCore c x).swept = s.swept := rfl
@[simp] theorem State.setCore_recalls (s : State) (c : Nat) (x : Core) : (s.setCore c x).recalls = s.recalls := rfl
@[simp] theorem State.setCore_cbars (s : State) (c : Nat) (x : Core) : (s.setCore c x).cbars = s.cbars := rfl
@[simp] theorem State.setCore_dbars (s : State) (c : Nat) (x : Core) : (s.setCore c x).dbars = s.dbars := rfl
@[simp] theorem State.setCore_remreds (s : State) (c : Nat) (x : Core) : (s.setCore c x).remreds = s.remreds := rfl
@[simp] theorem State.setCore_nextRem (s : State) (c : Nat) (x : Core) : (s.setCore c x).nextRem = s.nextRem := rfl
@[simp] theorem State.setCore_notices (s : State) (c : Nat) (x : Core) : (s.setCore c x).notices = s.notices := rfl
@[simp] theorem State.setCore_nextNotice (s : State) (c : Nat) (x : Core) : (s.setCore c x).nextNotice = s.nextNotice := rfl
@[simp] theorem State.setCore_sends (s : State) (c : Nat) (x : Core) : (s.setCore c x).sends = s.sends := rfl
@[simp] theorem State.setCore_nextSend (s : State) (c : Nat) (x : Core) : (s.setCore c x).nextSend = s.nextSend := rfl
@[simp] theorem State.setCore_vis (s : State) (c : Nat) (x : Core) : (s.setCore c x).vis = s.vis := rfl
@[simp] theorem State.setCore_tasks (s : State) (c : Nat) (x : Core) : (s.setCore c x).tasks = s.tasks := rfl
@[simp] theorem State.setCore_nextTask (s : State) (c : Nat) (x : Core) : (s.setCore c x).nextTask = s.nextTask := rfl
@[simp] theorem State.setCore_overflow (s : State) (c : Nat) (x : Core) : (s.setCore c x).overflow = s.overflow := rfl
@[simp] theorem State.setCore_doomed (s : State) (c : Nat) (x : Core) : (s.setCore c x).doomed = s.doomed := rfl
@[simp] theorem State.setCore_unreachable (s : State) (c : Nat) (x : Core) : (s.setCore c x).unreachable = s.unreachable := rfl
@[simp] theorem State.setCore_serviceSlots (s : State) (c : Nat) (x : Core) : (s.setCore c x).serviceSlots = s.serviceSlots := rfl
@[simp] theorem State.setCore_purges (s : State) (c : Nat) (x : Core) : (s.setCore c x).purges = s.purges := rfl
@[simp] theorem State.setCore_servedN (s : State) (c : Nat) (x : Core) : (s.setCore c x).servedN = s.servedN := rfl
@[simp] theorem State.setCore_bypass (s : State) (c : Nat) (x : Core) : (s.setCore c x).bypass = s.bypass := rfl
@[simp] theorem State.setCore_nextOrder (s : State) (c : Nat) (x : Core) : (s.setCore c x).nextOrder = s.nextOrder := rfl
@[simp] theorem State.setCore_bridge (s : State) (c : Nat) (x : Core) : (s.setCore c x).bridge = s.bridge := rfl
@[simp] theorem State.setCore_fabric (s : State) (c : Nat) (x : Core) : (s.setCore c x).fabric = s.fabric := rfl
@[simp] theorem State.setCore_boot (s : State) (c : Nat) (x : Core) : (s.setCore c x).boot = s.boot := rfl
@[simp] theorem State.setCore_reports (s : State) (c : Nat) (x : Core) : (s.setCore c x).reports = s.reports := rfl
@[simp] theorem State.setCore_stopped (s : State) (c : Nat) (x : Core) : (s.setCore c x).stopped = s.stopped := rfl
@[simp] theorem State.setCore_throttle (s : State) (c : Nat) (x : Core) : (s.setCore c x).throttle = s.throttle := rfl
@[simp] theorem State.setCore_cur (s : State) (c : Nat) (x : Core) : (s.setCore c x).cur = s.cur := rfl
@[simp] theorem State.setCore_arg (s : State) (c : Nat) (x : Core) : (s.setCore c x).arg = s.arg := rfl
@[simp] theorem State.setCore_agenda (s : State) (c : Nat) (x : Core) : (s.setCore c x).agenda = s.agenda := rfl
@[simp] theorem State.setCore_turn (s : State) (c : Nat) (x : Core) : (s.setCore c x).turn = s.turn := rfl
@[simp] theorem State.setCore_now (s : State) (c : Nat) (x : Core) : (s.setCore c x).now = s.now := rfl
@[simp] theorem State.setCore_free (s : State) (c : Nat) (x : Core) : (s.setCore c x).free = s.free := rfl

/-! modCore -/

@[simp] theorem State.modCore_blocks (s : State) (c : Nat) (g : Core → Core) : (s.modCore c g).blocks = s.blocks := rfl
@[simp] theorem State.modCore_nextBlk (s : State) (c : Nat) (g : Core → Core) : (s.modCore c g).nextBlk = s.nextBlk := rfl
@[simp] theorem State.modCore_dies (s : State) (c : Nat) (g : Core → Core) : (s.modCore c g).dies = s.dies := rfl
@[simp] theorem State.modCore_chiplets (s : State) (c : Nat) (g : Core → Core) : (s.modCore c g).chiplets = s.chiplets := rfl
@[simp] theorem State.modCore_mem (s : State) (c : Nat) (g : Core → Core) : (s.modCore c g).mem = s.mem := rfl
@[simp] theorem State.modCore_memPoison (s : State) (c : Nat) (g : Core → Core) : (s.modCore c g).memPoison = s.memPoison := rfl
@[simp] theorem State.modCore_homes (s : State) (c : Nat) (g : Core → Core) : (s.modCore c g).homes = s.homes := rfl
@[simp] theorem State.modCore_owners (s : State) (c : Nat) (g : Core → Core) : (s.modCore c g).owners = s.owners := rfl
@[simp] theorem State.modCore_evicts (s : State) (c : Nat) (g : Core → Core) : (s.modCore c g).evicts = s.evicts := rfl
@[simp] theorem State.modCore_nextEv (s : State) (c : Nat) (g : Core → Core) : (s.modCore c g).nextEv = s.nextEv := rfl
@[simp] theorem State.modCore_reqs (s : State) (c : Nat) (g : Core → Core) : (s.modCore c g).reqs = s.reqs := rfl
@[simp] theorem State.modCore_nextReq (s : State) (c : Nat) (g : Core → Core) : (s.modCore c g).nextReq = s.nextReq := rfl
@[simp] theorem State.modCore_nextReply (s : State) (c : Nat) (g : Core → Core) : (s.modCore c g).nextReply = s.nextReply := rfl
@[simp] theorem State.modCore_seqs (s : State) (c : Nat) (g : Core → Core) : (s.modCore c g).seqs = s.seqs := rfl
@[simp] theorem State.modCore_devq (s : State) (c : Nat) (g : Core → Core) : (s.modCore c g).devq = s.devq := rfl
@[simp] theorem State.modCore_h (s : State) (c : Nat) (g : Core → Core) : (s.modCore c g).h = s.h := rfl
@[simp] theorem State.modCore_epoch (s : State) (c : Nat) (g : Core → Core) : (s.modCore c g).epoch = s.epoch := rfl
@[simp] theorem State.modCore_bmax (s : State) (c : Nat) (g : Core → Core) : (s.modCore c g).bmax = s.bmax := rfl
@[simp] theorem State.modCore_stepReq (s : State) (c : Nat) (g : Core → Core) : (s.modCore c g).stepReq = s.stepReq := rfl
@[simp] theorem State.modCore_swept (s : State) (c : Nat) (g : Core → Core) : (s.modCore c g).swept = s.swept := rfl
@[simp] theorem State.modCore_recalls (s : State) (c : Nat) (g : Core → Core) : (s.modCore c g).recalls = s.recalls := rfl
@[simp] theorem State.modCore_cbars (s : State) (c : Nat) (g : Core → Core) : (s.modCore c g).cbars = s.cbars := rfl
@[simp] theorem State.modCore_dbars (s : State) (c : Nat) (g : Core → Core) : (s.modCore c g).dbars = s.dbars := rfl
@[simp] theorem State.modCore_remreds (s : State) (c : Nat) (g : Core → Core) : (s.modCore c g).remreds = s.remreds := rfl
@[simp] theorem State.modCore_nextRem (s : State) (c : Nat) (g : Core → Core) : (s.modCore c g).nextRem = s.nextRem := rfl
@[simp] theorem State.modCore_notices (s : State) (c : Nat) (g : Core → Core) : (s.modCore c g).notices = s.notices := rfl
@[simp] theorem State.modCore_nextNotice (s : State) (c : Nat) (g : Core → Core) : (s.modCore c g).nextNotice = s.nextNotice := rfl
@[simp] theorem State.modCore_sends (s : State) (c : Nat) (g : Core → Core) : (s.modCore c g).sends = s.sends := rfl
@[simp] theorem State.modCore_nextSend (s : State) (c : Nat) (g : Core → Core) : (s.modCore c g).nextSend = s.nextSend := rfl
@[simp] theorem State.modCore_vis (s : State) (c : Nat) (g : Core → Core) : (s.modCore c g).vis = s.vis := rfl
@[simp] theorem State.modCore_tasks (s : State) (c : Nat) (g : Core → Core) : (s.modCore c g).tasks = s.tasks := rfl
@[simp] theorem State.modCore_nextTask (s : State) (c : Nat) (g : Core → Core) : (s.modCore c g).nextTask = s.nextTask := rfl
@[simp] theorem State.modCore_overflow (s : State) (c : Nat) (g : Core → Core) : (s.modCore c g).overflow = s.overflow := rfl
@[simp] theorem State.modCore_doomed (s : State) (c : Nat) (g : Core → Core) : (s.modCore c g).doomed = s.doomed := rfl
@[simp] theorem State.modCore_unreachable (s : State) (c : Nat) (g : Core → Core) : (s.modCore c g).unreachable = s.unreachable := rfl
@[simp] theorem State.modCore_serviceSlots (s : State) (c : Nat) (g : Core → Core) : (s.modCore c g).serviceSlots = s.serviceSlots := rfl
@[simp] theorem State.modCore_purges (s : State) (c : Nat) (g : Core → Core) : (s.modCore c g).purges = s.purges := rfl
@[simp] theorem State.modCore_servedN (s : State) (c : Nat) (g : Core → Core) : (s.modCore c g).servedN = s.servedN := rfl
@[simp] theorem State.modCore_bypass (s : State) (c : Nat) (g : Core → Core) : (s.modCore c g).bypass = s.bypass := rfl
@[simp] theorem State.modCore_nextOrder (s : State) (c : Nat) (g : Core → Core) : (s.modCore c g).nextOrder = s.nextOrder := rfl
@[simp] theorem State.modCore_bridge (s : State) (c : Nat) (g : Core → Core) : (s.modCore c g).bridge = s.bridge := rfl
@[simp] theorem State.modCore_fabric (s : State) (c : Nat) (g : Core → Core) : (s.modCore c g).fabric = s.fabric := rfl
@[simp] theorem State.modCore_boot (s : State) (c : Nat) (g : Core → Core) : (s.modCore c g).boot = s.boot := rfl
@[simp] theorem State.modCore_reports (s : State) (c : Nat) (g : Core → Core) : (s.modCore c g).reports = s.reports := rfl
@[simp] theorem State.modCore_stopped (s : State) (c : Nat) (g : Core → Core) : (s.modCore c g).stopped = s.stopped := rfl
@[simp] theorem State.modCore_throttle (s : State) (c : Nat) (g : Core → Core) : (s.modCore c g).throttle = s.throttle := rfl
@[simp] theorem State.modCore_cur (s : State) (c : Nat) (g : Core → Core) : (s.modCore c g).cur = s.cur := rfl
@[simp] theorem State.modCore_arg (s : State) (c : Nat) (g : Core → Core) : (s.modCore c g).arg = s.arg := rfl
@[simp] theorem State.modCore_agenda (s : State) (c : Nat) (g : Core → Core) : (s.modCore c g).agenda = s.agenda := rfl
@[simp] theorem State.modCore_turn (s : State) (c : Nat) (g : Core → Core) : (s.modCore c g).turn = s.turn := rfl
@[simp] theorem State.modCore_now (s : State) (c : Nat) (g : Core → Core) : (s.modCore c g).now = s.now := rfl
@[simp] theorem State.modCore_free (s : State) (c : Nat) (g : Core → Core) : (s.modCore c g).free = s.free := rfl

/-! modDie -/

@[simp] theorem State.modDie_blocks (s : State) (d : Nat) (g : Die → Die) : (s.modDie d g).blocks = s.blocks := rfl
@[simp] theorem State.modDie_nextBlk (s : State) (d : Nat) (g : Die → Die) : (s.modDie d g).nextBlk = s.nextBlk := rfl
@[simp] theorem State.modDie_cores (s : State) (d : Nat) (g : Die → Die) : (s.modDie d g).cores = s.cores := rfl
@[simp] theorem State.modDie_chiplets (s : State) (d : Nat) (g : Die → Die) : (s.modDie d g).chiplets = s.chiplets := rfl
@[simp] theorem State.modDie_mem (s : State) (d : Nat) (g : Die → Die) : (s.modDie d g).mem = s.mem := rfl
@[simp] theorem State.modDie_memPoison (s : State) (d : Nat) (g : Die → Die) : (s.modDie d g).memPoison = s.memPoison := rfl
@[simp] theorem State.modDie_homes (s : State) (d : Nat) (g : Die → Die) : (s.modDie d g).homes = s.homes := rfl
@[simp] theorem State.modDie_owners (s : State) (d : Nat) (g : Die → Die) : (s.modDie d g).owners = s.owners := rfl
@[simp] theorem State.modDie_evicts (s : State) (d : Nat) (g : Die → Die) : (s.modDie d g).evicts = s.evicts := rfl
@[simp] theorem State.modDie_nextEv (s : State) (d : Nat) (g : Die → Die) : (s.modDie d g).nextEv = s.nextEv := rfl
@[simp] theorem State.modDie_reqs (s : State) (d : Nat) (g : Die → Die) : (s.modDie d g).reqs = s.reqs := rfl
@[simp] theorem State.modDie_nextReq (s : State) (d : Nat) (g : Die → Die) : (s.modDie d g).nextReq = s.nextReq := rfl
@[simp] theorem State.modDie_nextReply (s : State) (d : Nat) (g : Die → Die) : (s.modDie d g).nextReply = s.nextReply := rfl
@[simp] theorem State.modDie_seqs (s : State) (d : Nat) (g : Die → Die) : (s.modDie d g).seqs = s.seqs := rfl
@[simp] theorem State.modDie_devq (s : State) (d : Nat) (g : Die → Die) : (s.modDie d g).devq = s.devq := rfl
@[simp] theorem State.modDie_h (s : State) (d : Nat) (g : Die → Die) : (s.modDie d g).h = s.h := rfl
@[simp] theorem State.modDie_epoch (s : State) (d : Nat) (g : Die → Die) : (s.modDie d g).epoch = s.epoch := rfl
@[simp] theorem State.modDie_bmax (s : State) (d : Nat) (g : Die → Die) : (s.modDie d g).bmax = s.bmax := rfl
@[simp] theorem State.modDie_stepReq (s : State) (d : Nat) (g : Die → Die) : (s.modDie d g).stepReq = s.stepReq := rfl
@[simp] theorem State.modDie_swept (s : State) (d : Nat) (g : Die → Die) : (s.modDie d g).swept = s.swept := rfl
@[simp] theorem State.modDie_recalls (s : State) (d : Nat) (g : Die → Die) : (s.modDie d g).recalls = s.recalls := rfl
@[simp] theorem State.modDie_cbars (s : State) (d : Nat) (g : Die → Die) : (s.modDie d g).cbars = s.cbars := rfl
@[simp] theorem State.modDie_dbars (s : State) (d : Nat) (g : Die → Die) : (s.modDie d g).dbars = s.dbars := rfl
@[simp] theorem State.modDie_remreds (s : State) (d : Nat) (g : Die → Die) : (s.modDie d g).remreds = s.remreds := rfl
@[simp] theorem State.modDie_nextRem (s : State) (d : Nat) (g : Die → Die) : (s.modDie d g).nextRem = s.nextRem := rfl
@[simp] theorem State.modDie_notices (s : State) (d : Nat) (g : Die → Die) : (s.modDie d g).notices = s.notices := rfl
@[simp] theorem State.modDie_nextNotice (s : State) (d : Nat) (g : Die → Die) : (s.modDie d g).nextNotice = s.nextNotice := rfl
@[simp] theorem State.modDie_sends (s : State) (d : Nat) (g : Die → Die) : (s.modDie d g).sends = s.sends := rfl
@[simp] theorem State.modDie_nextSend (s : State) (d : Nat) (g : Die → Die) : (s.modDie d g).nextSend = s.nextSend := rfl
@[simp] theorem State.modDie_vis (s : State) (d : Nat) (g : Die → Die) : (s.modDie d g).vis = s.vis := rfl
@[simp] theorem State.modDie_tasks (s : State) (d : Nat) (g : Die → Die) : (s.modDie d g).tasks = s.tasks := rfl
@[simp] theorem State.modDie_nextTask (s : State) (d : Nat) (g : Die → Die) : (s.modDie d g).nextTask = s.nextTask := rfl
@[simp] theorem State.modDie_overflow (s : State) (d : Nat) (g : Die → Die) : (s.modDie d g).overflow = s.overflow := rfl
@[simp] theorem State.modDie_doomed (s : State) (d : Nat) (g : Die → Die) : (s.modDie d g).doomed = s.doomed := rfl
@[simp] theorem State.modDie_unreachable (s : State) (d : Nat) (g : Die → Die) : (s.modDie d g).unreachable = s.unreachable := rfl
@[simp] theorem State.modDie_serviceSlots (s : State) (d : Nat) (g : Die → Die) : (s.modDie d g).serviceSlots = s.serviceSlots := rfl
@[simp] theorem State.modDie_purges (s : State) (d : Nat) (g : Die → Die) : (s.modDie d g).purges = s.purges := rfl
@[simp] theorem State.modDie_servedN (s : State) (d : Nat) (g : Die → Die) : (s.modDie d g).servedN = s.servedN := rfl
@[simp] theorem State.modDie_bypass (s : State) (d : Nat) (g : Die → Die) : (s.modDie d g).bypass = s.bypass := rfl
@[simp] theorem State.modDie_nextOrder (s : State) (d : Nat) (g : Die → Die) : (s.modDie d g).nextOrder = s.nextOrder := rfl
@[simp] theorem State.modDie_bridge (s : State) (d : Nat) (g : Die → Die) : (s.modDie d g).bridge = s.bridge := rfl
@[simp] theorem State.modDie_fabric (s : State) (d : Nat) (g : Die → Die) : (s.modDie d g).fabric = s.fabric := rfl
@[simp] theorem State.modDie_boot (s : State) (d : Nat) (g : Die → Die) : (s.modDie d g).boot = s.boot := rfl
@[simp] theorem State.modDie_reports (s : State) (d : Nat) (g : Die → Die) : (s.modDie d g).reports = s.reports := rfl
@[simp] theorem State.modDie_stopped (s : State) (d : Nat) (g : Die → Die) : (s.modDie d g).stopped = s.stopped := rfl
@[simp] theorem State.modDie_throttle (s : State) (d : Nat) (g : Die → Die) : (s.modDie d g).throttle = s.throttle := rfl
@[simp] theorem State.modDie_cur (s : State) (d : Nat) (g : Die → Die) : (s.modDie d g).cur = s.cur := rfl
@[simp] theorem State.modDie_arg (s : State) (d : Nat) (g : Die → Die) : (s.modDie d g).arg = s.arg := rfl
@[simp] theorem State.modDie_agenda (s : State) (d : Nat) (g : Die → Die) : (s.modDie d g).agenda = s.agenda := rfl
@[simp] theorem State.modDie_turn (s : State) (d : Nat) (g : Die → Die) : (s.modDie d g).turn = s.turn := rfl
@[simp] theorem State.modDie_now (s : State) (d : Nat) (g : Die → Die) : (s.modDie d g).now = s.now := rfl
@[simp] theorem State.modDie_free (s : State) (d : Nat) (g : Die → Die) : (s.modDie d g).free = s.free := rfl

/-! modChiplet -/

@[simp] theorem State.modChiplet_blocks (s : State) (c : Nat) (g : Chiplet → Chiplet) : (s.modChiplet c g).blocks = s.blocks := rfl
@[simp] theorem State.modChiplet_nextBlk (s : State) (c : Nat) (g : Chiplet → Chiplet) : (s.modChiplet c g).nextBlk = s.nextBlk := rfl
@[simp] theorem State.modChiplet_cores (s : State) (c : Nat) (g : Chiplet → Chiplet) : (s.modChiplet c g).cores = s.cores := rfl
@[simp] theorem State.modChiplet_dies (s : State) (c : Nat) (g : Chiplet → Chiplet) : (s.modChiplet c g).dies = s.dies := rfl
@[simp] theorem State.modChiplet_mem (s : State) (c : Nat) (g : Chiplet → Chiplet) : (s.modChiplet c g).mem = s.mem := rfl
@[simp] theorem State.modChiplet_memPoison (s : State) (c : Nat) (g : Chiplet → Chiplet) : (s.modChiplet c g).memPoison = s.memPoison := rfl
@[simp] theorem State.modChiplet_homes (s : State) (c : Nat) (g : Chiplet → Chiplet) : (s.modChiplet c g).homes = s.homes := rfl
@[simp] theorem State.modChiplet_owners (s : State) (c : Nat) (g : Chiplet → Chiplet) : (s.modChiplet c g).owners = s.owners := rfl
@[simp] theorem State.modChiplet_evicts (s : State) (c : Nat) (g : Chiplet → Chiplet) : (s.modChiplet c g).evicts = s.evicts := rfl
@[simp] theorem State.modChiplet_nextEv (s : State) (c : Nat) (g : Chiplet → Chiplet) : (s.modChiplet c g).nextEv = s.nextEv := rfl
@[simp] theorem State.modChiplet_reqs (s : State) (c : Nat) (g : Chiplet → Chiplet) : (s.modChiplet c g).reqs = s.reqs := rfl
@[simp] theorem State.modChiplet_nextReq (s : State) (c : Nat) (g : Chiplet → Chiplet) : (s.modChiplet c g).nextReq = s.nextReq := rfl
@[simp] theorem State.modChiplet_nextReply (s : State) (c : Nat) (g : Chiplet → Chiplet) : (s.modChiplet c g).nextReply = s.nextReply := rfl
@[simp] theorem State.modChiplet_seqs (s : State) (c : Nat) (g : Chiplet → Chiplet) : (s.modChiplet c g).seqs = s.seqs := rfl
@[simp] theorem State.modChiplet_devq (s : State) (c : Nat) (g : Chiplet → Chiplet) : (s.modChiplet c g).devq = s.devq := rfl
@[simp] theorem State.modChiplet_h (s : State) (c : Nat) (g : Chiplet → Chiplet) : (s.modChiplet c g).h = s.h := rfl
@[simp] theorem State.modChiplet_epoch (s : State) (c : Nat) (g : Chiplet → Chiplet) : (s.modChiplet c g).epoch = s.epoch := rfl
@[simp] theorem State.modChiplet_bmax (s : State) (c : Nat) (g : Chiplet → Chiplet) : (s.modChiplet c g).bmax = s.bmax := rfl
@[simp] theorem State.modChiplet_stepReq (s : State) (c : Nat) (g : Chiplet → Chiplet) : (s.modChiplet c g).stepReq = s.stepReq := rfl
@[simp] theorem State.modChiplet_swept (s : State) (c : Nat) (g : Chiplet → Chiplet) : (s.modChiplet c g).swept = s.swept := rfl
@[simp] theorem State.modChiplet_recalls (s : State) (c : Nat) (g : Chiplet → Chiplet) : (s.modChiplet c g).recalls = s.recalls := rfl
@[simp] theorem State.modChiplet_cbars (s : State) (c : Nat) (g : Chiplet → Chiplet) : (s.modChiplet c g).cbars = s.cbars := rfl
@[simp] theorem State.modChiplet_dbars (s : State) (c : Nat) (g : Chiplet → Chiplet) : (s.modChiplet c g).dbars = s.dbars := rfl
@[simp] theorem State.modChiplet_remreds (s : State) (c : Nat) (g : Chiplet → Chiplet) : (s.modChiplet c g).remreds = s.remreds := rfl
@[simp] theorem State.modChiplet_nextRem (s : State) (c : Nat) (g : Chiplet → Chiplet) : (s.modChiplet c g).nextRem = s.nextRem := rfl
@[simp] theorem State.modChiplet_notices (s : State) (c : Nat) (g : Chiplet → Chiplet) : (s.modChiplet c g).notices = s.notices := rfl
@[simp] theorem State.modChiplet_nextNotice (s : State) (c : Nat) (g : Chiplet → Chiplet) : (s.modChiplet c g).nextNotice = s.nextNotice := rfl
@[simp] theorem State.modChiplet_sends (s : State) (c : Nat) (g : Chiplet → Chiplet) : (s.modChiplet c g).sends = s.sends := rfl
@[simp] theorem State.modChiplet_nextSend (s : State) (c : Nat) (g : Chiplet → Chiplet) : (s.modChiplet c g).nextSend = s.nextSend := rfl
@[simp] theorem State.modChiplet_vis (s : State) (c : Nat) (g : Chiplet → Chiplet) : (s.modChiplet c g).vis = s.vis := rfl
@[simp] theorem State.modChiplet_tasks (s : State) (c : Nat) (g : Chiplet → Chiplet) : (s.modChiplet c g).tasks = s.tasks := rfl
@[simp] theorem State.modChiplet_nextTask (s : State) (c : Nat) (g : Chiplet → Chiplet) : (s.modChiplet c g).nextTask = s.nextTask := rfl
@[simp] theorem State.modChiplet_overflow (s : State) (c : Nat) (g : Chiplet → Chiplet) : (s.modChiplet c g).overflow = s.overflow := rfl
@[simp] theorem State.modChiplet_doomed (s : State) (c : Nat) (g : Chiplet → Chiplet) : (s.modChiplet c g).doomed = s.doomed := rfl
@[simp] theorem State.modChiplet_unreachable (s : State) (c : Nat) (g : Chiplet → Chiplet) : (s.modChiplet c g).unreachable = s.unreachable := rfl
@[simp] theorem State.modChiplet_serviceSlots (s : State) (c : Nat) (g : Chiplet → Chiplet) : (s.modChiplet c g).serviceSlots = s.serviceSlots := rfl
@[simp] theorem State.modChiplet_purges (s : State) (c : Nat) (g : Chiplet → Chiplet) : (s.modChiplet c g).purges = s.purges := rfl
@[simp] theorem State.modChiplet_servedN (s : State) (c : Nat) (g : Chiplet → Chiplet) : (s.modChiplet c g).servedN = s.servedN := rfl
@[simp] theorem State.modChiplet_bypass (s : State) (c : Nat) (g : Chiplet → Chiplet) : (s.modChiplet c g).bypass = s.bypass := rfl
@[simp] theorem State.modChiplet_nextOrder (s : State) (c : Nat) (g : Chiplet → Chiplet) : (s.modChiplet c g).nextOrder = s.nextOrder := rfl
@[simp] theorem State.modChiplet_bridge (s : State) (c : Nat) (g : Chiplet → Chiplet) : (s.modChiplet c g).bridge = s.bridge := rfl
@[simp] theorem State.modChiplet_fabric (s : State) (c : Nat) (g : Chiplet → Chiplet) : (s.modChiplet c g).fabric = s.fabric := rfl
@[simp] theorem State.modChiplet_boot (s : State) (c : Nat) (g : Chiplet → Chiplet) : (s.modChiplet c g).boot = s.boot := rfl
@[simp] theorem State.modChiplet_reports (s : State) (c : Nat) (g : Chiplet → Chiplet) : (s.modChiplet c g).reports = s.reports := rfl
@[simp] theorem State.modChiplet_stopped (s : State) (c : Nat) (g : Chiplet → Chiplet) : (s.modChiplet c g).stopped = s.stopped := rfl
@[simp] theorem State.modChiplet_throttle (s : State) (c : Nat) (g : Chiplet → Chiplet) : (s.modChiplet c g).throttle = s.throttle := rfl
@[simp] theorem State.modChiplet_cur (s : State) (c : Nat) (g : Chiplet → Chiplet) : (s.modChiplet c g).cur = s.cur := rfl
@[simp] theorem State.modChiplet_arg (s : State) (c : Nat) (g : Chiplet → Chiplet) : (s.modChiplet c g).arg = s.arg := rfl
@[simp] theorem State.modChiplet_agenda (s : State) (c : Nat) (g : Chiplet → Chiplet) : (s.modChiplet c g).agenda = s.agenda := rfl
@[simp] theorem State.modChiplet_turn (s : State) (c : Nat) (g : Chiplet → Chiplet) : (s.modChiplet c g).turn = s.turn := rfl
@[simp] theorem State.modChiplet_now (s : State) (c : Nat) (g : Chiplet → Chiplet) : (s.modChiplet c g).now = s.now := rfl
@[simp] theorem State.modChiplet_free (s : State) (c : Nat) (g : Chiplet → Chiplet) : (s.modChiplet c g).free = s.free := rfl

/-! modVi -/

@[simp] theorem State.modVi_blocks (s : State) (v : Nat) (g : Vi → Vi) : (s.modVi v g).blocks = s.blocks := rfl
@[simp] theorem State.modVi_nextBlk (s : State) (v : Nat) (g : Vi → Vi) : (s.modVi v g).nextBlk = s.nextBlk := rfl
@[simp] theorem State.modVi_cores (s : State) (v : Nat) (g : Vi → Vi) : (s.modVi v g).cores = s.cores := rfl
@[simp] theorem State.modVi_dies (s : State) (v : Nat) (g : Vi → Vi) : (s.modVi v g).dies = s.dies := rfl
@[simp] theorem State.modVi_chiplets (s : State) (v : Nat) (g : Vi → Vi) : (s.modVi v g).chiplets = s.chiplets := rfl
@[simp] theorem State.modVi_mem (s : State) (v : Nat) (g : Vi → Vi) : (s.modVi v g).mem = s.mem := rfl
@[simp] theorem State.modVi_memPoison (s : State) (v : Nat) (g : Vi → Vi) : (s.modVi v g).memPoison = s.memPoison := rfl
@[simp] theorem State.modVi_homes (s : State) (v : Nat) (g : Vi → Vi) : (s.modVi v g).homes = s.homes := rfl
@[simp] theorem State.modVi_owners (s : State) (v : Nat) (g : Vi → Vi) : (s.modVi v g).owners = s.owners := rfl
@[simp] theorem State.modVi_evicts (s : State) (v : Nat) (g : Vi → Vi) : (s.modVi v g).evicts = s.evicts := rfl
@[simp] theorem State.modVi_nextEv (s : State) (v : Nat) (g : Vi → Vi) : (s.modVi v g).nextEv = s.nextEv := rfl
@[simp] theorem State.modVi_reqs (s : State) (v : Nat) (g : Vi → Vi) : (s.modVi v g).reqs = s.reqs := rfl
@[simp] theorem State.modVi_nextReq (s : State) (v : Nat) (g : Vi → Vi) : (s.modVi v g).nextReq = s.nextReq := rfl
@[simp] theorem State.modVi_nextReply (s : State) (v : Nat) (g : Vi → Vi) : (s.modVi v g).nextReply = s.nextReply := rfl
@[simp] theorem State.modVi_seqs (s : State) (v : Nat) (g : Vi → Vi) : (s.modVi v g).seqs = s.seqs := rfl
@[simp] theorem State.modVi_devq (s : State) (v : Nat) (g : Vi → Vi) : (s.modVi v g).devq = s.devq := rfl
@[simp] theorem State.modVi_h (s : State) (v : Nat) (g : Vi → Vi) : (s.modVi v g).h = s.h := rfl
@[simp] theorem State.modVi_epoch (s : State) (v : Nat) (g : Vi → Vi) : (s.modVi v g).epoch = s.epoch := rfl
@[simp] theorem State.modVi_bmax (s : State) (v : Nat) (g : Vi → Vi) : (s.modVi v g).bmax = s.bmax := rfl
@[simp] theorem State.modVi_stepReq (s : State) (v : Nat) (g : Vi → Vi) : (s.modVi v g).stepReq = s.stepReq := rfl
@[simp] theorem State.modVi_swept (s : State) (v : Nat) (g : Vi → Vi) : (s.modVi v g).swept = s.swept := rfl
@[simp] theorem State.modVi_recalls (s : State) (v : Nat) (g : Vi → Vi) : (s.modVi v g).recalls = s.recalls := rfl
@[simp] theorem State.modVi_cbars (s : State) (v : Nat) (g : Vi → Vi) : (s.modVi v g).cbars = s.cbars := rfl
@[simp] theorem State.modVi_dbars (s : State) (v : Nat) (g : Vi → Vi) : (s.modVi v g).dbars = s.dbars := rfl
@[simp] theorem State.modVi_remreds (s : State) (v : Nat) (g : Vi → Vi) : (s.modVi v g).remreds = s.remreds := rfl
@[simp] theorem State.modVi_nextRem (s : State) (v : Nat) (g : Vi → Vi) : (s.modVi v g).nextRem = s.nextRem := rfl
@[simp] theorem State.modVi_notices (s : State) (v : Nat) (g : Vi → Vi) : (s.modVi v g).notices = s.notices := rfl
@[simp] theorem State.modVi_nextNotice (s : State) (v : Nat) (g : Vi → Vi) : (s.modVi v g).nextNotice = s.nextNotice := rfl
@[simp] theorem State.modVi_sends (s : State) (v : Nat) (g : Vi → Vi) : (s.modVi v g).sends = s.sends := rfl
@[simp] theorem State.modVi_nextSend (s : State) (v : Nat) (g : Vi → Vi) : (s.modVi v g).nextSend = s.nextSend := rfl
@[simp] theorem State.modVi_tasks (s : State) (v : Nat) (g : Vi → Vi) : (s.modVi v g).tasks = s.tasks := rfl
@[simp] theorem State.modVi_nextTask (s : State) (v : Nat) (g : Vi → Vi) : (s.modVi v g).nextTask = s.nextTask := rfl
@[simp] theorem State.modVi_overflow (s : State) (v : Nat) (g : Vi → Vi) : (s.modVi v g).overflow = s.overflow := rfl
@[simp] theorem State.modVi_doomed (s : State) (v : Nat) (g : Vi → Vi) : (s.modVi v g).doomed = s.doomed := rfl
@[simp] theorem State.modVi_unreachable (s : State) (v : Nat) (g : Vi → Vi) : (s.modVi v g).unreachable = s.unreachable := rfl
@[simp] theorem State.modVi_serviceSlots (s : State) (v : Nat) (g : Vi → Vi) : (s.modVi v g).serviceSlots = s.serviceSlots := rfl
@[simp] theorem State.modVi_purges (s : State) (v : Nat) (g : Vi → Vi) : (s.modVi v g).purges = s.purges := rfl
@[simp] theorem State.modVi_servedN (s : State) (v : Nat) (g : Vi → Vi) : (s.modVi v g).servedN = s.servedN := rfl
@[simp] theorem State.modVi_bypass (s : State) (v : Nat) (g : Vi → Vi) : (s.modVi v g).bypass = s.bypass := rfl
@[simp] theorem State.modVi_nextOrder (s : State) (v : Nat) (g : Vi → Vi) : (s.modVi v g).nextOrder = s.nextOrder := rfl
@[simp] theorem State.modVi_bridge (s : State) (v : Nat) (g : Vi → Vi) : (s.modVi v g).bridge = s.bridge := rfl
@[simp] theorem State.modVi_fabric (s : State) (v : Nat) (g : Vi → Vi) : (s.modVi v g).fabric = s.fabric := rfl
@[simp] theorem State.modVi_boot (s : State) (v : Nat) (g : Vi → Vi) : (s.modVi v g).boot = s.boot := rfl
@[simp] theorem State.modVi_reports (s : State) (v : Nat) (g : Vi → Vi) : (s.modVi v g).reports = s.reports := rfl
@[simp] theorem State.modVi_stopped (s : State) (v : Nat) (g : Vi → Vi) : (s.modVi v g).stopped = s.stopped := rfl
@[simp] theorem State.modVi_throttle (s : State) (v : Nat) (g : Vi → Vi) : (s.modVi v g).throttle = s.throttle := rfl
@[simp] theorem State.modVi_cur (s : State) (v : Nat) (g : Vi → Vi) : (s.modVi v g).cur = s.cur := rfl
@[simp] theorem State.modVi_arg (s : State) (v : Nat) (g : Vi → Vi) : (s.modVi v g).arg = s.arg := rfl
@[simp] theorem State.modVi_agenda (s : State) (v : Nat) (g : Vi → Vi) : (s.modVi v g).agenda = s.agenda := rfl
@[simp] theorem State.modVi_turn (s : State) (v : Nat) (g : Vi → Vi) : (s.modVi v g).turn = s.turn := rfl
@[simp] theorem State.modVi_now (s : State) (v : Nat) (g : Vi → Vi) : (s.modVi v g).now = s.now := rfl
@[simp] theorem State.modVi_free (s : State) (v : Nat) (g : Vi → Vi) : (s.modVi v g).free = s.free := rfl

/-! setBlock -/

@[simp] theorem State.setBlock_nextBlk (s : State) (b : Nat) (x : Block) : (s.setBlock b x).nextBlk = s.nextBlk := rfl
@[simp] theorem State.setBlock_cores (s : State) (b : Nat) (x : Block) : (s.setBlock b x).cores = s.cores := rfl
@[simp] theorem State.setBlock_dies (s : State) (b : Nat) (x : Block) : (s.setBlock b x).dies = s.dies := rfl
@[simp] theorem State.setBlock_chiplets (s : State) (b : Nat) (x : Block) : (s.setBlock b x).chiplets = s.chiplets := rfl
@[simp] theorem State.setBlock_mem (s : State) (b : Nat) (x : Block) : (s.setBlock b x).mem = s.mem := rfl
@[simp] theorem State.setBlock_memPoison (s : State) (b : Nat) (x : Block) : (s.setBlock b x).memPoison = s.memPoison := rfl
@[simp] theorem State.setBlock_homes (s : State) (b : Nat) (x : Block) : (s.setBlock b x).homes = s.homes := rfl
@[simp] theorem State.setBlock_owners (s : State) (b : Nat) (x : Block) : (s.setBlock b x).owners = s.owners := rfl
@[simp] theorem State.setBlock_evicts (s : State) (b : Nat) (x : Block) : (s.setBlock b x).evicts = s.evicts := rfl
@[simp] theorem State.setBlock_nextEv (s : State) (b : Nat) (x : Block) : (s.setBlock b x).nextEv = s.nextEv := rfl
@[simp] theorem State.setBlock_reqs (s : State) (b : Nat) (x : Block) : (s.setBlock b x).reqs = s.reqs := rfl
@[simp] theorem State.setBlock_nextReq (s : State) (b : Nat) (x : Block) : (s.setBlock b x).nextReq = s.nextReq := rfl
@[simp] theorem State.setBlock_nextReply (s : State) (b : Nat) (x : Block) : (s.setBlock b x).nextReply = s.nextReply := rfl
@[simp] theorem State.setBlock_seqs (s : State) (b : Nat) (x : Block) : (s.setBlock b x).seqs = s.seqs := rfl
@[simp] theorem State.setBlock_devq (s : State) (b : Nat) (x : Block) : (s.setBlock b x).devq = s.devq := rfl
@[simp] theorem State.setBlock_h (s : State) (b : Nat) (x : Block) : (s.setBlock b x).h = s.h := rfl
@[simp] theorem State.setBlock_epoch (s : State) (b : Nat) (x : Block) : (s.setBlock b x).epoch = s.epoch := rfl
@[simp] theorem State.setBlock_bmax (s : State) (b : Nat) (x : Block) : (s.setBlock b x).bmax = s.bmax := rfl
@[simp] theorem State.setBlock_stepReq (s : State) (b : Nat) (x : Block) : (s.setBlock b x).stepReq = s.stepReq := rfl
@[simp] theorem State.setBlock_swept (s : State) (b : Nat) (x : Block) : (s.setBlock b x).swept = s.swept := rfl
@[simp] theorem State.setBlock_recalls (s : State) (b : Nat) (x : Block) : (s.setBlock b x).recalls = s.recalls := rfl
@[simp] theorem State.setBlock_cbars (s : State) (b : Nat) (x : Block) : (s.setBlock b x).cbars = s.cbars := rfl
@[simp] theorem State.setBlock_dbars (s : State) (b : Nat) (x : Block) : (s.setBlock b x).dbars = s.dbars := rfl
@[simp] theorem State.setBlock_remreds (s : State) (b : Nat) (x : Block) : (s.setBlock b x).remreds = s.remreds := rfl
@[simp] theorem State.setBlock_nextRem (s : State) (b : Nat) (x : Block) : (s.setBlock b x).nextRem = s.nextRem := rfl
@[simp] theorem State.setBlock_notices (s : State) (b : Nat) (x : Block) : (s.setBlock b x).notices = s.notices := rfl
@[simp] theorem State.setBlock_nextNotice (s : State) (b : Nat) (x : Block) : (s.setBlock b x).nextNotice = s.nextNotice := rfl
@[simp] theorem State.setBlock_sends (s : State) (b : Nat) (x : Block) : (s.setBlock b x).sends = s.sends := rfl
@[simp] theorem State.setBlock_nextSend (s : State) (b : Nat) (x : Block) : (s.setBlock b x).nextSend = s.nextSend := rfl
@[simp] theorem State.setBlock_vis (s : State) (b : Nat) (x : Block) : (s.setBlock b x).vis = s.vis := rfl
@[simp] theorem State.setBlock_tasks (s : State) (b : Nat) (x : Block) : (s.setBlock b x).tasks = s.tasks := rfl
@[simp] theorem State.setBlock_nextTask (s : State) (b : Nat) (x : Block) : (s.setBlock b x).nextTask = s.nextTask := rfl
@[simp] theorem State.setBlock_overflow (s : State) (b : Nat) (x : Block) : (s.setBlock b x).overflow = s.overflow := rfl
@[simp] theorem State.setBlock_doomed (s : State) (b : Nat) (x : Block) : (s.setBlock b x).doomed = s.doomed := rfl
@[simp] theorem State.setBlock_unreachable (s : State) (b : Nat) (x : Block) : (s.setBlock b x).unreachable = s.unreachable := rfl
@[simp] theorem State.setBlock_serviceSlots (s : State) (b : Nat) (x : Block) : (s.setBlock b x).serviceSlots = s.serviceSlots := rfl
@[simp] theorem State.setBlock_purges (s : State) (b : Nat) (x : Block) : (s.setBlock b x).purges = s.purges := rfl
@[simp] theorem State.setBlock_servedN (s : State) (b : Nat) (x : Block) : (s.setBlock b x).servedN = s.servedN := rfl
@[simp] theorem State.setBlock_bypass (s : State) (b : Nat) (x : Block) : (s.setBlock b x).bypass = s.bypass := rfl
@[simp] theorem State.setBlock_nextOrder (s : State) (b : Nat) (x : Block) : (s.setBlock b x).nextOrder = s.nextOrder := rfl
@[simp] theorem State.setBlock_bridge (s : State) (b : Nat) (x : Block) : (s.setBlock b x).bridge = s.bridge := rfl
@[simp] theorem State.setBlock_fabric (s : State) (b : Nat) (x : Block) : (s.setBlock b x).fabric = s.fabric := rfl
@[simp] theorem State.setBlock_boot (s : State) (b : Nat) (x : Block) : (s.setBlock b x).boot = s.boot := rfl
@[simp] theorem State.setBlock_reports (s : State) (b : Nat) (x : Block) : (s.setBlock b x).reports = s.reports := rfl
@[simp] theorem State.setBlock_stopped (s : State) (b : Nat) (x : Block) : (s.setBlock b x).stopped = s.stopped := rfl
@[simp] theorem State.setBlock_throttle (s : State) (b : Nat) (x : Block) : (s.setBlock b x).throttle = s.throttle := rfl
@[simp] theorem State.setBlock_cur (s : State) (b : Nat) (x : Block) : (s.setBlock b x).cur = s.cur := rfl
@[simp] theorem State.setBlock_arg (s : State) (b : Nat) (x : Block) : (s.setBlock b x).arg = s.arg := rfl
@[simp] theorem State.setBlock_agenda (s : State) (b : Nat) (x : Block) : (s.setBlock b x).agenda = s.agenda := rfl
@[simp] theorem State.setBlock_turn (s : State) (b : Nat) (x : Block) : (s.setBlock b x).turn = s.turn := rfl
@[simp] theorem State.setBlock_now (s : State) (b : Nat) (x : Block) : (s.setBlock b x).now = s.now := rfl
@[simp] theorem State.setBlock_free (s : State) (b : Nat) (x : Block) : (s.setBlock b x).free = s.free := rfl

/-! modBlock -/

@[simp] theorem State.modBlock_nextBlk (s : State) (b : Nat) (g : Block → Block) : (s.modBlock b g).nextBlk = s.nextBlk := by
  unfold State.modBlock; split <;> rfl
@[simp] theorem State.modBlock_cores (s : State) (b : Nat) (g : Block → Block) : (s.modBlock b g).cores = s.cores := by
  unfold State.modBlock; split <;> rfl
@[simp] theorem State.modBlock_dies (s : State) (b : Nat) (g : Block → Block) : (s.modBlock b g).dies = s.dies := by
  unfold State.modBlock; split <;> rfl
@[simp] theorem State.modBlock_chiplets (s : State) (b : Nat) (g : Block → Block) : (s.modBlock b g).chiplets = s.chiplets := by
  unfold State.modBlock; split <;> rfl
@[simp] theorem State.modBlock_mem (s : State) (b : Nat) (g : Block → Block) : (s.modBlock b g).mem = s.mem := by
  unfold State.modBlock; split <;> rfl
@[simp] theorem State.modBlock_memPoison (s : State) (b : Nat) (g : Block → Block) : (s.modBlock b g).memPoison = s.memPoison := by
  unfold State.modBlock; split <;> rfl
@[simp] theorem State.modBlock_homes (s : State) (b : Nat) (g : Block → Block) : (s.modBlock b g).homes = s.homes := by
  unfold State.modBlock; split <;> rfl
@[simp] theorem State.modBlock_owners (s : State) (b : Nat) (g : Block → Block) : (s.modBlock b g).owners = s.owners := by
  unfold State.modBlock; split <;> rfl
@[simp] theorem State.modBlock_evicts (s : State) (b : Nat) (g : Block → Block) : (s.modBlock b g).evicts = s.evicts := by
  unfold State.modBlock; split <;> rfl
@[simp] theorem State.modBlock_nextEv (s : State) (b : Nat) (g : Block → Block) : (s.modBlock b g).nextEv = s.nextEv := by
  unfold State.modBlock; split <;> rfl
@[simp] theorem State.modBlock_reqs (s : State) (b : Nat) (g : Block → Block) : (s.modBlock b g).reqs = s.reqs := by
  unfold State.modBlock; split <;> rfl
@[simp] theorem State.modBlock_nextReq (s : State) (b : Nat) (g : Block → Block) : (s.modBlock b g).nextReq = s.nextReq := by
  unfold State.modBlock; split <;> rfl
@[simp] theorem State.modBlock_nextReply (s : State) (b : Nat) (g : Block → Block) : (s.modBlock b g).nextReply = s.nextReply := by
  unfold State.modBlock; split <;> rfl
@[simp] theorem State.modBlock_seqs (s : State) (b : Nat) (g : Block → Block) : (s.modBlock b g).seqs = s.seqs := by
  unfold State.modBlock; split <;> rfl
@[simp] theorem State.modBlock_devq (s : State) (b : Nat) (g : Block → Block) : (s.modBlock b g).devq = s.devq := by
  unfold State.modBlock; split <;> rfl
@[simp] theorem State.modBlock_h (s : State) (b : Nat) (g : Block → Block) : (s.modBlock b g).h = s.h := by
  unfold State.modBlock; split <;> rfl
@[simp] theorem State.modBlock_epoch (s : State) (b : Nat) (g : Block → Block) : (s.modBlock b g).epoch = s.epoch := by
  unfold State.modBlock; split <;> rfl
@[simp] theorem State.modBlock_bmax (s : State) (b : Nat) (g : Block → Block) : (s.modBlock b g).bmax = s.bmax := by
  unfold State.modBlock; split <;> rfl
@[simp] theorem State.modBlock_stepReq (s : State) (b : Nat) (g : Block → Block) : (s.modBlock b g).stepReq = s.stepReq := by
  unfold State.modBlock; split <;> rfl
@[simp] theorem State.modBlock_swept (s : State) (b : Nat) (g : Block → Block) : (s.modBlock b g).swept = s.swept := by
  unfold State.modBlock; split <;> rfl
@[simp] theorem State.modBlock_recalls (s : State) (b : Nat) (g : Block → Block) : (s.modBlock b g).recalls = s.recalls := by
  unfold State.modBlock; split <;> rfl
@[simp] theorem State.modBlock_cbars (s : State) (b : Nat) (g : Block → Block) : (s.modBlock b g).cbars = s.cbars := by
  unfold State.modBlock; split <;> rfl
@[simp] theorem State.modBlock_dbars (s : State) (b : Nat) (g : Block → Block) : (s.modBlock b g).dbars = s.dbars := by
  unfold State.modBlock; split <;> rfl
@[simp] theorem State.modBlock_remreds (s : State) (b : Nat) (g : Block → Block) : (s.modBlock b g).remreds = s.remreds := by
  unfold State.modBlock; split <;> rfl
@[simp] theorem State.modBlock_nextRem (s : State) (b : Nat) (g : Block → Block) : (s.modBlock b g).nextRem = s.nextRem := by
  unfold State.modBlock; split <;> rfl
@[simp] theorem State.modBlock_notices (s : State) (b : Nat) (g : Block → Block) : (s.modBlock b g).notices = s.notices := by
  unfold State.modBlock; split <;> rfl
@[simp] theorem State.modBlock_nextNotice (s : State) (b : Nat) (g : Block → Block) : (s.modBlock b g).nextNotice = s.nextNotice := by
  unfold State.modBlock; split <;> rfl
@[simp] theorem State.modBlock_sends (s : State) (b : Nat) (g : Block → Block) : (s.modBlock b g).sends = s.sends := by
  unfold State.modBlock; split <;> rfl
@[simp] theorem State.modBlock_nextSend (s : State) (b : Nat) (g : Block → Block) : (s.modBlock b g).nextSend = s.nextSend := by
  unfold State.modBlock; split <;> rfl
@[simp] theorem State.modBlock_vis (s : State) (b : Nat) (g : Block → Block) : (s.modBlock b g).vis = s.vis := by
  unfold State.modBlock; split <;> rfl
@[simp] theorem State.modBlock_tasks (s : State) (b : Nat) (g : Block → Block) : (s.modBlock b g).tasks = s.tasks := by
  unfold State.modBlock; split <;> rfl
@[simp] theorem State.modBlock_nextTask (s : State) (b : Nat) (g : Block → Block) : (s.modBlock b g).nextTask = s.nextTask := by
  unfold State.modBlock; split <;> rfl
@[simp] theorem State.modBlock_overflow (s : State) (b : Nat) (g : Block → Block) : (s.modBlock b g).overflow = s.overflow := by
  unfold State.modBlock; split <;> rfl
@[simp] theorem State.modBlock_doomed (s : State) (b : Nat) (g : Block → Block) : (s.modBlock b g).doomed = s.doomed := by
  unfold State.modBlock; split <;> rfl
@[simp] theorem State.modBlock_unreachable (s : State) (b : Nat) (g : Block → Block) : (s.modBlock b g).unreachable = s.unreachable := by
  unfold State.modBlock; split <;> rfl
@[simp] theorem State.modBlock_serviceSlots (s : State) (b : Nat) (g : Block → Block) : (s.modBlock b g).serviceSlots = s.serviceSlots := by
  unfold State.modBlock; split <;> rfl
@[simp] theorem State.modBlock_purges (s : State) (b : Nat) (g : Block → Block) : (s.modBlock b g).purges = s.purges := by
  unfold State.modBlock; split <;> rfl
@[simp] theorem State.modBlock_servedN (s : State) (b : Nat) (g : Block → Block) : (s.modBlock b g).servedN = s.servedN := by
  unfold State.modBlock; split <;> rfl
@[simp] theorem State.modBlock_bypass (s : State) (b : Nat) (g : Block → Block) : (s.modBlock b g).bypass = s.bypass := by
  unfold State.modBlock; split <;> rfl
@[simp] theorem State.modBlock_nextOrder (s : State) (b : Nat) (g : Block → Block) : (s.modBlock b g).nextOrder = s.nextOrder := by
  unfold State.modBlock; split <;> rfl
@[simp] theorem State.modBlock_bridge (s : State) (b : Nat) (g : Block → Block) : (s.modBlock b g).bridge = s.bridge := by
  unfold State.modBlock; split <;> rfl
@[simp] theorem State.modBlock_fabric (s : State) (b : Nat) (g : Block → Block) : (s.modBlock b g).fabric = s.fabric := by
  unfold State.modBlock; split <;> rfl
@[simp] theorem State.modBlock_boot (s : State) (b : Nat) (g : Block → Block) : (s.modBlock b g).boot = s.boot := by
  unfold State.modBlock; split <;> rfl
@[simp] theorem State.modBlock_reports (s : State) (b : Nat) (g : Block → Block) : (s.modBlock b g).reports = s.reports := by
  unfold State.modBlock; split <;> rfl
@[simp] theorem State.modBlock_stopped (s : State) (b : Nat) (g : Block → Block) : (s.modBlock b g).stopped = s.stopped := by
  unfold State.modBlock; split <;> rfl
@[simp] theorem State.modBlock_throttle (s : State) (b : Nat) (g : Block → Block) : (s.modBlock b g).throttle = s.throttle := by
  unfold State.modBlock; split <;> rfl
@[simp] theorem State.modBlock_cur (s : State) (b : Nat) (g : Block → Block) : (s.modBlock b g).cur = s.cur := by
  unfold State.modBlock; split <;> rfl
@[simp] theorem State.modBlock_arg (s : State) (b : Nat) (g : Block → Block) : (s.modBlock b g).arg = s.arg := by
  unfold State.modBlock; split <;> rfl
@[simp] theorem State.modBlock_agenda (s : State) (b : Nat) (g : Block → Block) : (s.modBlock b g).agenda = s.agenda := by
  unfold State.modBlock; split <;> rfl
@[simp] theorem State.modBlock_turn (s : State) (b : Nat) (g : Block → Block) : (s.modBlock b g).turn = s.turn := by
  unfold State.modBlock; split <;> rfl
@[simp] theorem State.modBlock_now (s : State) (b : Nat) (g : Block → Block) : (s.modBlock b g).now = s.now := by
  unfold State.modBlock; split <;> rfl
@[simp] theorem State.modBlock_free (s : State) (b : Nat) (g : Block → Block) : (s.modBlock b g).free = s.free := by
  unfold State.modBlock; split <;> rfl

/-! modWarp -/

@[simp] theorem State.modWarp_nextBlk (s : State) (b w : Nat) (g : Warp → Warp) : (s.modWarp b w g).nextBlk = s.nextBlk := State.modBlock_nextBlk ..
@[simp] theorem State.modWarp_cores (s : State) (b w : Nat) (g : Warp → Warp) : (s.modWarp b w g).cores = s.cores := State.modBlock_cores ..
@[simp] theorem State.modWarp_dies (s : State) (b w : Nat) (g : Warp → Warp) : (s.modWarp b w g).dies = s.dies := State.modBlock_dies ..
@[simp] theorem State.modWarp_chiplets (s : State) (b w : Nat) (g : Warp → Warp) : (s.modWarp b w g).chiplets = s.chiplets := State.modBlock_chiplets ..
@[simp] theorem State.modWarp_mem (s : State) (b w : Nat) (g : Warp → Warp) : (s.modWarp b w g).mem = s.mem := State.modBlock_mem ..
@[simp] theorem State.modWarp_memPoison (s : State) (b w : Nat) (g : Warp → Warp) : (s.modWarp b w g).memPoison = s.memPoison := State.modBlock_memPoison ..
@[simp] theorem State.modWarp_homes (s : State) (b w : Nat) (g : Warp → Warp) : (s.modWarp b w g).homes = s.homes := State.modBlock_homes ..
@[simp] theorem State.modWarp_owners (s : State) (b w : Nat) (g : Warp → Warp) : (s.modWarp b w g).owners = s.owners := State.modBlock_owners ..
@[simp] theorem State.modWarp_evicts (s : State) (b w : Nat) (g : Warp → Warp) : (s.modWarp b w g).evicts = s.evicts := State.modBlock_evicts ..
@[simp] theorem State.modWarp_nextEv (s : State) (b w : Nat) (g : Warp → Warp) : (s.modWarp b w g).nextEv = s.nextEv := State.modBlock_nextEv ..
@[simp] theorem State.modWarp_reqs (s : State) (b w : Nat) (g : Warp → Warp) : (s.modWarp b w g).reqs = s.reqs := State.modBlock_reqs ..
@[simp] theorem State.modWarp_nextReq (s : State) (b w : Nat) (g : Warp → Warp) : (s.modWarp b w g).nextReq = s.nextReq := State.modBlock_nextReq ..
@[simp] theorem State.modWarp_nextReply (s : State) (b w : Nat) (g : Warp → Warp) : (s.modWarp b w g).nextReply = s.nextReply := State.modBlock_nextReply ..
@[simp] theorem State.modWarp_seqs (s : State) (b w : Nat) (g : Warp → Warp) : (s.modWarp b w g).seqs = s.seqs := State.modBlock_seqs ..
@[simp] theorem State.modWarp_devq (s : State) (b w : Nat) (g : Warp → Warp) : (s.modWarp b w g).devq = s.devq := State.modBlock_devq ..
@[simp] theorem State.modWarp_h (s : State) (b w : Nat) (g : Warp → Warp) : (s.modWarp b w g).h = s.h := State.modBlock_h ..
@[simp] theorem State.modWarp_epoch (s : State) (b w : Nat) (g : Warp → Warp) : (s.modWarp b w g).epoch = s.epoch := State.modBlock_epoch ..
@[simp] theorem State.modWarp_bmax (s : State) (b w : Nat) (g : Warp → Warp) : (s.modWarp b w g).bmax = s.bmax := State.modBlock_bmax ..
@[simp] theorem State.modWarp_stepReq (s : State) (b w : Nat) (g : Warp → Warp) : (s.modWarp b w g).stepReq = s.stepReq := State.modBlock_stepReq ..
@[simp] theorem State.modWarp_swept (s : State) (b w : Nat) (g : Warp → Warp) : (s.modWarp b w g).swept = s.swept := State.modBlock_swept ..
@[simp] theorem State.modWarp_recalls (s : State) (b w : Nat) (g : Warp → Warp) : (s.modWarp b w g).recalls = s.recalls := State.modBlock_recalls ..
@[simp] theorem State.modWarp_cbars (s : State) (b w : Nat) (g : Warp → Warp) : (s.modWarp b w g).cbars = s.cbars := State.modBlock_cbars ..
@[simp] theorem State.modWarp_dbars (s : State) (b w : Nat) (g : Warp → Warp) : (s.modWarp b w g).dbars = s.dbars := State.modBlock_dbars ..
@[simp] theorem State.modWarp_remreds (s : State) (b w : Nat) (g : Warp → Warp) : (s.modWarp b w g).remreds = s.remreds := State.modBlock_remreds ..
@[simp] theorem State.modWarp_nextRem (s : State) (b w : Nat) (g : Warp → Warp) : (s.modWarp b w g).nextRem = s.nextRem := State.modBlock_nextRem ..
@[simp] theorem State.modWarp_notices (s : State) (b w : Nat) (g : Warp → Warp) : (s.modWarp b w g).notices = s.notices := State.modBlock_notices ..
@[simp] theorem State.modWarp_nextNotice (s : State) (b w : Nat) (g : Warp → Warp) : (s.modWarp b w g).nextNotice = s.nextNotice := State.modBlock_nextNotice ..
@[simp] theorem State.modWarp_sends (s : State) (b w : Nat) (g : Warp → Warp) : (s.modWarp b w g).sends = s.sends := State.modBlock_sends ..
@[simp] theorem State.modWarp_nextSend (s : State) (b w : Nat) (g : Warp → Warp) : (s.modWarp b w g).nextSend = s.nextSend := State.modBlock_nextSend ..
@[simp] theorem State.modWarp_vis (s : State) (b w : Nat) (g : Warp → Warp) : (s.modWarp b w g).vis = s.vis := State.modBlock_vis ..
@[simp] theorem State.modWarp_tasks (s : State) (b w : Nat) (g : Warp → Warp) : (s.modWarp b w g).tasks = s.tasks := State.modBlock_tasks ..
@[simp] theorem State.modWarp_nextTask (s : State) (b w : Nat) (g : Warp → Warp) : (s.modWarp b w g).nextTask = s.nextTask := State.modBlock_nextTask ..
@[simp] theorem State.modWarp_overflow (s : State) (b w : Nat) (g : Warp → Warp) : (s.modWarp b w g).overflow = s.overflow := State.modBlock_overflow ..
@[simp] theorem State.modWarp_doomed (s : State) (b w : Nat) (g : Warp → Warp) : (s.modWarp b w g).doomed = s.doomed := State.modBlock_doomed ..
@[simp] theorem State.modWarp_unreachable (s : State) (b w : Nat) (g : Warp → Warp) : (s.modWarp b w g).unreachable = s.unreachable := State.modBlock_unreachable ..
@[simp] theorem State.modWarp_serviceSlots (s : State) (b w : Nat) (g : Warp → Warp) : (s.modWarp b w g).serviceSlots = s.serviceSlots := State.modBlock_serviceSlots ..
@[simp] theorem State.modWarp_purges (s : State) (b w : Nat) (g : Warp → Warp) : (s.modWarp b w g).purges = s.purges := State.modBlock_purges ..
@[simp] theorem State.modWarp_servedN (s : State) (b w : Nat) (g : Warp → Warp) : (s.modWarp b w g).servedN = s.servedN := State.modBlock_servedN ..
@[simp] theorem State.modWarp_bypass (s : State) (b w : Nat) (g : Warp → Warp) : (s.modWarp b w g).bypass = s.bypass := State.modBlock_bypass ..
@[simp] theorem State.modWarp_nextOrder (s : State) (b w : Nat) (g : Warp → Warp) : (s.modWarp b w g).nextOrder = s.nextOrder := State.modBlock_nextOrder ..
@[simp] theorem State.modWarp_bridge (s : State) (b w : Nat) (g : Warp → Warp) : (s.modWarp b w g).bridge = s.bridge := State.modBlock_bridge ..
@[simp] theorem State.modWarp_fabric (s : State) (b w : Nat) (g : Warp → Warp) : (s.modWarp b w g).fabric = s.fabric := State.modBlock_fabric ..
@[simp] theorem State.modWarp_boot (s : State) (b w : Nat) (g : Warp → Warp) : (s.modWarp b w g).boot = s.boot := State.modBlock_boot ..
@[simp] theorem State.modWarp_reports (s : State) (b w : Nat) (g : Warp → Warp) : (s.modWarp b w g).reports = s.reports := State.modBlock_reports ..
@[simp] theorem State.modWarp_stopped (s : State) (b w : Nat) (g : Warp → Warp) : (s.modWarp b w g).stopped = s.stopped := State.modBlock_stopped ..
@[simp] theorem State.modWarp_throttle (s : State) (b w : Nat) (g : Warp → Warp) : (s.modWarp b w g).throttle = s.throttle := State.modBlock_throttle ..
@[simp] theorem State.modWarp_cur (s : State) (b w : Nat) (g : Warp → Warp) : (s.modWarp b w g).cur = s.cur := State.modBlock_cur ..
@[simp] theorem State.modWarp_arg (s : State) (b w : Nat) (g : Warp → Warp) : (s.modWarp b w g).arg = s.arg := State.modBlock_arg ..
@[simp] theorem State.modWarp_agenda (s : State) (b w : Nat) (g : Warp → Warp) : (s.modWarp b w g).agenda = s.agenda := State.modBlock_agenda ..
@[simp] theorem State.modWarp_turn (s : State) (b w : Nat) (g : Warp → Warp) : (s.modWarp b w g).turn = s.turn := State.modBlock_turn ..
@[simp] theorem State.modWarp_now (s : State) (b w : Nat) (g : Warp → Warp) : (s.modWarp b w g).now = s.now := State.modBlock_now ..
@[simp] theorem State.modWarp_free (s : State) (b w : Nat) (g : Warp → Warp) : (s.modWarp b w g).free = s.free := State.modBlock_free ..

/-! modFib -/

@[simp] theorem State.modFib_nextBlk (s : State) (r : FRef) (g : Fibre → Fibre) : (s.modFib r g).nextBlk = s.nextBlk := State.modWarp_nextBlk ..
@[simp] theorem State.modFib_cores (s : State) (r : FRef) (g : Fibre → Fibre) : (s.modFib r g).cores = s.cores := State.modWarp_cores ..
@[simp] theorem State.modFib_dies (s : State) (r : FRef) (g : Fibre → Fibre) : (s.modFib r g).dies = s.dies := State.modWarp_dies ..
@[simp] theorem State.modFib_chiplets (s : State) (r : FRef) (g : Fibre → Fibre) : (s.modFib r g).chiplets = s.chiplets := State.modWarp_chiplets ..
@[simp] theorem State.modFib_mem (s : State) (r : FRef) (g : Fibre → Fibre) : (s.modFib r g).mem = s.mem := State.modWarp_mem ..
@[simp] theorem State.modFib_memPoison (s : State) (r : FRef) (g : Fibre → Fibre) : (s.modFib r g).memPoison = s.memPoison := State.modWarp_memPoison ..
@[simp] theorem State.modFib_homes (s : State) (r : FRef) (g : Fibre → Fibre) : (s.modFib r g).homes = s.homes := State.modWarp_homes ..
@[simp] theorem State.modFib_owners (s : State) (r : FRef) (g : Fibre → Fibre) : (s.modFib r g).owners = s.owners := State.modWarp_owners ..
@[simp] theorem State.modFib_evicts (s : State) (r : FRef) (g : Fibre → Fibre) : (s.modFib r g).evicts = s.evicts := State.modWarp_evicts ..
@[simp] theorem State.modFib_nextEv (s : State) (r : FRef) (g : Fibre → Fibre) : (s.modFib r g).nextEv = s.nextEv := State.modWarp_nextEv ..
@[simp] theorem State.modFib_reqs (s : State) (r : FRef) (g : Fibre → Fibre) : (s.modFib r g).reqs = s.reqs := State.modWarp_reqs ..
@[simp] theorem State.modFib_nextReq (s : State) (r : FRef) (g : Fibre → Fibre) : (s.modFib r g).nextReq = s.nextReq := State.modWarp_nextReq ..
@[simp] theorem State.modFib_nextReply (s : State) (r : FRef) (g : Fibre → Fibre) : (s.modFib r g).nextReply = s.nextReply := State.modWarp_nextReply ..
@[simp] theorem State.modFib_seqs (s : State) (r : FRef) (g : Fibre → Fibre) : (s.modFib r g).seqs = s.seqs := State.modWarp_seqs ..
@[simp] theorem State.modFib_devq (s : State) (r : FRef) (g : Fibre → Fibre) : (s.modFib r g).devq = s.devq := State.modWarp_devq ..
@[simp] theorem State.modFib_h (s : State) (r : FRef) (g : Fibre → Fibre) : (s.modFib r g).h = s.h := State.modWarp_h ..
@[simp] theorem State.modFib_epoch (s : State) (r : FRef) (g : Fibre → Fibre) : (s.modFib r g).epoch = s.epoch := State.modWarp_epoch ..
@[simp] theorem State.modFib_bmax (s : State) (r : FRef) (g : Fibre → Fibre) : (s.modFib r g).bmax = s.bmax := State.modWarp_bmax ..
@[simp] theorem State.modFib_stepReq (s : State) (r : FRef) (g : Fibre → Fibre) : (s.modFib r g).stepReq = s.stepReq := State.modWarp_stepReq ..
@[simp] theorem State.modFib_swept (s : State) (r : FRef) (g : Fibre → Fibre) : (s.modFib r g).swept = s.swept := State.modWarp_swept ..
@[simp] theorem State.modFib_recalls (s : State) (r : FRef) (g : Fibre → Fibre) : (s.modFib r g).recalls = s.recalls := State.modWarp_recalls ..
@[simp] theorem State.modFib_cbars (s : State) (r : FRef) (g : Fibre → Fibre) : (s.modFib r g).cbars = s.cbars := State.modWarp_cbars ..
@[simp] theorem State.modFib_dbars (s : State) (r : FRef) (g : Fibre → Fibre) : (s.modFib r g).dbars = s.dbars := State.modWarp_dbars ..
@[simp] theorem State.modFib_remreds (s : State) (r : FRef) (g : Fibre → Fibre) : (s.modFib r g).remreds = s.remreds := State.modWarp_remreds ..
@[simp] theorem State.modFib_nextRem (s : State) (r : FRef) (g : Fibre → Fibre) : (s.modFib r g).nextRem = s.nextRem := State.modWarp_nextRem ..
@[simp] theorem State.modFib_notices (s : State) (r : FRef) (g : Fibre → Fibre) : (s.modFib r g).notices = s.notices := State.modWarp_notices ..
@[simp] theorem State.modFib_nextNotice (s : State) (r : FRef) (g : Fibre → Fibre) : (s.modFib r g).nextNotice = s.nextNotice := State.modWarp_nextNotice ..
@[simp] theorem State.modFib_sends (s : State) (r : FRef) (g : Fibre → Fibre) : (s.modFib r g).sends = s.sends := State.modWarp_sends ..
@[simp] theorem State.modFib_nextSend (s : State) (r : FRef) (g : Fibre → Fibre) : (s.modFib r g).nextSend = s.nextSend := State.modWarp_nextSend ..
@[simp] theorem State.modFib_vis (s : State) (r : FRef) (g : Fibre → Fibre) : (s.modFib r g).vis = s.vis := State.modWarp_vis ..
@[simp] theorem State.modFib_tasks (s : State) (r : FRef) (g : Fibre → Fibre) : (s.modFib r g).tasks = s.tasks := State.modWarp_tasks ..
@[simp] theorem State.modFib_nextTask (s : State) (r : FRef) (g : Fibre → Fibre) : (s.modFib r g).nextTask = s.nextTask := State.modWarp_nextTask ..
@[simp] theorem State.modFib_overflow (s : State) (r : FRef) (g : Fibre → Fibre) : (s.modFib r g).overflow = s.overflow := State.modWarp_overflow ..
@[simp] theorem State.modFib_doomed (s : State) (r : FRef) (g : Fibre → Fibre) : (s.modFib r g).doomed = s.doomed := State.modWarp_doomed ..
@[simp] theorem State.modFib_unreachable (s : State) (r : FRef) (g : Fibre → Fibre) : (s.modFib r g).unreachable = s.unreachable := State.modWarp_unreachable ..
@[simp] theorem State.modFib_serviceSlots (s : State) (r : FRef) (g : Fibre → Fibre) : (s.modFib r g).serviceSlots = s.serviceSlots := State.modWarp_serviceSlots ..
@[simp] theorem State.modFib_purges (s : State) (r : FRef) (g : Fibre → Fibre) : (s.modFib r g).purges = s.purges := State.modWarp_purges ..
@[simp] theorem State.modFib_servedN (s : State) (r : FRef) (g : Fibre → Fibre) : (s.modFib r g).servedN = s.servedN := State.modWarp_servedN ..
@[simp] theorem State.modFib_bypass (s : State) (r : FRef) (g : Fibre → Fibre) : (s.modFib r g).bypass = s.bypass := State.modWarp_bypass ..
@[simp] theorem State.modFib_nextOrder (s : State) (r : FRef) (g : Fibre → Fibre) : (s.modFib r g).nextOrder = s.nextOrder := State.modWarp_nextOrder ..
@[simp] theorem State.modFib_bridge (s : State) (r : FRef) (g : Fibre → Fibre) : (s.modFib r g).bridge = s.bridge := State.modWarp_bridge ..
@[simp] theorem State.modFib_fabric (s : State) (r : FRef) (g : Fibre → Fibre) : (s.modFib r g).fabric = s.fabric := State.modWarp_fabric ..
@[simp] theorem State.modFib_boot (s : State) (r : FRef) (g : Fibre → Fibre) : (s.modFib r g).boot = s.boot := State.modWarp_boot ..
@[simp] theorem State.modFib_reports (s : State) (r : FRef) (g : Fibre → Fibre) : (s.modFib r g).reports = s.reports := State.modWarp_reports ..
@[simp] theorem State.modFib_stopped (s : State) (r : FRef) (g : Fibre → Fibre) : (s.modFib r g).stopped = s.stopped := State.modWarp_stopped ..
@[simp] theorem State.modFib_throttle (s : State) (r : FRef) (g : Fibre → Fibre) : (s.modFib r g).throttle = s.throttle := State.modWarp_throttle ..
@[simp] theorem State.modFib_cur (s : State) (r : FRef) (g : Fibre → Fibre) : (s.modFib r g).cur = s.cur := State.modWarp_cur ..
@[simp] theorem State.modFib_arg (s : State) (r : FRef) (g : Fibre → Fibre) : (s.modFib r g).arg = s.arg := State.modWarp_arg ..
@[simp] theorem State.modFib_agenda (s : State) (r : FRef) (g : Fibre → Fibre) : (s.modFib r g).agenda = s.agenda := State.modWarp_agenda ..
@[simp] theorem State.modFib_turn (s : State) (r : FRef) (g : Fibre → Fibre) : (s.modFib r g).turn = s.turn := State.modWarp_turn ..
@[simp] theorem State.modFib_now (s : State) (r : FRef) (g : Fibre → Fibre) : (s.modFib r g).now = s.now := State.modWarp_now ..
@[simp] theorem State.modFib_free (s : State) (r : FRef) (g : Fibre → Fibre) : (s.modFib r g).free = s.free := State.modWarp_free ..

end Sys2Proof.Machine
end

