-- ==== Sys2Proof/Laws/Parts.lean ====
section
/-!
SUPPORT. Where an update of a block, a warp or a fibre lands, and what it leaves as it is.
-/

namespace Sys2Proof.Machine

/-! Blocks -/

@[simp] theorem State.modBlock_none {s : State} {b : Nat} (h : s.blocks.find b = none) (g : Block → Block) :
    s.modBlock b g = s := by
  simp [State.modBlock, h]

theorem State.block_modBlock (s : State) (b n : Nat) (g : Block → Block) :
    (s.modBlock b g).block n = if n = b ∧ (s.blocks.find b).isSome then g (s.block n) else s.block n := by
  simp only [State.modBlock]
  cases h : s.blocks.find b with
  | none => simp
  | some x =>
    simp only [State.block, State.setBlock, Map.get_set, Option.isSome_some, and_true]
    by_cases hn : n = b
    · subst hn; simp [Map.get_eq_find, h]
    · simp [hn]

theorem State.find_modBlock (s : State) (b n : Nat) (g : Block → Block) :
    ((s.modBlock b g).blocks.find n).isSome = (s.blocks.find n).isSome := by
  simp only [State.modBlock]
  cases h : s.blocks.find b with
  | none => rfl
  | some x =>
    by_cases hn : n = b
    · subst hn; simp [State.setBlock, h]
    · simp [State.setBlock, Map.find_set_ne _ hn]

theorem State.modBlock_modBlock (s : State) (b : Nat) (g h : Block → Block) :
    (s.modBlock b g).modBlock b h = s.modBlock b (fun x => h (g x)) := by
  simp only [State.modBlock]
  cases hx : s.blocks.find b with
  | none => simp [hx]
  | some x => simp [State.setBlock]

/-! Warps -/

theorem State.block_modWarp (s : State) (b w n : Nat) (g : Warp → Warp) :
    (s.modWarp b w g).block n = if n = b ∧ (s.blocks.find b).isSome then
      { s.block n with warps := (s.block n).warps.modify w g } else s.block n := State.block_modBlock ..

@[simp] theorem State.block_modWarp_st (s : State) (b w : Nat) (g : Warp → Warp) (n : Nat) :
    ((s.modWarp b w g).block n).st = (s.block n).st := by
  rw [State.block_modWarp]; split <;> rfl
@[simp] theorem State.block_modWarp_service (s : State) (b w : Nat) (g : Warp → Warp) (n : Nat) :
    ((s.modWarp b w g).block n).service = (s.block n).service := by
  rw [State.block_modWarp]; split <;> rfl
@[simp] theorem State.block_modWarp_task (s : State) (b w : Nat) (g : Warp → Warp) (n : Nat) :
    ((s.modWarp b w g).block n).task = (s.block n).task := by
  rw [State.block_modWarp]; split <;> rfl
@[simp] theorem State.block_modWarp_ix (s : State) (b w : Nat) (g : Warp → Warp) (n : Nat) :
    ((s.modWarp b w g).block n).ix = (s.block n).ix := by
  rw [State.block_modWarp]; split <;> rfl
@[simp] theorem State.block_modWarp_iy (s : State) (b w : Nat) (g : Warp → Warp) (n : Nat) :
    ((s.modWarp b w g).block n).iy = (s.block n).iy := by
  rw [State.block_modWarp]; split <;> rfl
@[simp] theorem State.block_modWarp_iz (s : State) (b w : Nat) (g : Warp → Warp) (n : Nat) :
    ((s.modWarp b w g).block n).iz = (s.block n).iz := by
  rw [State.block_modWarp]; split <;> rfl
@[simp] theorem State.block_modWarp_gx (s : State) (b w : Nat) (g : Warp → Warp) (n : Nat) :
    ((s.modWarp b w g).block n).gx = (s.block n).gx := by
  rw [State.block_modWarp]; split <;> rfl
@[simp] theorem State.block_modWarp_gy (s : State) (b w : Nat) (g : Warp → Warp) (n : Nat) :
    ((s.modWarp b w g).block n).gy = (s.block n).gy := by
  rw [State.block_modWarp]; split <;> rfl
@[simp] theorem State.block_modWarp_gz (s : State) (b w : Nat) (g : Warp → Warp) (n : Nat) :
    ((s.modWarp b w g).block n).gz = (s.block n).gz := by
  rw [State.block_modWarp]; split <;> rfl
@[simp] theorem State.block_modWarp_rank (s : State) (b w : Nat) (g : Warp → Warp) (n : Nat) :
    ((s.modWarp b w g).block n).rank = (s.block n).rank := by
  rw [State.block_modWarp]; split <;> rfl
@[simp] theorem State.block_modWarp_csize (s : State) (b w : Nat) (g : Warp → Warp) (n : Nat) :
    ((s.modWarp b w g).block n).csize = (s.block n).csize := by
  rw [State.block_modWarp]; split <;> rfl
@[simp] theorem State.block_modWarp_coop (s : State) (b w : Nat) (g : Warp → Warp) (n : Nat) :
    ((s.modWarp b w g).block n).coop = (s.block n).coop := by
  rw [State.block_modWarp]; split <;> rfl
@[simp] theorem State.block_modWarp_vi (s : State) (b w : Nat) (g : Warp → Warp) (n : Nat) :
    ((s.modWarp b w g).block n).vi = (s.block n).vi := by
  rw [State.block_modWarp]; split <;> rfl
@[simp] theorem State.block_modWarp_tag (s : State) (b w : Nat) (g : Warp → Warp) (n : Nat) :
    ((s.modWarp b w g).block n).tag = (s.block n).tag := by
  rw [State.block_modWarp]; split <;> rfl
@[simp] theorem State.block_modWarp_ns (s : State) (b w : Nat) (g : Warp → Warp) (n : Nat) :
    ((s.modWarp b w g).block n).ns = (s.block n).ns := by
  rw [State.block_modWarp]; split <;> rfl
@[simp] theorem State.block_modWarp_core (s : State) (b w : Nat) (g : Warp → Warp) (n : Nat) :
    ((s.modWarp b w g).block n).core = (s.block n).core := by
  rw [State.block_modWarp]; split <;> rfl
@[simp] theorem State.block_modWarp_width (s : State) (b w : Nat) (g : Warp → Warp) (n : Nat) :
    ((s.modWarp b w g).block n).width = (s.block n).width := by
  rw [State.block_modWarp]; split <;> rfl
@[simp] theorem State.block_modWarp_budgets (s : State) (b w : Nat) (g : Warp → Warp) (n : Nat) :
    ((s.modWarp b w g).block n).budgets = (s.block n).budgets := by
  rw [State.block_modWarp]; split <;> rfl
@[simp] theorem State.block_modWarp_entries (s : State) (b w : Nat) (g : Warp → Warp) (n : Nat) :
    ((s.modWarp b w g).block n).entries = (s.block n).entries := by
  rw [State.block_modWarp]; split <;> rfl
@[simp] theorem State.block_modWarp_ras (s : State) (b w : Nat) (g : Warp → Warp) (n : Nat) :
    ((s.modWarp b w g).block n).ras = (s.block n).ras := by
  rw [State.block_modWarp]; split <;> rfl
@[simp] theorem State.block_modWarp_shared (s : State) (b w : Nat) (g : Warp → Warp) (n : Nat) :
    ((s.modWarp b w g).block n).shared = (s.block n).shared := by
  rw [State.block_modWarp]; split <;> rfl
@[simp] theorem State.block_modWarp_trapEntry (s : State) (b w : Nat) (g : Warp → Warp) (n : Nat) :
    ((s.modWarp b w g).block n).trapEntry = (s.block n).trapEntry := by
  rw [State.block_modWarp]; split <;> rfl
@[simp] theorem State.block_modWarp_rbase (s : State) (b w : Nat) (g : Warp → Warp) (n : Nat) :
    ((s.modWarp b w g).block n).rbase = (s.block n).rbase := by
  rw [State.block_modWarp]; split <;> rfl
@[simp] theorem State.block_modWarp_sbase (s : State) (b w : Nat) (g : Warp → Warp) (n : Nat) :
    ((s.modWarp b w g).block n).sbase = (s.block n).sbase := by
  rw [State.block_modWarp]; split <;> rfl
@[simp] theorem State.block_modWarp_sspan (s : State) (b w : Nat) (g : Warp → Warp) (n : Nat) :
    ((s.modWarp b w g).block n).sspan = (s.block n).sspan := by
  rw [State.block_modWarp]; split <;> rfl
@[simp] theorem State.block_modWarp_accN (s : State) (b w : Nat) (g : Warp → Warp) (n : Nat) :
    ((s.modWarp b w g).block n).accN = (s.block n).accN := by
  rw [State.block_modWarp]; split <;> rfl
@[simp] theorem State.block_modWarp_banks (s : State) (b w : Nat) (g : Warp → Warp) (n : Nat) :
    ((s.modWarp b w g).block n).banks = (s.block n).banks := by
  rw [State.block_modWarp]; split <;> rfl
@[simp] theorem State.block_modWarp_ranges (s : State) (b w : Nat) (g : Warp → Warp) (n : Nat) :
    ((s.modWarp b w g).block n).ranges = (s.block n).ranges := by
  rw [State.block_modWarp]; split <;> rfl
@[simp] theorem State.block_modWarp_bars (s : State) (b w : Nat) (g : Warp → Warp) (n : Nat) :
    ((s.modWarp b w g).block n).bars = (s.block n).bars := by
  rw [State.block_modWarp]; split <;> rfl
@[simp] theorem State.block_modWarp_vec0H (s : State) (b w : Nat) (g : Warp → Warp) (n : Nat) :
    ((s.modWarp b w g).block n).vec0H = (s.block n).vec0H := by
  rw [State.block_modWarp]; split <;> rfl
@[simp] theorem State.block_modWarp_declH (s : State) (b w : Nat) (g : Warp → Warp) (n : Nat) :
    ((s.modWarp b w g).block n).declH = (s.block n).declH := by
  rw [State.block_modWarp]; split <;> rfl
@[simp] theorem State.block_modWarp_vec0 (s : State) (b w : Nat) (g : Warp → Warp) (n : Nat) :
    ((s.modWarp b w g).block n).vec0 = (s.block n).vec0 := by
  rw [State.block_modWarp]; split <;> rfl
@[simp] theorem State.block_modWarp_restores (s : State) (b w : Nat) (g : Warp → Warp) (n : Nat) :
    ((s.modWarp b w g).block n).restores = (s.block n).restores := by
  rw [State.block_modWarp]; split <;> rfl
@[simp] theorem State.block_modWarp_saveSlot (s : State) (b w : Nat) (g : Warp → Warp) (n : Nat) :
    ((s.modWarp b w g).block n).saveSlot = (s.block n).saveSlot := by
  rw [State.block_modWarp]; split <;> rfl
@[simp] theorem State.block_modWarp_reason (s : State) (b w : Nat) (g : Warp → Warp) (n : Nat) :
    ((s.modWarp b w g).block n).reason = (s.block n).reason := by
  rw [State.block_modWarp]; split <;> rfl
@[simp] theorem State.block_modWarp_start (s : State) (b w : Nat) (g : Warp → Warp) (n : Nat) :
    ((s.modWarp b w g).block n).start = (s.block n).start := by
  rw [State.block_modWarp]; split <;> rfl
@[simp] theorem State.block_modWarp_epoch (s : State) (b w : Nat) (g : Warp → Warp) (n : Nat) :
    ((s.modWarp b w g).block n).epoch = (s.block n).epoch := by
  rw [State.block_modWarp]; split <;> rfl
@[simp] theorem State.block_modWarp_stopping (s : State) (b w : Nat) (g : Warp → Warp) (n : Nat) :
    ((s.modWarp b w g).block n).stopping = (s.block n).stopping := by
  rw [State.block_modWarp]; split <;> rfl
@[simp] theorem State.block_modWarp_ending (s : State) (b w : Nat) (g : Warp → Warp) (n : Nat) :
    ((s.modWarp b w g).block n).ending = (s.block n).ending := by
  rw [State.block_modWarp]; split <;> rfl
@[simp] theorem State.block_modWarp_failed (s : State) (b w : Nat) (g : Warp → Warp) (n : Nat) :
    ((s.modWarp b w g).block n).failed = (s.block n).failed := by
  rw [State.block_modWarp]; split <;> rfl
@[simp] theorem State.block_modWarp_order (s : State) (b w : Nat) (g : Warp → Warp) (n : Nat) :
    ((s.modWarp b w g).block n).order = (s.block n).order := by
  rw [State.block_modWarp]; split <;> rfl
@[simp] theorem State.block_modWarp_landing (s : State) (b w : Nat) (g : Warp → Warp) (n : Nat) :
    ((s.modWarp b w g).block n).landing = (s.block n).landing := by
  rw [State.block_modWarp]; split <;> rfl

@[simp] theorem State.block_modFib_st (s : State) (r : FRef) (g : Fibre → Fibre) (b : Nat) :
    ((s.modFib r g).block b).st = (s.block b).st := State.block_modWarp_st ..
@[simp] theorem State.block_modFib_service (s : State) (r : FRef) (g : Fibre → Fibre) (b : Nat) :
    ((s.modFib r g).block b).service = (s.block b).service := State.block_modWarp_service ..
@[simp] theorem State.block_modFib_task (s : State) (r : FRef) (g : Fibre → Fibre) (b : Nat) :
    ((s.modFib r g).block b).task = (s.block b).task := State.block_modWarp_task ..
@[simp] theorem State.block_modFib_ix (s : State) (r : FRef) (g : Fibre → Fibre) (b : Nat) :
    ((s.modFib r g).block b).ix = (s.block b).ix := State.block_modWarp_ix ..
@[simp] theorem State.block_modFib_iy (s : State) (r : FRef) (g : Fibre → Fibre) (b : Nat) :
    ((s.modFib r g).block b).iy = (s.block b).iy := State.block_modWarp_iy ..
@[simp] theorem State.block_modFib_iz (s : State) (r : FRef) (g : Fibre → Fibre) (b : Nat) :
    ((s.modFib r g).block b).iz = (s.block b).iz := State.block_modWarp_iz ..
@[simp] theorem State.block_modFib_gx (s : State) (r : FRef) (g : Fibre → Fibre) (b : Nat) :
    ((s.modFib r g).block b).gx = (s.block b).gx := State.block_modWarp_gx ..
@[simp] theorem State.block_modFib_gy (s : State) (r : FRef) (g : Fibre → Fibre) (b : Nat) :
    ((s.modFib r g).block b).gy = (s.block b).gy := State.block_modWarp_gy ..
@[simp] theorem State.block_modFib_gz (s : State) (r : FRef) (g : Fibre → Fibre) (b : Nat) :
    ((s.modFib r g).block b).gz = (s.block b).gz := State.block_modWarp_gz ..
@[simp] theorem State.block_modFib_rank (s : State) (r : FRef) (g : Fibre → Fibre) (b : Nat) :
    ((s.modFib r g).block b).rank = (s.block b).rank := State.block_modWarp_rank ..
@[simp] theorem State.block_modFib_csize (s : State) (r : FRef) (g : Fibre → Fibre) (b : Nat) :
    ((s.modFib r g).block b).csize = (s.block b).csize := State.block_modWarp_csize ..
@[simp] theorem State.block_modFib_coop (s : State) (r : FRef) (g : Fibre → Fibre) (b : Nat) :
    ((s.modFib r g).block b).coop = (s.block b).coop := State.block_modWarp_coop ..
@[simp] theorem State.block_modFib_vi (s : State) (r : FRef) (g : Fibre → Fibre) (b : Nat) :
    ((s.modFib r g).block b).vi = (s.block b).vi := State.block_modWarp_vi ..
@[simp] theorem State.block_modFib_tag (s : State) (r : FRef) (g : Fibre → Fibre) (b : Nat) :
    ((s.modFib r g).block b).tag = (s.block b).tag := State.block_modWarp_tag ..
@[simp] theorem State.block_modFib_ns (s : State) (r : FRef) (g : Fibre → Fibre) (b : Nat) :
    ((s.modFib r g).block b).ns = (s.block b).ns := State.block_modWarp_ns ..
@[simp] theorem State.block_modFib_core (s : State) (r : FRef) (g : Fibre → Fibre) (b : Nat) :
    ((s.modFib r g).block b).core = (s.block b).core := State.block_modWarp_core ..
@[simp] theorem State.block_modFib_width (s : State) (r : FRef) (g : Fibre → Fibre) (b : Nat) :
    ((s.modFib r g).block b).width = (s.block b).width := State.block_modWarp_width ..
@[simp] theorem State.block_modFib_budgets (s : State) (r : FRef) (g : Fibre → Fibre) (b : Nat) :
    ((s.modFib r g).block b).budgets = (s.block b).budgets := State.block_modWarp_budgets ..
@[simp] theorem State.block_modFib_entries (s : State) (r : FRef) (g : Fibre → Fibre) (b : Nat) :
    ((s.modFib r g).block b).entries = (s.block b).entries := State.block_modWarp_entries ..
@[simp] theorem State.block_modFib_ras (s : State) (r : FRef) (g : Fibre → Fibre) (b : Nat) :
    ((s.modFib r g).block b).ras = (s.block b).ras := State.block_modWarp_ras ..
@[simp] theorem State.block_modFib_shared (s : State) (r : FRef) (g : Fibre → Fibre) (b : Nat) :
    ((s.modFib r g).block b).shared = (s.block b).shared := State.block_modWarp_shared ..
@[simp] theorem State.block_modFib_trapEntry (s : State) (r : FRef) (g : Fibre → Fibre) (b : Nat) :
    ((s.modFib r g).block b).trapEntry = (s.block b).trapEntry := State.block_modWarp_trapEntry ..
@[simp] theorem State.block_modFib_rbase (s : State) (r : FRef) (g : Fibre → Fibre) (b : Nat) :
    ((s.modFib r g).block b).rbase = (s.block b).rbase := State.block_modWarp_rbase ..
@[simp] theorem State.block_modFib_sbase (s : State) (r : FRef) (g : Fibre → Fibre) (b : Nat) :
    ((s.modFib r g).block b).sbase = (s.block b).sbase := State.block_modWarp_sbase ..
@[simp] theorem State.block_modFib_sspan (s : State) (r : FRef) (g : Fibre → Fibre) (b : Nat) :
    ((s.modFib r g).block b).sspan = (s.block b).sspan := State.block_modWarp_sspan ..
@[simp] theorem State.block_modFib_accN (s : State) (r : FRef) (g : Fibre → Fibre) (b : Nat) :
    ((s.modFib r g).block b).accN = (s.block b).accN := State.block_modWarp_accN ..
@[simp] theorem State.block_modFib_banks (s : State) (r : FRef) (g : Fibre → Fibre) (b : Nat) :
    ((s.modFib r g).block b).banks = (s.block b).banks := State.block_modWarp_banks ..
@[simp] theorem State.block_modFib_ranges (s : State) (r : FRef) (g : Fibre → Fibre) (b : Nat) :
    ((s.modFib r g).block b).ranges = (s.block b).ranges := State.block_modWarp_ranges ..
@[simp] theorem State.block_modFib_bars (s : State) (r : FRef) (g : Fibre → Fibre) (b : Nat) :
    ((s.modFib r g).block b).bars = (s.block b).bars := State.block_modWarp_bars ..
@[simp] theorem State.block_modFib_vec0H (s : State) (r : FRef) (g : Fibre → Fibre) (b : Nat) :
    ((s.modFib r g).block b).vec0H = (s.block b).vec0H := State.block_modWarp_vec0H ..
@[simp] theorem State.block_modFib_declH (s : State) (r : FRef) (g : Fibre → Fibre) (b : Nat) :
    ((s.modFib r g).block b).declH = (s.block b).declH := State.block_modWarp_declH ..
@[simp] theorem State.block_modFib_vec0 (s : State) (r : FRef) (g : Fibre → Fibre) (b : Nat) :
    ((s.modFib r g).block b).vec0 = (s.block b).vec0 := State.block_modWarp_vec0 ..
@[simp] theorem State.block_modFib_restores (s : State) (r : FRef) (g : Fibre → Fibre) (b : Nat) :
    ((s.modFib r g).block b).restores = (s.block b).restores := State.block_modWarp_restores ..
@[simp] theorem State.block_modFib_saveSlot (s : State) (r : FRef) (g : Fibre → Fibre) (b : Nat) :
    ((s.modFib r g).block b).saveSlot = (s.block b).saveSlot := State.block_modWarp_saveSlot ..
@[simp] theorem State.block_modFib_reason (s : State) (r : FRef) (g : Fibre → Fibre) (b : Nat) :
    ((s.modFib r g).block b).reason = (s.block b).reason := State.block_modWarp_reason ..
@[simp] theorem State.block_modFib_start (s : State) (r : FRef) (g : Fibre → Fibre) (b : Nat) :
    ((s.modFib r g).block b).start = (s.block b).start := State.block_modWarp_start ..
@[simp] theorem State.block_modFib_epoch (s : State) (r : FRef) (g : Fibre → Fibre) (b : Nat) :
    ((s.modFib r g).block b).epoch = (s.block b).epoch := State.block_modWarp_epoch ..
@[simp] theorem State.block_modFib_stopping (s : State) (r : FRef) (g : Fibre → Fibre) (b : Nat) :
    ((s.modFib r g).block b).stopping = (s.block b).stopping := State.block_modWarp_stopping ..
@[simp] theorem State.block_modFib_ending (s : State) (r : FRef) (g : Fibre → Fibre) (b : Nat) :
    ((s.modFib r g).block b).ending = (s.block b).ending := State.block_modWarp_ending ..
@[simp] theorem State.block_modFib_failed (s : State) (r : FRef) (g : Fibre → Fibre) (b : Nat) :
    ((s.modFib r g).block b).failed = (s.block b).failed := State.block_modWarp_failed ..
@[simp] theorem State.block_modFib_order (s : State) (r : FRef) (g : Fibre → Fibre) (b : Nat) :
    ((s.modFib r g).block b).order = (s.block b).order := State.block_modWarp_order ..
@[simp] theorem State.block_modFib_landing (s : State) (r : FRef) (g : Fibre → Fibre) (b : Nat) :
    ((s.modFib r g).block b).landing = (s.block b).landing := State.block_modWarp_landing ..


theorem getD_of_le {α : Type} {l : List α} {i : Nat} (h : l.length ≤ i) (d : α) : l.getD i d = d := by
  rw [List.getD_eq_getElem?_getD, List.getElem?_eq_none h]; rfl

theorem getD_modify {α : Type} (l : List α) (i j : Nat) (g : α → α) (d : α) :
    (l.modify i g).getD j d = if j = i ∧ j < l.length then g (l.getD j d) else l.getD j d := by
  simp only [List.getD_eq_getElem?_getD, List.getElem?_modify]
  by_cases h : i = j
  · subst h
    by_cases hl : i < l.length
    · simp [hl]
    · simp [hl]
  · simp [h, Ne.symm h]

theorem State.warp_modWarp (s : State) (b w n m : Nat) (g : Warp → Warp) :
    (s.modWarp b w g).warp n m = if n = b ∧ m = w ∧ s.hasWarp b w then g (s.warp n m) else s.warp n m := by
  simp only [State.warp, State.block_modWarp, State.hasWarp]
  by_cases hb : n = b
  · subst hb
    by_cases hf : (s.blocks.find n).isSome = true
    rotate_left
    · simp [hf]
    · simp only [hf]; simp only [and_self, if_true, getD_modify, Bool.true_and, decide_eq_true_eq, true_and]
      by_cases hm : m = w
      · subst hm; simp
      · simp [hm]
  · simp [hb]

theorem State.hasWarp_modWarp (s : State) (b w n m : Nat) (g : Warp → Warp) :
    (s.modWarp b w g).hasWarp n m = s.hasWarp n m := by
  simp only [State.hasWarp, State.modWarp, State.find_modBlock, State.block_modBlock]
  split <;> simp

/-! Fibres -/

theorem State.warp_modFib (s : State) (r : FRef) (g : Fibre → Fibre) (n m : Nat) :
    (s.modFib r g).warp n m = if n = r.blk ∧ m = r.warp ∧ s.hasWarp r.blk r.warp then
      { s.warp n m with fibs := (s.warp n m).fibs.modify r.fib g } else s.warp n m := State.warp_modWarp ..

@[simp] theorem State.warp_modFib_slot (s : State) (r : FRef) (g : Fibre → Fibre) (b w : Nat) :
    ((s.modFib r g).warp b w).slot = (s.warp b w).slot := by
  rw [State.warp_modFib]; split <;> rfl
@[simp] theorem State.warp_modFib_active (s : State) (r : FRef) (g : Fibre → Fibre) (b w : Nat) :
    ((s.modFib r g).warp b w).active = (s.warp b w).active := by
  rw [State.warp_modFib]; split <;> rfl
@[simp] theorem State.warp_modFib_lastActive (s : State) (r : FRef) (g : Fibre → Fibre) (b w : Nat) :
    ((s.modFib r g).warp b w).lastActive = (s.warp b w).lastActive := by
  rw [State.warp_modFib]; split <;> rfl
@[simp] theorem State.warp_modFib_fbs (s : State) (r : FRef) (g : Fibre → Fibre) (b w : Nat) :
    ((s.modFib r g).warp b w).fbs = (s.warp b w).fbs := by
  rw [State.warp_modFib]; split <;> rfl
@[simp] theorem State.warp_modFib_side (s : State) (r : FRef) (g : Fibre → Fibre) (b w : Nat) :
    ((s.modFib r g).warp b w).side = (s.warp b w).side := by
  rw [State.warp_modFib]; split <;> rfl
@[simp] theorem State.warp_modFib_pend (s : State) (r : FRef) (g : Fibre → Fibre) (b w : Nat) :
    ((s.modFib r g).warp b w).pend = (s.warp b w).pend := by
  rw [State.warp_modFib]; split <;> rfl
@[simp] theorem State.warp_modFib_nextPend (s : State) (r : FRef) (g : Fibre → Fibre) (b w : Nat) :
    ((s.modFib r g).warp b w).nextPend = (s.warp b w).nextPend := by
  rw [State.warp_modFib]; split <;> rfl
@[simp] theorem State.warp_modFib_yieldUntil (s : State) (r : FRef) (g : Fibre → Fibre) (b w : Nat) :
    ((s.modFib r g).warp b w).yieldUntil = (s.warp b w).yieldUntil := by
  rw [State.warp_modFib]; split <;> rfl
@[simp] theorem State.warp_modFib_retired (s : State) (r : FRef) (g : Fibre → Fibre) (b w : Nat) :
    ((s.modFib r g).warp b w).retired = (s.warp b w).retired := by
  rw [State.warp_modFib]; split <;> rfl

theorem State.fib_modFib (s : State) (r q : FRef) (g : Fibre → Fibre) :
    (s.modFib r g).fib q = if q = r ∧ s.hasFib r then g (s.fib q) else s.fib q := by
  obtain ⟨qb, qw, qf⟩ := q
  obtain ⟨rb, rw', rf⟩ := r
  simp only [State.fib, State.warp_modFib, State.hasFib, FRef.mk.injEq]
  by_cases h : qb = rb ∧ qw = rw' ∧ s.hasWarp rb rw' = true
  · obtain ⟨rfl, rfl, h⟩ := h
    simp only [h, and_self, if_true, getD_modify, true_and, Bool.true_and, decide_eq_true_eq]
    by_cases hq : qf = rf
    · subst hq; simp
    · simp [hq]
  · rw [if_neg h, if_neg]
    intro hc
    simp only [Bool.and_eq_true] at hc
    exact h ⟨hc.1.1, hc.1.2.1, hc.2.1⟩

theorem State.fib_modFib_self {s : State} {r : FRef} (h : s.hasFib r = true) (g : Fibre → Fibre) :
    (s.modFib r g).fib r = g (s.fib r) := by simp [State.fib_modFib, h]

theorem State.fib_modFib_ne (s : State) {r q : FRef} (h : q ≠ r) (g : Fibre → Fibre) :
    (s.modFib r g).fib q = s.fib q := by simp [State.fib_modFib, h]

@[simp] theorem State.hasFib_modFib (s : State) (r q : FRef) (g : Fibre → Fibre) :
    (s.modFib r g).hasFib q = s.hasFib q := by
  have hw : (s.modFib r g).hasWarp q.blk q.warp = s.hasWarp q.blk q.warp := State.hasWarp_modWarp ..
  simp only [State.hasFib, hw, State.warp_modFib]
  split <;> simp

theorem State.modFib_modFib (s : State) (r : FRef) (g h : Fibre → Fibre) :
    (s.modFib r g).modFib r h = s.modFib r (fun f => h (g f)) := by
  simp only [State.modFib, State.modWarp, State.modBlock_modBlock]
  congr 1
  funext x
  simp only [List.modify_modify_eq]
  congr 2
  funext w
  simp only [Function.comp, List.modify_modify_eq]
  rfl

/-- Only what a change makes of the fibre as it is counts. -/
theorem State.modFib_congr (s : State) (r : FRef) {g h : Fibre → Fibre} (e : g (s.fib r) = h (s.fib r)) :
    s.modFib r g = s.modFib r h := by
  simp only [State.modFib, State.modWarp, State.modBlock]
  cases hb : s.blocks.find r.blk with
  | none => rfl
  | some b =>
    have hbl : s.block r.blk = b := by simp [State.block, Map.get_eq_find, hb]
    simp only [State.fib, State.warp, hbl] at e
    show s.setBlock r.blk _ = s.setBlock r.blk _
    refine congrArg (s.setBlock r.blk) (congrArg (fun l => { b with warps := l }) ?_)
    apply List.ext_getElem?
    intro i
    simp only [List.getElem?_modify]
    by_cases hi : r.warp = i
    · subst hi
      simp only [List.getD_eq_getElem?_getD] at e
      cases hw : b.warps[r.warp]? with
      | none => rfl
      | some w =>
        simp only [hw, Option.getD_some] at e
        simp only [if_true]
        refine congrArg some (congrArg (fun l => { w with fibs := l }) ?_)
        apply List.ext_getElem?
        intro j
        simp only [List.getElem?_modify]
        by_cases hj : r.fib = j
        · subst hj
          cases hf : w.fibs[r.fib]? with
          | none => rfl
          | some q => simp only [hf, Option.getD_some] at e; simp [e]
        · simp [hj]
    · simp [hi]

/-- A fibre that is not the default one is there. -/
theorem State.hasFib_of_active {s : State} {r : FRef} (h : ((s.fib r).st == .active) = true) : s.hasFib r = true := by
  refine Classical.byContradiction fun hc => ?_
  have hd : s.fib r = {} := by
    simp only [State.hasFib, State.hasWarp, Bool.and_eq_true, decide_eq_true_eq] at hc
    simp only [State.fib, State.warp] at *
    cases hf : s.blocks.find r.blk with
    | none =>
      have : s.block r.blk = {} := by simp [State.block, Map.get_eq_find, hf]
      rw [this]; rfl
    | some x =>
      simp only [hf, Option.isSome_some, true_and] at hc
      by_cases hw : r.warp < (s.block r.blk).warps.length
      · have : ¬ r.fib < ((s.block r.blk).warps.getD r.warp {}).fibs.length := fun hx => hc ⟨hw, hx⟩
        exact getD_of_le (Nat.le_of_not_lt this) _
      · rw [getD_of_le (Nat.le_of_not_lt hw)]; rfl
  rw [hd] at h
  exact absurd h (by decide)

end Sys2Proof.Machine
end

