-- ==== Sys2Proof/Laws/Regs.lean ====
section
/-!
SUPPORT. Reading a register, a predicate or a flag after a list of changes (R15, R47, R225, R322).
-/

namespace Sys2Proof.Machine

/-! The layout of registers -/

@[simp] theorem State.regOff_modFib (s : State) (r : FRef) (g : Fibre → Fibre) (n w i l : Nat) :
    ((s.modFib r g).block n).regOff w i l = (s.block n).regOff w i l := by
  simp [Block.regOff, Block.warpBytes, Block.p, Block.trapRegs, Block.nf]

theorem Block.regOff_eq (b : Block) (w i l : Nat) :
    b.regOff w i l = b.rbase + w * b.warpBytes + 4 * (i * b.width + l) := by
  simp only [Block.regOff, Nat.mul_add, Nat.mul_left_comm i 4, Nat.add_assoc]

/-- Two registers of one warp take words apart. -/
theorem Block.regOff_apart (b : Block) (w : Nat) {i l j k : Nat} (hl : l < b.width) (hk : k < b.width)
    (h : ¬ (j = i ∧ k = l)) :
    b.regOff w i l + 4 ≤ b.regOff w j k ∨ b.regOff w j k + 4 ≤ b.regOff w i l := by
  have hne : i * b.width + l ≠ j * b.width + k := by
    intro he
    have h1 : (i * b.width + l) / b.width = i := by
      rw [Nat.add_comm, Nat.add_mul_div_right _ _ (by omega), Nat.div_eq_of_lt hl, Nat.zero_add]
    have h2 : (j * b.width + k) / b.width = j := by
      rw [Nat.add_comm, Nat.add_mul_div_right _ _ (by omega), Nat.div_eq_of_lt hk, Nat.zero_add]
    have : i = j := by rw [← h1, ← h2, he]
    subst this
    exact h ⟨rfl, by omega⟩
  rw [Block.regOff_eq, Block.regOff_eq]
  omega

@[simp] theorem State.fib_setReg (s : State) (r q : FRef) (i l : Nat) (v : Word) : (s.setReg r i l v).fib q = s.fib q := rfl
@[simp] theorem State.block_setReg (s : State) (r : FRef) (i l n : Nat) (v : Word) : (s.setReg r i l v).block n = s.block n := rfl
@[simp] theorem State.hasFib_setReg (s : State) (r q : FRef) (i l : Nat) (v : Word) : (s.setReg r i l v).hasFib q = s.hasFib q := rfl
@[simp] theorem State.core_modFib (s : State) (r : FRef) (g : Fibre → Fibre) (n : Nat) : (s.modFib r g).core n = s.core n := by
  simp [State.core]

@[simp] theorem State.core_setCore_self (s : State) (n : Nat) (x : Core) : (s.setCore n x).core n = x := by
  simp [State.core, State.setCore]

theorem State.core_setCore_ne (s : State) {n m : Nat} (h : m ≠ n) (x : Core) : (s.setCore n x).core m = s.core m := by
  simp [State.core, State.setCore, Map.get_set_ne _ h]

@[simp] theorem State.core_modCore_self (s : State) (n : Nat) (g : Core → Core) : (s.modCore n g).core n = g (s.core n) :=
  State.core_setCore_self ..

theorem State.core_modCore_ne (s : State) {n m : Nat} (h : m ≠ n) (g : Core → Core) : (s.modCore n g).core m = s.core m :=
  State.core_setCore_ne s h _

/-- A write of a register is read back; the warp's other registers stay. -/
theorem State.reg_setReg (s : State) (r : FRef) {i l j k : Nat} (v : Word) (hl : l < (s.block r.blk).width)
    (hk : k < (s.block r.blk).width) :
    (s.setReg r i l v).reg r j k = if i = j ∧ l = k then v else s.reg r j k := by
  simp only [State.reg, State.block_setReg]
  simp only [State.setReg, State.core_modCore_self]
  split
  · next h => rw [h.1, h.2, Memory.word_writeWord]
  · next h => exact Memory.word_writeWord_ne _ v (Block.regOff_apart _ _ hk hl h)

@[simp] theorem State.reg_modFib (s : State) (r q : FRef) (g : Fibre → Fibre) (i l : Nat) :
    (s.modFib r g).reg q i l = s.reg q i l := by
  simp [State.reg]

/-! Lists of changes -/

/-- The changes of a list fall on lanes of the warp. -/
def effsOk (width lanes : Nat) (es : List Eff) : Prop :=
  ∀ e ∈ es, match e with
    | .vreg _ l _ => l < width
    | .vpoison _ _ => False
    | .pred _ l _ => l < lanes
    | _ => True

theorem effsOk_nil (w n : Nat) : effsOk w n [] := by simp [effsOk]

theorem effsOk_tail {w n : Nat} {e : Eff} {es : List Eff} (h : effsOk w n (e :: es)) : effsOk w n es :=
  fun x hx => h x (List.mem_cons_of_mem _ hx)

theorem effsOk_append {w n : Nat} {a b : List Eff} (ha : effsOk w n a) (hb : effsOk w n b) : effsOk w n (a ++ b) := by
  intro e he
  rcases List.mem_append.1 he with h | h
  · exact ha e h
  · exact hb e h

theorem State.applyEffs_nil (s : State) (r : FRef) : s.applyEffs r [] = s := rfl
theorem State.applyEffs_cons (s : State) (r : FRef) (e : Eff) (es : List Eff) :
    s.applyEffs r (e :: es) = (s.applyEff r e).applyEffs r es := rfl

@[simp] theorem State.regOff_applyEff (s : State) (r : FRef) (e : Eff) (n w i l : Nat) :
    ((s.applyEff r e).block n).regOff w i l = (s.block n).regOff w i l := by
  cases e <;> simp only [State.applyEff] <;> first | rfl | (split <;> simp) | simp
@[simp] theorem State.width_applyEff (s : State) (r : FRef) (e : Eff) (n : Nat) :
    ((s.applyEff r e).block n).width = (s.block n).width := by
  cases e <;> simp only [State.applyEff] <;> first | rfl | (split <;> simp) | simp
@[simp] theorem State.bcore_applyEff (s : State) (r : FRef) (e : Eff) (n : Nat) :
    ((s.applyEff r e).block n).core = (s.block n).core := by
  cases e <;> simp only [State.applyEff] <;> first | rfl | (split <;> simp) | simp
@[simp] theorem State.hasFib_applyEff (s : State) (r q : FRef) (e : Eff) : (s.applyEff r e).hasFib q = s.hasFib q := by
  cases e <;> simp only [State.applyEff] <;> first | rfl | (split <;> simp) | simp

@[simp] theorem State.regOff_applyEffs (s : State) (r : FRef) (es : List Eff) (n w i l : Nat) :
    ((s.applyEffs r es).block n).regOff w i l = (s.block n).regOff w i l := by
  induction es generalizing s with
  | nil => rfl
  | cons e es ih => simp [State.applyEffs_cons, ih]
@[simp] theorem State.width_applyEffs (s : State) (r : FRef) (es : List Eff) (n : Nat) :
    ((s.applyEffs r es).block n).width = (s.block n).width := by
  induction es generalizing s with
  | nil => rfl
  | cons e es ih => simp [State.applyEffs_cons, ih]
@[simp] theorem State.bcore_applyEffs (s : State) (r : FRef) (es : List Eff) (n : Nat) :
    ((s.applyEffs r es).block n).core = (s.block n).core := by
  induction es generalizing s with
  | nil => rfl
  | cons e es ih => simp [State.applyEffs_cons, ih]
@[simp] theorem State.hasFib_applyEffs (s : State) (r q : FRef) (es : List Eff) : (s.applyEffs r es).hasFib q = s.hasFib q := by
  induction es generalizing s with
  | nil => rfl
  | cons e es ih => simp [State.applyEffs_cons, ih]

/-- What one change does to a fibre, beside the store. -/
def Fibre.effect (f : Fibre) (e : Eff) : Fibre :=
  match e with
  | .pred p l b => if p = 15 then f else f.modLane l (fun x => { x with preds := setBit x.preds p b })
  | .ureg n v => { f with s := f.s.set n v }
  | .upred n b => if n = 15 then f else { f with q := setBit f.q n b }
  | .flags m => { f with fpcs := f.fpcs ||| m.setWidth 32 }
  | _ => f

theorem State.fib_applyEff {s : State} {r : FRef} (h : s.hasFib r = true) (e : Eff) :
    (s.applyEff r e).fib r = (s.fib r).effect e := by
  cases e <;> simp only [State.applyEff, Fibre.effect] <;>
    first | rfl | (split <;> simp [State.fib_modFib_self h]) | simp [State.fib_modFib_self h]

theorem State.fib_applyEffs {s : State} {r : FRef} (h : s.hasFib r = true) (es : List Eff) :
    (s.applyEffs r es).fib r = es.foldl Fibre.effect (s.fib r) := by
  induction es generalizing s with
  | nil => rfl
  | cons e es ih =>
    rw [State.applyEffs_cons, ih (by simpa using h), State.fib_applyEff h]; rfl

/-- Registers after a list of changes. -/
theorem State.reg_applyEffs (s : State) (r : FRef) (es : List Eff) {n : Nat} (ok : effsOk (s.block r.blk).width n es)
    {i l : Nat} (hl : l < (s.block r.blk).width) :
    (s.applyEffs r es).reg r i l = vregAfter es i l (s.reg r i l) := by
  induction es generalizing s with
  | nil => rfl
  | cons e es ih =>
    rw [State.applyEffs_cons, ih (s.applyEff r e) (by simpa using effsOk_tail ok) (by simpa using hl)]
    have h1 : (s.applyEff r e).reg r i l = vregAfter [e] i l (s.reg r i l) := by
      have he := ok e (List.mem_cons_self ..)
      cases e with
      | vreg j k v => simp only [State.applyEff, vregAfter, List.foldl]; exact s.reg_setReg r v he hl
      | vpoison j k => exact he.elim
      | pred p k b => simp only [State.applyEff, vregAfter, List.foldl]; split <;> simp
      | ureg m v => simp [State.applyEff, vregAfter]
      | upred m b => simp only [State.applyEff, vregAfter, List.foldl]; split <;> simp
      | flags m => simp [State.applyEff, vregAfter]
    rw [h1]; rfl

/-- Bytes of the unified stores after a list of changes: those of no register written stay. -/
theorem State.store_applyEffs (s : State) (r : FRef) (es : List Eff) {w k : Nat} (ok : effsOk w k es) {n a : Nat}
    (h : n = (s.block r.blk).core → ∀ o, writesAt (s.block r.blk) r.warp es o = true → a < o ∨ o + 4 ≤ a) :
    ((s.applyEffs r es).core n).uni.read a = (s.core n).uni.read a := by
  induction es generalizing s with
  | nil => rfl
  | cons e es ih =>
    rw [State.applyEffs_cons, ih (s.applyEff r e) (effsOk_tail ok)]
    · have he := ok e (List.mem_cons_self ..)
      cases e with
      | vreg j l v =>
        simp only [State.applyEff, State.setReg]
        by_cases hn : n = (s.block r.blk).core
        · rw [hn, State.core_modCore_self]
          exact Memory.read_writeWord_ne _ v (h hn _ (by simp [writesAt]))
        · rw [State.core_modCore_ne _ hn]
      | vpoison j l => exact he.elim
      | pred p l b => simp only [State.applyEff]; split <;> simp
      | ureg m v => simp [State.applyEff]
      | upred m b => simp only [State.applyEff]; split <;> simp
      | flags m => simp [State.applyEff]
    · intro hn o ho
      refine h (by simpa using hn) o ?_
      simp only [writesAt, State.regOff_applyEff, List.any_cons, Bool.or_eq_true] at *
      exact Or.inr ho

theorem contains_setDel (l : List Nat) (k m : Nat) : (setDel l k).contains m = (l.contains m && !(k == m)) := by
  rw [Bool.eq_iff_iff]
  simp only [setDel, List.contains_iff_mem, List.mem_filter, Bool.and_eq_true, Bool.not_eq_true', beq_eq_false_iff_ne, decide_eq_true_eq, ne_eq]
  exact and_congr_right fun _ => ⟨fun h e => h e.symm, fun h e => h e.symm⟩

/-- Poison marks after a list of changes: a register written loses its mark. -/
theorem State.mark_applyEffs (s : State) (r : FRef) (es : List Eff) {w k : Nat} (ok : effsOk w k es) (n m : Nat) :
    ((s.applyEffs r es).core n).uniPoison.contains m = ((s.core n).uniPoison.contains m &&
      !(decide (n = (s.block r.blk).core) && marksAt (s.block r.blk) r.warp es m)) := by
  induction es generalizing s with
  | nil => simp [State.applyEffs_nil, marksAt]
  | cons e es ih =>
    rw [State.applyEffs_cons, ih (s.applyEff r e) (effsOk_tail ok)]
    have hm : marksAt ((s.applyEff r e).block r.blk) r.warp es m = marksAt (s.block r.blk) r.warp es m := by
      simp [marksAt]
    rw [hm, State.bcore_applyEff]
    have he := ok e (List.mem_cons_self ..)
    cases e with
    | vreg j l v =>
      simp only [State.applyEff, State.setReg]
      by_cases hn : n = (s.block r.blk).core
      · rw [hn, State.core_modCore_self]
        simp only [contains_setDel, marksAt, List.any_cons, decide_true, Bool.true_and, Bool.not_or, Bool.and_assoc]
      · rw [State.core_modCore_ne _ hn]; simp [hn]
    | vpoison j l => exact he.elim
    | pred p l b => simp only [State.applyEff]; split <;> simp [marksAt]
    | ureg m v => simp [State.applyEff, marksAt]
    | upred m b => simp only [State.applyEff]; split <;> simp [marksAt]
    | flags m => simp [State.applyEff, marksAt]

/-! A fibre after a list of changes -/

theorem getLsbD_setBit {w : Nat} (x : BitVec w) (i j : Nat) (b : Bool) (hj : j < w) :
    (setBit x i b).getLsbD j = if i = j then b else x.getLsbD j := by
  have h1 : ((BitVec.ofNat w 1) <<< i).getLsbD j = decide (i = j) := by
    rw [BitVec.getLsbD_shiftLeft, BitVec.getLsbD_ofNat]
    by_cases h : i = j
    · subst h; simp [hj]; omega
    · by_cases h2 : j < i
      · simp [h, h2]
      · have : Nat.testBit 1 (j - i) = false := by
          rw [show j - i = (j - i - 1) + 1 by omega, Nat.testBit_succ]; simp
        simp [h, this]
  simp only [setBit]
  cases b <;> simp only [if_true, Bool.false_eq_true, if_false, BitVec.getLsbD_or, BitVec.getLsbD_and, BitVec.getLsbD_not, h1, hj] <;>
    by_cases h : i = j <;> simp [h]

theorem Fibre.lane_modLane (f : Fibre) (l k : Nat) (g : Lane → Lane) :
    (f.modLane l g).lane k = if k = l ∧ k < f.lanes.length then g (f.lane k) else f.lane k := getD_modify ..

@[simp] theorem Fibre.length_effect (f : Fibre) (e : Eff) : (f.effect e).lanes.length = f.lanes.length := by
  cases e <;> simp only [Fibre.effect] <;> (try split) <;> simp [Fibre.modLane]

theorem Fibre.pred_effects (f : Fibre) (es : List Eff) {w : Nat} (ok : effsOk w f.lanes.length es) (l p : Nat) (hp : p < 15) :
    ((es.foldl Fibre.effect f).lane l).pred p = predAfter es p l ((f.lane l).pred p) := by
  induction es generalizing f with
  | nil => rfl
  | cons e es ih =>
    rw [List.foldl_cons, ih (f.effect e) (by simpa using effsOk_tail ok)]
    have h1 : ((f.effect e).lane l).pred p = predAfter [e] p l ((f.lane l).pred p) := by
      have he := ok e (List.mem_cons_self ..)
      cases e with
      | pred q k b =>
        simp only [Fibre.effect, predAfter, List.foldl]
        by_cases hq : q = 15
        · simp [hq, show 15 ≠ p by omega]
        · rw [if_neg hq, Fibre.lane_modLane]
          by_cases hk : l = k
          · subst hk
            have he : l < f.lanes.length := he
            simp only [he, and_self, if_true, Lane.pred, getLsbD_setBit _ _ _ _ hp, show p ≠ 15 by omega, decide_false, Bool.false_or, and_true]
          · simp [hk, Ne.symm hk]
      | upred m b => simp only [Fibre.effect, predAfter, List.foldl]; split <;> rfl
      | _ => rfl
    rw [h1]; rfl

theorem Fibre.ureg_effects (f : Fibre) (es : List Eff) (n : Nat) :
    (es.foldl Fibre.effect f).ureg n = uregAfter es n (f.ureg n) := by
  induction es generalizing f with
  | nil => rfl
  | cons e es ih =>
    rw [List.foldl_cons, ih (f.effect e)]
    have h1 : (f.effect e).ureg n = uregAfter [e] n (f.ureg n) := by
      cases e with
      | ureg m v => simp only [Fibre.effect, uregAfter, List.foldl, Fibre.ureg, Map.get_set, eq_comm]
      | pred q k b => simp only [Fibre.effect, uregAfter, List.foldl]; split <;> rfl
      | upred m b => simp only [Fibre.effect, uregAfter, List.foldl]; split <;> rfl
      | _ => rfl
    rw [h1]; rfl

theorem Fibre.upred_effects (f : Fibre) (es : List Eff) (n : Nat) (hn : n < 15) :
    (es.foldl Fibre.effect f).upred n = upredAfter es n (f.upred n) := by
  induction es generalizing f with
  | nil => rfl
  | cons e es ih =>
    rw [List.foldl_cons, ih (f.effect e)]
    have h1 : (f.effect e).upred n = upredAfter [e] n (f.upred n) := by
      cases e with
      | upred m b =>
        simp only [Fibre.effect, upredAfter, List.foldl, Fibre.upred]
        by_cases hm : m = 15
        · simp [hm, show 15 ≠ n by omega]
        · simp only [hm, if_false, getLsbD_setBit _ _ _ _ hn, show n ≠ 15 by omega, decide_false, Bool.false_or]
      | pred q k b => simp only [Fibre.effect, upredAfter, List.foldl]; split <;> rfl
      | _ => rfl
    rw [h1]; rfl

/-- The flags one change sets. -/
def effFlag (e : Eff) : FFlags := match e with | .flags x => x | _ => 0

theorem effFlags_eq (es : List Eff) : effFlags es = es.foldl (fun m e => m ||| effFlag e) 0 := by
  unfold effFlags
  congr 1
  funext m e
  cases e <;> simp [effFlag]

theorem effFlags_from (m : FFlags) (es : List Eff) :
    es.foldl (fun m e => m ||| effFlag e) m = m ||| es.foldl (fun m e => m ||| effFlag e) 0 := by
  induction es generalizing m with
  | nil => simp
  | cons e es ih => rw [List.foldl_cons, List.foldl_cons, ih, ih (0 ||| effFlag e)]; simp [BitVec.or_assoc]

theorem effFlags_cons (e : Eff) (es : List Eff) : effFlags (e :: es) = effFlag e ||| effFlags es := by
  rw [effFlags_eq, effFlags_eq, List.foldl_cons, effFlags_from]; simp

theorem Fibre.fpcs_effects (f : Fibre) (es : List Eff) :
    (es.foldl Fibre.effect f).fpcs = f.fpcs ||| (effFlags es).setWidth 32 := by
  induction es generalizing f with
  | nil => simp [effFlags]
  | cons e es ih =>
    rw [List.foldl_cons, ih, effFlags_cons]
    cases e with
    | flags x => simp [Fibre.effect, effFlag, BitVec.setWidth_or, BitVec.or_assoc]
    | pred q k b => simp only [Fibre.effect]; split <;> simp [Fibre.modLane, effFlag]
    | upred m b => simp only [Fibre.effect]; split <;> simp [effFlag]
    | _ => simp [Fibre.effect, effFlag]

/-- What a list of changes leaves of a fibre: its lanes' PCs, and all that an instruction on registers may not change. -/
theorem Fibre.keep_effect (f : Fibre) (e : Eff) : (f.effect e).bare = f.bare ∧ (f.effect e).x = f.x ∧
    (∀ l, ((f.effect e).lane l).pc = (f.lane l).pc ∧ ((f.effect e).lane l).sr = (f.lane l).sr) := by
  cases e with
  | pred q k b =>
    simp only [Fibre.effect]
    split
    · simp
    · refine ⟨?_, rfl, fun l => ?_⟩
      · simp only [Fibre.bare, Fibre.modLane]
        congr 1
        apply List.ext_getElem?
        intro i
        simp only [List.getElem?_map, List.getElem?_modify]
        cases f.lanes[i]? <;> simp [Lane.bare]
        split <;> simp
      · rw [Fibre.lane_modLane]; split <;> simp
  | upred m b => simp only [Fibre.effect]; split <;> simp [Fibre.bare, Fibre.lane]
  | _ => simp [Fibre.effect, Fibre.bare, Fibre.lane]

theorem Fibre.keep_effects (f : Fibre) (es : List Eff) : (es.foldl Fibre.effect f).bare = f.bare ∧
    (es.foldl Fibre.effect f).x = f.x ∧
    (∀ l, ((es.foldl Fibre.effect f).lane l).pc = (f.lane l).pc ∧ ((es.foldl Fibre.effect f).lane l).sr = (f.lane l).sr) := by
  induction es generalizing f with
  | nil => simp
  | cons e es ih =>
    obtain ⟨h1, h2, h3⟩ := ih (f.effect e)
    obtain ⟨k1, k2, k3⟩ := f.keep_effect e
    exact ⟨h1.trans k1, h2.trans k2, fun l => ⟨(h3 l).1.trans (k3 l).1, (h3 l).2.trans (k3 l).2⟩⟩

/-! The rest of the state -/

theorem State.bare_modFib (s : State) (r : FRef) {g : Fibre → Fibre} (h : ∀ f, (g f).bare = f.bare) :
    (s.modFib r g).bare r = s.bare r := by
  have he : (s.modFib r g).modFib r Fibre.bare = s.modFib r Fibre.bare := by
    rw [State.modFib_modFib]; congr 1; funext f; exact h f
  simp only [State.bare, he, State.core_modFib, State.block_modFib_core, State.modFib_cores]

/-- The same where only the fibre as it is counts. -/
theorem State.bare_modFib_at (s : State) (r : FRef) {g : Fibre → Fibre} (h : (g (s.fib r)).bare = (s.fib r).bare) :
    (s.modFib r g).bare r = s.bare r := by
  have he : (s.modFib r g).modFib r Fibre.bare = s.modFib r Fibre.bare := by
    rw [State.modFib_modFib]; exact s.modFib_congr r h
  simp only [State.bare, he, State.core_modFib, State.block_modFib_core, State.modFib_cores]

theorem State.bare_setReg (s : State) (r : FRef) (i l : Nat) (v : Word) : (s.setReg r i l v).bare r = s.bare r := by
  have h1 : (s.setReg r i l v).modFib r Fibre.bare =
      { s.modFib r Fibre.bare with cores := (s.setReg r i l v).cores } := by
    simp only [State.modFib, State.modWarp, State.modBlock, State.setReg, State.modCore, State.setCore]
    split <;> rfl
  simp only [State.bare, h1, State.block_setReg]
  simp only [State.setReg, State.core_modCore_self]
  simp [State.modCore, State.setCore]

theorem State.bare_applyEff (s : State) (r : FRef) {e : Eff} (h : ∀ i l, e ≠ .vpoison i l) :
    (s.applyEff r e).bare r = s.bare r := by
  cases e with
  | vreg i l v => exact s.bare_setReg r i l v
  | vpoison i l => exact absurd rfl (h i l)
  | pred q k b =>
    simp only [State.applyEff]
    split
    · rfl
    · next hq =>
      refine s.bare_modFib r (fun f => ?_)
      have := (f.keep_effect (.pred q k b)).1
      simpa [Fibre.effect, hq] using this
  | ureg m v => exact s.bare_modFib r (fun f => rfl)
  | upred m b =>
    simp only [State.applyEff]
    split
    · rfl
    · exact s.bare_modFib r (fun f => rfl)
  | flags m => exact s.bare_modFib r (fun f => rfl)

theorem State.bare_applyEffs (s : State) (r : FRef) (es : List Eff) {w k : Nat} (ok : effsOk w k es) :
    (s.applyEffs r es).bare r = s.bare r := by
  induction es generalizing s with
  | nil => rfl
  | cons e es ih =>
    rw [State.applyEffs_cons, ih _ (effsOk_tail ok)]
    refine s.bare_applyEff r (fun i l he => ?_)
    have := ok e (List.mem_cons_self ..)
    rw [he] at this; exact this

end Sys2Proof.Machine
end

