-- ==== Sys2Proof/Laws/Issue.lean ====
section
/-!
SUPPORT. What an issue does once its checks are passed, and all that an instruction on registers leaves behind it
(R58, R61).
-/

namespace Sys2Proof.Machine

@[simp] theorem State.fib_useFree (s : State) (n : Nat) (r : FRef) : (s.useFree n).fib r = s.fib r := rfl
@[simp] theorem State.block_useFree (s : State) (n b : Nat) : (s.useFree n).block b = s.block b := rfl
@[simp] theorem State.core_useFree (s : State) (n k : Nat) : (s.useFree n).core k = s.core k := rfl
@[simp] theorem State.reg_useFree (s : State) (n : Nat) (r : FRef) (i l : Nat) : (s.useFree n).reg r i l = s.reg r i l := rfl
@[simp] theorem State.hasFib_useFree (s : State) (n : Nat) (r : FRef) : (s.useFree n).hasFib r = s.hasFib r := rfl
theorem State.modFib_useFree (s : State) (r : FRef) (g : Fibre → Fibre) (n : Nat) :
    (s.useFree n).modFib r g = (s.modFib r g).useFree n := by
  simp only [State.modFib, State.modWarp, State.modBlock, State.useFree]; split <;> rfl
theorem State.bare_useFree (s : State) (n : Nat) (r : FRef) : (s.useFree n).bare r = s.bare r := by
  simp only [State.bare, State.modFib_useFree, State.block_useFree, State.core_useFree]; rfl

/-- A lane at a PC. -/
def Lane.to (l : Lane) (pc : VA) : Lane := { l with pc := pc }
/-- A lane with its generator. -/
def Lane.gen (l : Lane) (v : Word) : Lane := { l with sr := v }
/-- A fibre that has issued once more. -/
def Fibre.counted (f : Fibre) : Fibre := { f with stall := none, quantum := if f.ra.isSome then f.quantum else f.quantum + 1 }
/-- A fibre with X written, if it is. -/
def Fibre.indexed (f : Fibre) (x : Option Word) : Fibre := match x with | some v => { f with x := v } | none => f
/-- A fibre after jumps. -/
def Fibre.jumped (f : Fibre) (ts : List (Nat × VA)) : Fibre := ts.foldl (fun x e => x.modLane e.1 (fun l => l.to e.2)) f
/-- A fibre after steps of generators. -/
def Fibre.stepped (f : Fibre) (ts : List (Nat × Word)) : Fibre := ts.foldl (fun x e => x.modLane e.1 (fun l => l.gen e.2)) f

/-- The state an instruction on registers leaves when no fault follows it. -/
def Ctx.plain (c : Ctx) (x : Res) (n : Nat) (es : List Eff) : State := (c.moved x n).applyEffs c.r es

namespace Ready
variable {o : Op} {f : Ins} {s : State} {c : Ctx}

theorem state (h : Ready o f s c) : c.s = s := by rw [h.ctx]; rfl
theorem op (h : Ready o f s c) : c.o = o := by rw [h.ctx]; rfl
theorem ins (h : Ready o f s c) : c.f = f := by rw [h.ctx]; rfl
theorem ref (h : Ready o f s c) : c.r = s.cur.ref := by rw [h.ctx]; rfl
theorem pcAt (h : Ready o f s c) : c.pc = s.cur.pc := by rw [h.ctx]; rfl
theorem lateAt (h : Ready o f s c) : c.late = s.cur.late := by rw [h.ctx]; rfl
theorem pathAt (h : Ready o f s c) : c.path = (s.fib s.cur.ref).path s.cur.pc := by
  rw [h.ctx]; simp [State.ctx, Fibre.issuePath, h.normal]
theorem actAt (h : Ready o f s c) : c.act = s.activeSet s.cur.ref o f c.path := by rw [h.ctx]; rfl

theorem hasFib (h : Ready o f s c) : c.s.hasFib c.r = true := by
  rw [h.state, h.ref]
  have := h.issue
  simp only [State.mayIssue, Bool.and_eq_true] at this
  exact State.hasFib_of_active this.1.1.1.1.1.1

/-- The checks passed, the instruction's own work is all that the issue does. -/
theorem issue_eq (h : Ready o f s c) (ra : Ctx → Episode → State) (k : Ctx → State) :
    issueWith o f s ra k = .next (k c) := by
  have hp : c.path = (s.fib s.cur.ref).issuePath s.cur.pc := by rw [h.ctx]; rfl
  have hact := h.active
  rw [h.actAt, hp] at hact
  have hg := h.guard
  rw [hp] at hg
  have hpriv : (o.cls = .s && !(s.block s.cur.ref.blk).service) = false := by
    by_cases hc : o.cls = .s
    · simp [hc, h.privilege hc]
    · simp [hc]
  have hroom : ¬ (s.warp s.cur.ref.blk s.cur.ref.warp).freeEntries < entriesNeeded o f := Nat.not_lt.2 h.room
  have hclear := h.clear
  rw [h.actAt, hp] at hclear
  have hc : ({ s := s, o := o, f := f, r := s.cur.ref, pc := s.cur.pc, late := s.cur.late, path := (s.fib s.cur.ref).issuePath s.cur.pc, act := s.activeSet s.cur.ref o f ((s.fib s.cur.ref).issuePath s.cur.pc), d := c.d, a := c.a, b := c.b, c := c.c } : Ctx) = c := h.ctx.symm
  unfold issueWith
  simp only [h.issue, h.legal, hpriv, hg, h.normal, hact, h.operands, hc, hclear, hroom, Bool.not_true, Bool.false_eq_true, if_false, Option.isNone_none, Option.isSome_none, Bool.false_and, Bool.and_false, decide_false, Bool.or_self]

theorem lane_path (h : Ready o f s c) {l : Nat} (hl : l ∈ c.lanes) : c.path.getLsbD l = true ∧ l < c.blk.width := by
  simp only [Ctx.lanes, mem_lanesOf, h.actAt, State.activeSet] at hl
  have hb : c.blk = s.block s.cur.ref.blk := by simp only [Ctx.blk, h.state, h.ref]
  have key : (c.path &&& (s.block s.cur.ref.blk).allLanes).getLsbD l = true → c.path.getLsbD l = true ∧ l < c.blk.width := by
    intro hk
    simp only [BitVec.getLsbD_and, Bool.and_eq_true, Block.allLanes, getLsbD_laneSet, decide_eq_true_eq, List.mem_range] at hk
    exact ⟨hk.1, by rw [hb]; exact hk.2.1⟩
  simp only [h.normal, Bool.not_false, Bool.and_true] at hl
  by_cases hu : clsUniform o.cls = true
  · rw [if_pos hu] at hl
    split at hl
    · exact key hl
    · simp at hl
  · rw [if_neg hu] at hl
    refine key ?_
    simp only [BitVec.getLsbD_and, Bool.and_eq_true] at hl ⊢
    exact hl.1.1

end Ready

theorem Fibre.path_lt {f : Fibre} {pc : VA} {l : Nat} (h : (f.path pc).getLsbD l = true) : l < f.lanes.length := by
  simp only [Fibre.path, Fibre.lanesWith, getLsbD_laneSet, Bool.and_eq_true, decide_eq_true_eq, List.mem_filter, List.mem_range] at h
  exact h.1.1

theorem Ready.lane_lt {o : Op} {f : Ins} {s : State} {c : Ctx} (h : Ready o f s c) {l : Nat} (hl : l ∈ c.lanes) :
    l < c.fib.lanes.length := by
  have := (h.lane_path hl).1
  rw [h.pathAt] at this
  have hf : c.fib = s.fib s.cur.ref := by simp only [Ctx.fib, h.state, h.ref]
  rw [hf]; exact Fibre.path_lt this

/-! Changes that fall on active lanes -/

theorem effsOk_destEffs {w n l : Nat} (d : Loc) (k v : Nat) (hl : l < w) : effsOk w n (destEffs d k l v) := by
  intro e he
  cases d <;> simp only [destEffs, vregEffs, uregEffs, List.mem_map, List.not_mem_nil] at he
  · obtain ⟨j, -, rfl⟩ := he; exact hl
  · obtain ⟨j, -, rfl⟩ := he; trivial

theorem effsOk_laneEffs {w n l : Nat} (d : Loc) (k : Nat) (x : LaneOut) (hl : l < w) (hn : l < n) :
    effsOk w n (laneEffs d k l x) := by
  refine effsOk_append (effsOk_append ?_ ?_) ?_
  · split
    · exact effsOk_destEffs d k _ hl
    · exact effsOk_nil w n
  · intro e he
    obtain ⟨p, -, rfl⟩ := List.mem_map.1 he
    exact hn
  · split
    · exact effsOk_nil w n
    · intro e he
      rw [List.mem_singleton] at he; subst he; trivial

theorem effsOk_flatMap {w n : Nat} {α : Type} (ls : List α) (g : α → List Eff) (h : ∀ l ∈ ls, effsOk w n (g l)) :
    effsOk w n (ls.flatMap g) := by
  intro e he
  obtain ⟨l, hl, hg⟩ := List.mem_flatMap.1 he
  exact h l hl e hg

/-! The retirement of an instruction on registers -/

theorem Fibre.lane_modLanes (f : Fibre) (ls : LaneSet) (g : Nat → Lane → Lane) (l : Nat) :
    (f.modLanes ls g).lane l = if ls.getLsbD l = true ∧ l < f.lanes.length then g l (f.lane l) else f.lane l := by
  simp only [Fibre.modLanes, Fibre.lane, List.getD_eq_getElem?_getD, List.getElem?_mapIdx]
  by_cases h : l < f.lanes.length
  · by_cases hs : ls.getLsbD l = true <;> simp [h, hs]
  · simp [h]

theorem Fibre.length_modLane (f : Fibre) (l : Nat) (g : Lane → Lane) : (f.modLane l g).lanes.length = f.lanes.length := by
  simp [Fibre.modLane]

theorem Fibre.lane_jumped (f : Fibre) (ts : List (Nat × VA)) (ok : ∀ e ∈ ts, e.1 < f.lanes.length) (l : Nat) :
    (f.jumped ts).lane l = (f.lane l).to ((ts.reverse.find? (fun e => e.1 = l)).elim (f.lane l).pc Prod.snd) := by
  induction ts generalizing f with
  | nil => rfl
  | cons e ts ih =>
    have h1 : f.jumped (e :: ts) = (f.modLane e.1 (fun l => l.to e.2)).jumped ts := rfl
    rw [h1, ih _ (fun x hx => by rw [Fibre.length_modLane]; exact ok x (List.mem_cons_of_mem _ hx)),
      List.reverse_cons, List.find?_append, Fibre.lane_modLane]
    have he := ok e (List.mem_cons_self ..)
    cases h : List.find? (fun e => decide (e.1 = l)) ts.reverse with
    | some y => split <;> rfl
    | none =>
      by_cases hl : l = e.1
      · subst hl; simp [he, Lane.to]
      · simp [hl, Ne.symm hl, Lane.to]

theorem Fibre.lane_stepped (f : Fibre) (ts : List (Nat × Word)) (ok : ∀ e ∈ ts, e.1 < f.lanes.length) (l : Nat) :
    (f.stepped ts).lane l = (f.lane l).gen ((ts.reverse.find? (fun e => e.1 = l)).elim (f.lane l).sr Prod.snd) := by
  induction ts generalizing f with
  | nil => rfl
  | cons e ts ih =>
    have h1 : f.stepped (e :: ts) = (f.modLane e.1 (fun l => l.gen e.2)).stepped ts := rfl
    rw [h1, ih _ (fun x hx => by rw [Fibre.length_modLane]; exact ok x (List.mem_cons_of_mem _ hx)),
      List.reverse_cons, List.find?_append, Fibre.lane_modLane]
    have he := ok e (List.mem_cons_self ..)
    cases h : List.find? (fun e => decide (e.1 = l)) ts.reverse with
    | some y => split <;> rfl
    | none =>
      by_cases hl : l = e.1
      · subst hl; simp [he, Lane.gen]
      · simp [hl, Ne.symm hl, Lane.gen]

/-- Two fibres that differ in their lanes' PCs and generators, and in what one issue counts. -/
structure Fibre.Near (f g : Fibre) : Prop where
  bare : g.bare = f.bare
  s : g.s = f.s
  q : g.q = f.q
  x : g.x = f.x
  fpcs : g.fpcs = f.fpcs

theorem Fibre.Near.trans {f g h : Fibre} (a : f.Near g) (b : g.Near h) : f.Near h :=
  ⟨b.bare.trans a.bare, b.s.trans a.s, b.q.trans a.q, b.x.trans a.x, b.fpcs.trans a.fpcs⟩

theorem Fibre.near_modLane (f : Fibre) (l : Nat) {g : Lane → Lane} (h : ∀ x, (g x).bare = x.bare) : f.Near (f.modLane l g) := by
  refine ⟨?_, rfl, rfl, rfl, rfl⟩
  have : (f.modLane l g).lanes.map Lane.bare = f.lanes.map Lane.bare := by
    apply List.ext_getElem?
    intro i
    simp only [Fibre.modLane, List.getElem?_map, List.getElem?_modify]
    cases f.lanes[i]? with
    | none => rfl
    | some x => by_cases hi : l = i <;> simp [hi, h]
  simp only [Fibre.bare, this]; rfl

theorem Fibre.near_modLanes (f : Fibre) (ls : LaneSet) {g : Nat → Lane → Lane} (h : ∀ i x, (g i x).bare = x.bare) :
    f.Near (f.modLanes ls g) := by
  refine ⟨?_, rfl, rfl, rfl, rfl⟩
  have : (f.modLanes ls g).lanes.map Lane.bare = f.lanes.map Lane.bare := by
    apply List.ext_getElem?
    intro i
    simp only [Fibre.modLanes, List.getElem?_map, List.getElem?_mapIdx]
    cases f.lanes[i]? with
    | none => rfl
    | some x => by_cases hi : ls.getLsbD i = true <;> simp [hi, h]
  simp only [Fibre.bare, this]; rfl

theorem Fibre.near_jumped (f : Fibre) (ts : List (Nat × VA)) : f.Near (f.jumped ts) := by
  induction ts generalizing f with
  | nil => exact ⟨rfl, rfl, rfl, rfl, rfl⟩
  | cons e ts ih => exact (f.near_modLane e.1 (g := fun l => l.to e.2) (fun _ => rfl)).trans (ih _)

theorem Fibre.near_stepped (f : Fibre) (ts : List (Nat × Word)) : f.Near (f.stepped ts) := by
  induction ts generalizing f with
  | nil => exact ⟨rfl, rfl, rfl, rfl, rfl⟩
  | cons e ts ih => exact (f.near_modLane e.1 (g := fun l => l.gen e.2) (fun _ => rfl)).trans (ih _)

theorem Fibre.near_counted (f : Fibre) : f.Near f.counted := ⟨rfl, rfl, rfl, rfl, rfl⟩

theorem Fibre.Near.length {f g : Fibre} (h : f.Near g) : g.lanes.length = f.lanes.length := by
  have := congrArg (fun f => f.lanes.length) h.bare
  simpa [Fibre.bare] using this

/-- The fibre after the advance of its path, its jumps and its generators. -/
def Ctx.fibMid (c : Ctx) (x : Res) : Fibre :=
  ((c.fib.modLanes c.path (fun _ l => l.to (c.pc + 12))).counted.jumped x.goto).stepped x.sr

theorem Ctx.near_fibMid (c : Ctx) (x : Res) : c.fib.Near (c.fibMid x) :=
  ((c.fib.near_modLanes c.path (g := fun _ l => l.to (c.pc + 12)) (fun _ _ => rfl)).trans (Fibre.near_counted _)).trans
    ((Fibre.near_jumped _ x.goto).trans (Fibre.near_stepped _ x.sr))

theorem Ctx.lane_fibMid (c : Ctx) (x : Res) (hp : ∀ l, c.path.getLsbD l = true → l < c.fib.lanes.length)
    (hgoto : ∀ e ∈ x.goto, e.1 < c.fib.lanes.length) (hsr : ∀ e ∈ x.sr, e.1 < c.fib.lanes.length) (l : Nat) :
    (c.fibMid x).lane l = ((c.fib.lane l).to
      ((x.goto.reverse.find? (fun e => e.1 = l)).elim (if c.path.getLsbD l then c.pc + 12 else (c.fib.lane l).pc) Prod.snd)).gen
      ((x.sr.reverse.find? (fun e => e.1 = l)).elim (c.fib.lane l).sr Prod.snd) := by
  have n1 := c.fib.near_modLanes c.path (g := fun _ l => l.to (c.pc + 12)) (fun _ _ => rfl)
  have n2 := n1.trans (Fibre.near_counted _)
  have n3 := n2.trans (Fibre.near_jumped _ x.goto)
  have hm : ((c.fib.modLanes c.path (fun _ l => l.to (c.pc + 12))).counted).lane l =
      (c.fib.lane l).to (if c.path.getLsbD l then c.pc + 12 else (c.fib.lane l).pc) := by
    refine Eq.trans (Fibre.lane_modLanes c.fib c.path (fun _ l => l.to (c.pc + 12)) l) ?_
    by_cases hl : c.path.getLsbD l = true
    · simp [hl, hp l hl]
    · simp [hl, Lane.to]
  rw [Ctx.fibMid, Fibre.lane_stepped _ _ (fun e he => by rw [n3.length]; exact hsr e he),
    Fibre.lane_jumped _ _ (fun e he => by rw [n2.length]; exact hgoto e he), hm]
  rfl

/-- The state an instruction on registers leaves, with its fibre's changes made at once. -/
theorem Ctx.plain_eq (c : Ctx) (x : Res) (n : Nat) (es : List Eff) :
    c.plain x n es = ((c.s.modFib c.r (fun _ => (c.fibMid x).indexed x.x)).useFree n).applyEffs c.r es := by
  unfold Ctx.plain Ctx.moved
  congr 1
  have h1 : ((c.retire c.s).useFree n).jump c.r x.goto = (c.s.modFib c.r (fun f =>
      ((f.modLanes c.path (fun _ l => l.to (c.pc + 12))).counted.jumped x.goto))).useFree n := by
    have : c.retire c.s = c.s.modFib c.r (fun f => (f.modLanes c.path (fun _ l => l.to (c.pc + 12))).counted) := rfl
    rw [this]
    have h2 : ∀ u : State, u.jump c.r x.goto = u.modFib c.r (fun f => f.jumped x.goto) := fun _ => rfl
    rw [h2, State.modFib_useFree, State.modFib_modFib]
  have h3 : ∀ u : State, u.stepSr c.r x.sr = u.modFib c.r (fun f => f.stepped x.sr) := fun _ => rfl
  simp only [h1, h3]
  cases hx : x.x with
  | none =>
    simp only [State.modFib_useFree, State.modFib_modFib]; exact congrArg (State.useFree · n) (c.s.modFib_congr c.r rfl)
  | some v =>
    simp only [State.modFib_useFree, State.modFib_modFib]; exact congrArg (State.useFree · n) (c.s.modFib_congr c.r rfl)

/-- All that an instruction on registers leaves where no fault follows it. -/
theorem Ctx.plain_after {c : Ctx} (h : c.s.hasFib c.r = true) (x : Res) (n : Nat)
    (hp : ∀ l, c.path.getLsbD l = true → l < c.fib.lanes.length)
    (ok : effsOk c.blk.width c.fib.lanes.length x.effs)
    (hgoto : ∀ e ∈ x.goto, e.1 < c.fib.lanes.length) (hsr : ∀ e ∈ x.sr, e.1 < c.fib.lanes.length) :
    After c x (c.plain x n x.effs) := by
  rw [c.plain_eq]
  have near := c.near_fibMid x
  have hlane := c.lane_fibMid x hp hgoto hsr
  generalize hm : c.fibMid x = m at *
  generalize hu : (c.s.modFib c.r (fun _ => m.indexed x.x)).useFree n = u at *
  have hi : (m.indexed x.x).lanes = m.lanes ∧ (m.indexed x.x).s = m.s ∧ (m.indexed x.x).q = m.q ∧ (m.indexed x.x).fpcs = m.fpcs ∧
      (m.indexed x.x).x = x.x.getD m.x ∧ (m.indexed x.x).bare = m.bare := by
    cases x.x <;> exact ⟨rfl, rfl, rfl, rfl, rfl, rfl⟩
  obtain ⟨i1, i2, i3, i4, i5, i6⟩ := hi
  have hf : u.fib c.r = m.indexed x.x := by rw [← hu]; exact State.fib_modFib_self h _
  have hh : u.hasFib c.r = true := by rw [← hu, State.hasFib_useFree, State.hasFib_modFib]; exact h
  have hw : (u.block c.r.blk).width = c.blk.width := by rw [← hu, State.block_useFree]; exact State.block_modFib_width ..
  have hc : (u.block c.r.blk).core = c.blk.core := by rw [← hu, State.block_useFree]; exact State.block_modFib_core ..
  have ho (w i l : Nat) : (u.block c.r.blk).regOff w i l = c.blk.regOff w i l := by
    rw [← hu, State.block_useFree]; exact State.regOff_modFib ..
  have hcore (k : Nat) : u.core k = c.s.core k := by rw [← hu, State.core_useFree]; exact State.core_modFib ..
  have hreg (i l : Nat) : u.reg c.r i l = c.s.reg c.r i l := by rw [← hu, State.reg_useFree]; exact State.reg_modFib ..
  have hbare : u.bare c.r = c.s.bare c.r := by
    rw [← hu, State.bare_useFree]
    exact c.s.bare_modFib_at c.r (i6.trans near.bare)
  have ok1 : effsOk (u.block c.r.blk).width c.fib.lanes.length x.effs := by rw [hw]; exact ok
  have ok2 : effsOk c.blk.width (m.indexed x.x).lanes.length x.effs := by rw [i1, near.length]; exact ok
  have hfib : (u.applyEffs c.r x.effs).fib c.r = x.effs.foldl Fibre.effect (m.indexed x.x) := by
    rw [State.fib_applyEffs hh, hf]
  obtain ⟨-, kx, kl⟩ := (m.indexed x.x).keep_effects x.effs
  have il (l : Nat) : (m.indexed x.x).lane l = m.lane l := by simp only [Fibre.lane, i1]
  exact
    { reg := fun i l hl => by rw [State.reg_applyEffs _ _ _ ok1 (by rw [hw]; exact hl), hreg]
      store := fun k a ha => by
        rw [State.store_applyEffs _ _ _ ok1, hcore]
        intro hk o hw'
        rw [hc] at hk
        refine ha hk o ?_
        simpa only [writesAt, ho] using hw'
      mark := fun k a => by
        rw [State.mark_applyEffs _ _ _ ok1, hcore, hc]
        simp only [marksAt, ho]
      pc := fun l => by rw [hfib, (kl l).1, il, hlane]; rfl
      pred := fun l p hp => by rw [hfib, Fibre.pred_effects _ _ ok2 l p hp, il, hlane]; rfl
      sr := fun l => by rw [hfib, (kl l).2, il, hlane]; rfl
      ureg := fun k => by rw [hfib, Fibre.ureg_effects]; simp only [Fibre.ureg, i2, near.s]
      upred := fun k hk => by rw [hfib, Fibre.upred_effects _ _ _ hk]; simp only [Fibre.upred, i3, near.q]
      flags := by rw [hfib, Fibre.fpcs_effects, i4, near.fpcs]
      index := by rw [hfib, kx, i5, near.x]
      rest := by rw [State.bare_applyEffs _ _ _ ok1, hbare] }

/-- Four bytes as one number. -/
theorem foldl_bytes4 (g : Nat → Nat) : (List.range 4).foldl (fun acc i => acc + g i * 2 ^ (8 * i)) 0 =
    g 0 + g 1 * 2 ^ 8 + g 2 * 2 ^ 16 + g 3 * 2 ^ 24 := by
  have : List.range 4 = [0, 1, 2, 3] := by decide
  rw [this, List.foldl_cons, List.foldl_cons, List.foldl_cons, List.foldl_cons, List.foldl_nil, Nat.zero_add, Nat.mul_zero,
    Nat.pow_zero, Nat.mul_one]

/-- The retirement without a fault: no poisoned source, no enabled flag set, and the result written now. -/
theorem Ctx.finish_plain {c : Ctx} {x : Res} (hfault : x.fault = none) (hp : c.poisoned = false) (hl : c.late = false)
    (hx : fpxSet c.fib.fpcs x.effs = 0) : c.finish x = c.plain x x.free x.effs := by
  simp [Ctx.finish, hfault, hp, hl, hx, Ctx.plain]

/-- An instruction on registers that passes its checks, meets no poison and sets no enabled flag answers the state with
its results. -/
theorem regOp_after {o : Op} {f : Ins} {s : State} {c : Ctx} (h : Ready o f s c) (k : Ctx → Res)
    (hfault : (k c).fault = none) (hp : c.poisoned = false) (hl : c.late = false)
    (hx : fpxSet c.fib.fpcs (k c).effs = 0) (ok : effsOk c.blk.width c.fib.lanes.length (k c).effs)
    (hgoto : ∀ e ∈ (k c).goto, e.1 < c.fib.lanes.length) (hsr : ∀ e ∈ (k c).sr, e.1 < c.fib.lanes.length) :
    ∃ t, regOp o f s k = .next t ∧ After c (k c) t := by
  refine ⟨_, h.issue_eq _ _, ?_⟩
  rw [Ctx.finish_plain hfault hp hl hx]
  refine Ctx.plain_after h.hasFib _ _ (fun l hl => ?_) ok hgoto hsr
  have hf : c.fib = s.fib s.cur.ref := by simp only [Ctx.fib, h.state, h.ref]
  rw [h.pathAt] at hl
  rw [hf]; exact Fibre.path_lt hl

/-- The same of a class L form: one computation in each active lane. -/
theorem laneOp_after {o : Op} {f : Ins} {s : State} {c : Ctx} (h : Ready o f s c) (g : LaneIn → LaneOut)
    (hp : c.poisoned = false) (hl : c.late = false) (hx : fpxSet c.fib.fpcs (c.laneRes g).effs = 0) :
    ∃ t, laneOp o f s g = .next t ∧ After c (c.laneRes g) t := by
  refine regOp_after h _ rfl hp hl hx ?_ (fun e he => by simp [Ctx.laneRes] at he) ?_
  · refine effsOk_flatMap _ _ (fun e he => ?_)
    obtain ⟨l, hl', rfl⟩ := List.mem_map.1 he
    exact effsOk_laneEffs _ _ _ (h.lane_path hl').2 (h.lane_lt hl')
  · intro e he
    simp only [Ctx.laneRes, List.mem_filterMap, List.mem_map, Option.map_eq_some_iff] at he
    obtain ⟨e', ⟨l, hl', rfl⟩, v, -, rfl⟩ := he
    exact h.lane_lt hl'

end Sys2Proof.Machine
end

