-- ==== Sys2Proof/Laws/Ready.lean ====
section
/-!
SUPPORT. The checks before an instruction's own work as one computation: where it gives a context, the instruction is
`Ready` with it. The witnesses of the statements rest on it.
-/

namespace Sys2Proof.Machine

/-- Does every check of `Ready` pass, with the operands resolved as in `c`? -/
def readyOk (o : Op) (f : Ins) (s : State) (c : Ctx) : Bool :=
  let w := s.warp s.cur.ref.blk s.cur.ref.warp
  s.mayIssue s.cur.ref s.cur.pc && decide (s.illegalBit (s.block s.cur.ref.blk).service o f = none) &&
    (!(o.cls == .s) || (s.block s.cur.ref.blk).service) && decide ((s.fib s.cur.ref).ra = none) &&
    !w.hazard s.cur.ref.fib [] [] (guardUse o f) c.path && decide (c.act ≠ 0) &&
    !w.hazard s.cur.ref.fib c.regsV c.regsU (predUse o f) (if clsUniform o.cls then BitVec.allOnes 64 else c.act) &&
    decide (entriesNeeded o f ≤ w.freeEntries)

/-- The context of the form at the fibre and PC of `cur`, where every check of `Ready` passes. -/
def readyCtx (o : Op) (f : Ins) (s : State) : Option Ctx :=
  match ctxLocs s s.cur.ref o f with
  | .error _ => none
  | .ok (d, a, b, x) => if readyOk o f s (s.ctx o f d a b x) then some (s.ctx o f d a b x) else none

theorem ready_of_readyCtx {o : Op} {f : Ins} {s : State} {c : Ctx} (h : readyCtx o f s = some c) : Ready o f s c := by
  unfold readyCtx at h
  cases hl : ctxLocs s s.cur.ref o f with
  | error n => simp [hl] at h
  | ok q =>
    obtain ⟨d, a, b, x⟩ := q
    simp only [hl] at h
    cases hc : readyOk o f s (s.ctx o f d a b x) with
    | false => simp [hc] at h
    | true =>
      simp only [hc, if_true, Option.some.injEq] at h
      subst h
      simp only [readyOk, Bool.and_eq_true, decide_eq_true_eq, Bool.or_eq_true, Bool.not_eq_true', beq_eq_false_iff_ne] at hc
      obtain ⟨⟨⟨⟨⟨⟨⟨h1, h2⟩, h3⟩, h4⟩, h5⟩, h6⟩, h7⟩, h8⟩ := hc
      exact ⟨rfl, h1, h2, fun h => h3.resolve_left (fun k => k h), h4, h5, h6, hl, h7, h8⟩

end Sys2Proof.Machine
end

