-- ==== Sys2Proof/Tests/Slice0.lean ====
section
/-!
SUPPORT. Tests: the checks of well-formedness refuse ill-formed terms, words written out from the spec's encodings decode, and
for every statement with hypotheses a witness meets them, clause by clause. `meets` is the test that an instruction is `Ready`
with a context of a property (`meets_ready`).
-/

namespace Sys2Proof.Tests

set_option Elab.async false

open Sys2Proof Sys2Proof.Machine Sys2Proof.Rules

/-! ## Helpers -/

/-- The instruction is `Ready` at the state, and its context has a property. -/
def meets (o : Op) (f : Ins) (s : State) (p : Ctx → Bool := fun _ => true) : Bool := (readyCtx o f s).any p

theorem meets_ready {o : Op} {f : Ins} {s : State} {p : Ctx → Bool} (h : meets o f s p = true) :
    ∃ c, Ready o f s c ∧ p c = true := by
  unfold meets at h
  cases hc : readyCtx o f s with
  | none => simp [hc] at h
  | some c => exact ⟨c, ready_of_readyCtx hc, by simpa [hc] using h⟩

/-- Did a computation succeed? -/
def good {ε α : Type} (x : Except ε α) : Bool := match x with | .ok _ => true | .error _ => false
/-- Its result, or a default. -/
def okD {ε α : Type} (x : Except ε α) (d : α) : α := match x with | .ok a => a | .error _ => d
/-- The next state, or the state after reset. -/
def after (x : Host.Outcome State Fault Refusal) : State := match x with | .next s => s | _ => State.reset

/-- A fibre of 16 lanes at 0x1000. -/
def tFib : Fibre :=
  { budget := 64, lanes := List.replicate 16 { pc := 0x1000 }, st := .active, lead := 0xFFFF, ptime := 0x80000000 }
/-- A block of one warp and two fibres on core 0. -/
def tBlk : Block :=
  { st := .resident, core := 0, width := 16, budgets := [64, 64], entries := [0x1000, 0x1000], ras := [0, 0], tag := 1
    sbase := 0x10000, sspan := 0x8000, accN := 2, banks := [0, 1]
    ranges := [{ vabase := 0x100000, gran := 1, iabase := 0x200000, r := true, w := true, x := true, a := true }]
    warps := [{ fibs := [tFib, { tFib with st := .ready }], active := some 0 }] }
/-- An entry of a chiplet's table for the page of the block's range. -/
def leafAs (a : Attr) : Leaf := { page := 0x20, pages := 1, frame := 0x100, attr := a, ns := true, bias := false }
/-- The page of the block's range with an attribute. -/
def tlbAs (s : State) (a : Attr) : State :=
  { s with chiplets := s.chiplets.set 6 { s.chiplet 6 with tlb := [leafAs a] }, owners := [] }
/-- A machine of one die and one chiplet that runs the block; one page is mapped. -/
def tState : State :=
  tlbAs { State.reset with
    blocks := [(0, tBlk)], nextBlk := 1
    boot := { step := 5, ready := true, dies := 1, chiplets := 1, slices := [(0, 1)], coreMask := [(0, BitVec.allOnes 33)]
              featacc := BitVec.allOnes 256 }
    cur := { ref := ⟨0, 0, 0⟩, pc := 0x1000 } } .leased
/-- The same as a block of Carafe on the service core. -/
def svc (s : State) : State := s.modBlock 0 (fun b => { b with service := true, core := 32 })
/-- The first fibre changed. -/
def fibre (s : State) (g : Fibre → Fibre) : State := s.modFib ⟨0, 0, 0⟩ g
/-- A lane register. -/
def v (n : Nat) : Operand := .v (BitVec.ofNat 9 n) false false false
/-- A uniform register. -/
def u (n : Nat) : Operand := .u (BitVec.ofNat 6 n) false false false
/-- A counter. -/
def ctr1 : Operand := .sp (.ctr 1)
/-- Uniform registers set. -/
def withU (s : State) (l : List (Nat × Nat)) : State :=
  fibre s (fun f => { f with s := l.foldl (fun m e => m.set e.1 (BitVec.ofNat 32 e.2)) f.s })
/-- Modifiers with a function, a scope and an order. -/
def mods (fn : Nat) (sc : Scope := .none) (od : Order := .none) (t : Ty := .none) : Ext := .mod (BitVec.ofNat 3 fn) sc od false .rne t
/-- Modifiers of an access. -/
def mems (t : Ty) (sc : Scope := .none) (od : Order := .none) (aop : Nat := 0) : Ext := .mem 0 sc od (BitVec.ofNat 4 aop) t

/-! ## Well-formed instructions -/

/-- `iadd.i32 v3, v1, v2`. -/
def goodAdd : Ins := { d := v 3, a := v 1, b := v 2, x := mods 0 .none .none .i32 }

theorem test_wf_good : (Instr.iadd goodAdd).wf = true := by decide +kernel
/-- A branch hint on an addition is illegal (R45). -/
theorem test_wf_hint : (Instr.iadd { goodAdd with hnt := { br := .likely } }).wf = false := by decide +kernel
/-- IADD has no destination but a register (R49). -/
theorem test_wf_d : (Instr.iadd { goodAdd with d := .sp (.bar 1) }).wf = false := by decide +kernel
/-- IADD takes no mask as its first source. -/
theorem test_wf_a : (Instr.iadd { goodAdd with a := .sp (.mask 1) }).wf = false := by decide +kernel
/-- IADD takes no predicate as its second source. -/
theorem test_wf_b : (Instr.iadd { goodAdd with b := .sp (.pred 1 false) }).wf = false := by decide +kernel
/-- IADD has no type f32, and no layout but its own. -/
theorem test_wf_x : (Instr.iadd { goodAdd with x := mods 0 .none .none .f32 }).wf = false ∧
    (Instr.iadd { goodAdd with x := .none }).wf = false := by decide +kernel
/-- A word whose opcode the table lists is no unassigned one. -/
theorem test_wf_unassigned : (Instr.unassignedOpcode 0).wf = false ∧ (Instr.unassignedOpcode 0x3FF).wf = true := by decide +kernel

/-! ## Words -/

/-- A word of three parts, as the spec's examples write it. -/
def word3 (p0 p1 p2 : Nat) : Nat := p2 * 2 ^ 64 + p1 * 2 ^ 32 + p0
/-- The word decodes to the form with these fields. -/
def isWord (w : Nat) (i : Instr) : Bool := match decodeWord w with | .ok j => decide (j = i) | .error _ => false

/-- `(!p2) iadd.i32 v300, v17, -5` (spec/02_instruction_word.md and spec/04_lane_integer.md). -/
theorem test_word_iadd : isWord (word3 0x2C004800 0xB0004401 0x00022FFF)
    (.iadd { grd := { neg := true, pred := 2 }, d := v 300, a := v 17, b := .imm 0xFFFB, x := mods 0 .none .none .i32 }) = true := by
  decide +kernel
/-- `icmpp.lt.or.i32 p1, p2, v4, 100, !p0` (spec/04_lane_integer.md). -/
theorem test_word_icmpp : isWord (word3 0x01003C26 0x40001300 0x49402006)
    (.icmpp { d := .sp (.pred 1 false), a := v 4, b := .imm 100, x := .icmp .lt .or 2 true 0 .i32 }) = true := by decide +kernel
/-- `cvt.f32.e5m2.sat v7, v3` (spec/05_lane_float.md). -/
theorem test_word_cvt : isWord (word3 0x07003C99 0x00000C00 0x9843C000)
    (.cvt { d := v 7, a := v 3, x := .conv .e5m2 true .rne .f32 }) = true := by decide +kernel
/-- `(p0) ldg.n16 v8, [s2:3 + v10, 2]` (spec/06_lane_memory.md). -/
theorem test_word_ldg : isWord (word3 0x08000100 0xA4000800 0x000AC000)
    (.ldg { grd := { pred := 0 }, d := v 8, a := u 2, b := v 10, x := .mem 0 .none .none 1 .n16 }) = true := by decide +kernel
/-- `(p1) bra.lk back`, 48 bytes back: an offset of −12 (spec/08_warp_fibre_instructions.md). -/
theorem test_word_bra : isWord (word3 0x00008540 0x40000000 0xBFFFEFFF)
    (.bra { grd := { pred := 1 }, hnt := { br := .likely }, b := .imm 0xFFF4, x := .immHi 0xFFFF }) = true := by decide +kernel
/-- `umovi s4, 7`, written out field by field. -/
theorem test_word_umovi : isWord (0x1C8 + 0xF * 2 ^ 10 + 0x10004 * 2 ^ 24 + 0x20007 * 2 ^ 60 + 0x20000 * 2 ^ 78)
    (.umovi { d := u 4, b := .imm 7, x := .immHi 0 }) = true := by decide +kernel
/-- `gath k1, s8:9, v6` (spec/11_core_engines.md). -/
theorem test_word_gath : isWord (word3 0x01003E01 0x64002320 0) (.gath { d := ctr1, a := u 8, b := v 6 }) = true := by decide +kernel
/-- `mma.col64 k2, v2, s32:39` (spec/12_matrix_engine.md). -/
theorem test_word_mma : isWord (word3 0x02003E09 0x00000B20 0x40001002)
    (.mma { d := .sp (.ctr 2), a := v 2, b := u 32, x := .mma 1 0 }) = true := by decide +kernel
/-- `bara.c s10, bar5, 0` (spec/13_core_scheduling.md). -/
theorem test_word_bara : isWord (word3 0x0A003E60 0x0D001500 0x0C002000)
    (.bara { d := u 10, a := .sp (.bar 5), b := .imm 0, x := mods 0 .c }) = true := by decide +kernel
/-- `redr.add.f32.rel.c` from v9 at s5 + v2 (spec/14_cluster.md). -/
theorem test_word_redr : isWord (word3 0x09003E82 0x24001400 0x0D83C000)
    (.redr { d := v 9, a := u 5, b := v 2, x := mems .f32 .c .rel }) = true := by decide +kernel
/-- `waita.b32.d s10, [s2:3], 0` (spec/15_die.md). -/
theorem test_word_waita : isWord (word3 0x0A003EA3 0x04000900 0x1000E000)
    (.waita { d := u 10, a := u 2, b := .imm 0, x := mods 0 .d .none .b32 }) = true := by decide +kernel
/-- `spawn q2, s16:31` (spec/17_package_scheduler.md). -/
theorem test_word_spawn : isWord (word3 0x02003EC0 0x00000310 0x00001001) (.spawn { d := .sp (.upred 2 false), b := u 16 }) = true := by
  decide +kernel
/-- `uisend q1, iv5, s4:5` (spec/18_package_host.md). -/
theorem test_word_uisend : isWord (word3 0x01003EC3 0x4E401710 0x00001000)
    (.uisend { d := .sp (.upred 1 false), a := .sp (.vec 5), b := u 4 }) = true := by decide +kernel
/-- `patom.add.n32.rlx.s v4, [s2:3 + v6]` (spec/19_fabric.md). -/
theorem test_word_patom : isWord (word3 0x04003EE2 0x64000800 0x14830000)
    (.patom { d := v 4, a := u 2, b := v 6, x := mems .n32 .s .rlx }) = true := by decide +kernel
/-- `recall.wb.manual k3, s2:3, s4:5` (spec/16_package_memory.md). -/
theorem test_word_recall : isWord (word3 0x03003FF4 0x44000B20 0x10001000)
    (.recall { d := .sp (.ctr 3), a := u 2, b := u 4, x := .recall false 1 }) = true := by decide +kernel
/-- `csrr s10:11, s2:3` (spec/20_package_at_rest.md). -/
theorem test_word_csrr : isWord (word3 0x0A003FF0 0x04000900 0) (.csrr { d := u 10, a := u 2 }) = true := by decide +kernel

/-! ## Every form decodes and can be ready -/

/-- Does the word decode to the form `o`, and is it `Ready` at the test state, on the service core where its class asks so? -/
def wordReady (o : Op) (w : Nat) : Bool :=
  match decodeWord w with
  | .ok i => (match i.form? with
    | some (o', f) => decide (o' = o) && meets o f (if o.cls == .s then svc tState else tState)
    | none => false)
  | .error _ => false

/-- Words of the forms, part 1. -/
def words1 : List (Op × Nat) :=
  [(.iadd, 0x200020000400008003C00), (.isub, 0x200020000400008003C01), (.iaddc, 0x110300020000400008003C02),
   (.isubb, 0x110300020000400008003C03), (.imul, 0x200020000400008003C04), (.imulh, 0x200020000400008003C05),
   (.imad, 0x600020000400008003C06), (.imadw, 0x600020000400008003C07), (.imin, 0x200020000400008003C08),
   (.imax, 0x200020000400008003C09), (.iabs, 0x200000000400008003C0A), (.ineg, 0x200000000400008003C0B),
   (.iclamp, 0x600020000400008003C0C), (.isad, 0x600020000400008003C0D), (.idp4, 0x600020000400008003C0E),
   (.idp2, 0x600020000400008003C0F), (.and, 0xC0020000400008003C10), (.or, 0xC0020000400008003C11),
   (.xor, 0xC0020000400008003C12), (.andn, 0xC0020000400008003C13)]
theorem test_words1 : words1.all (fun e => wordReady e.1 e.2) = true := by decide +kernel
/-- Words of the forms, part 2. -/
def words2 : List (Op × Nat) :=
  [(.orn, 0xC0020000400008003C14), (.not, 0xC0000000400008003C15), (.blut, 0xAC00C0020000400008003C16),
   (.shl, 0xC0020000400008003C17), (.shr, 0xC0020000400008003C18), (.sar, 0xC0020000400008003C19),
   (.rol, 0xC0020000400008003C1A), (.ror, 0xC0020000400008003C1B), (.fshl, 0x600020000400008003C1C),
   (.fshr, 0x600020000400008003C1D), (.bfe, 0x200020000400008003C1E), (.bfi, 0x600020000400008003C1F),
   (.brev, 0xC0000000400008003C20), (.popc, 0xC0000000400008003C21), (.clz, 0xC0000000400008003C22),
   (.ctz, 0xC0000000400008003C23), (.bmsk, 0xC0020000400008003C24), (.prmt, 0x600020000400008003C25),
   (.icmpp, 0x413C00020000430001003C26), (.iset, 0x400000020000400008003C27)]
theorem test_words2 : words2.all (fun e => wordReady e.1 e.2) = true := by decide +kernel
/-- Words of the forms, part 3. -/
def words3 : List (Op × Nat) :=
  [(.sel, 0x1000C0020000400008003C28), (.mov, 0xC0000000400008003C29), (.movi, 0x800020000000000008003C2A),
   (.lea, 0x400300020000400008003C2B), (.psetp, 0x27830001C00070001003C2C), (.ptov, 0x8003C2D), (.vtop, 0x20000400000003C2E),
   (.fadd, 0x20000400008003C80), (.fsub, 0x20000400008003C81), (.fmul, 0x20000400008003C82),
   (.ffma, 0x600020000400008003C83), (.fmin, 0x20000400008003C84), (.fmax, 0x20000400008003C85),
   (.fsetp, 0x413C00020000430001003C86), (.fset, 0x400000020000400008003C87), (.fclass, 0x3C0000000400008003C88),
   (.frnd, 0x400008003C89), (.fscale, 0x20000400008003C8A), (.fgetexp, 0x400008003C8B), (.fgetman, 0x400008003C8C)]
theorem test_words3 : words3.all (fun e => wordReady e.1 e.2) = true := by decide +kernel
/-- Words of the forms, part 4. -/
def words4 : List (Op × Nat) :=
  [(.padd2, 0x440020000400008003C8D), (.pmul2, 0x440020000400008003C8E), (.pfma2, 0x600020000400008003C8F),
   (.pmin2, 0x440020000400008003C90), (.pmax2, 0x440020000400008003C91), (.psetp2, 0x413C00020000430001003C92),
   (.dadd, 0x20000400008003C93), (.dmul, 0x20000400008003C94), (.dfma, 0x600020000400008003C95),
   (.dmin, 0x20000400008003C96), (.dmax, 0x20000400008003C97), (.dsetp, 0x413C00020000430001003C98),
   (.cvt, 0x780200000000400008003C99), (.cvtsr, 0x8003C0020000400008003C9A), (.pack2, 0x20000400008003C9B),
   (.unpk2, 0x400008003C9C), (.pack4, 0x400008003C9D), (.unpk4, 0x400008003C9E), (.qcb4, 0x36001000400008003C9F),
   (.dqcb4, 0x36001000400008003CA0)]
theorem test_words4 : words4.all (fun e => wordReady e.1 e.2) = true := by decide +kernel
/-- Words of the forms, part 5. -/
def words5 : List (Op × Nat) :=
  [(.frcp, 0x400008003CA1), (.frsq, 0x400008003CA2), (.fsqrt, 0x400008003CA3), (.fex2, 0x400008003CA4),
   (.flg2, 0x400008003CA5), (.fsin, 0x400008003CA6), (.fcos, 0x400008003CA7), (.fsinr, 0x400008003CA8),
   (.fcosr, 0x400008003CA9), (.ftanh, 0x400008003CAA), (.fsigm, 0x400008003CAB), (.tblev, 0x35001000400008003CAC),
   (.fdivf, 0x20000400008003CAD), (.ldg, 0xC0020400400008003D00), (.stg, 0xC0020400400008003D01),
   (.lds, 0xC0020400400008003D02), (.sts, 0xC0020400400008003D03), (.lda, 0xC0020400400008003D04),
   (.sta, 0xC0020400400008003D05), (.ldo, 0xC0020400400008003D06)]
theorem test_words5 : words5.all (fun e => wordReady e.1 e.2) = true := by decide +kernel
/-- Words of the forms, part 6. -/
def words6 : List (Op × Nat) :=
  [(.sto, 0xC0020400400008003D07), (.atomg, 0x88200020400400008003D08), (.atoms, 0x88200020400400008003D09),
   (.redg, 0x88200020400400008003D0A), (.reds, 0x88200020400400008003D0B), (.casg, 0x880C0020400400008003D0C),
   (.cass, 0x880C0020400400008003D0D), (.pref, 0x20400400000003D0E), (.fence, 0x98000000000000000003D0F),
   (.bra, 0x800020000000000000003D40), (.brx, 0x400000003D41), (.call, 0x800020000000000008003D42), (.callx, 0x400008003D43),
   (.ret, 0x400000003D44), (.exit, 0x3D45), (.rje, 0x33001003D46), (.rjw, 0x33001003D47), (.rjx, 0x33001003D48),
   (.rjrd, 0xCC0050008003D49), (.vote, 0xC00070001003D4A)]
theorem test_words6 : words6.all (fun e => wordReady e.1 e.2) = true := by decide +kernel
/-- Words of the forms, part 7. -/
def words7 : List (Op × Nat) :=
  [(.matchW, 0xC0000000400008003D4B), (.elect, 0x30001003D4C), (.shfl, 0x1800C0020000400008003D4D),
   (.redw, 0x200000000400008003D4E), (.scanw, 0x200000000400008003D4F), (.vtou, 0xC0000000410008003D50), (.fibsw, 0x3D51),
   (.fbara, 0x10020800040000003D52), (.fbarw, 0x800040000003D53), (.fibqState, 0x400410008003D54),
   (.fibqRec, 0x200000000400410008003D54), (.fresume, 0x400431001003D55), (.rsr, 0xDC0800008003D56), (.wsr, 0x437020003D57),
   (.setx, 0x10020000000000003D58), (.addx, 0x10020000000000003D59), (.trap, 0x20000000000000003D5A), (.tret, 0x3D5B),
   (.bpt, 0x3D5C), (.nop, 0x3D5D)]
theorem test_words7 : words7.all (fun e => wordReady e.1 e.2) = true := by decide +kernel
/-- Words of the forms, part 8. -/
def words8 : List (Op × Nat) :=
  [(.yield, 0x20000000000000003D5E), (.ractlOff, 0x3D5F), (.ractlOn, 0x200000000000000000003D5F),
   (.ractlThr, 0x400010020000000000003D5F), (.npb, 0x3D60), (.npe, 0x3D61), (.uiadd, 0x210020400410008003DC0),
   (.uisub, 0x210020400410008003DC1), (.uimul, 0x210020400410008003DC2), (.ublut, 0xAC00D0020400410008003DC3),
   (.ushl, 0xD0020400410008003DC4), (.ushr, 0x210020400410008003DC5), (.uicmpp, 0x413C10020400431001003DC6),
   (.umov, 0xC0000400410008003DC7), (.umovi, 0x800020000000010008003DC8), (.ulea, 0x400310020400410008003DC9),
   (.usel, 0x1000D0020400410008003DCA), (.upopc, 0xC0000400410008003DCB), (.cpy, 0x10020400432001003E00),
   (.gath, 0x20400432001003E01)]
theorem test_words8 : words8.all (fun e => wordReady e.1 e.2) = true := by decide +kernel
/-- Words of the forms, part 9. -/
def words9 : List (Op × Nat) :=
  [(.scat, 0x20400432001003E02), (.chain, 0x10020400432001003E03), (.kwait, 0x10020C80040000003E04),
   (.kadj, 0x10020C80040000003E05), (.krd, 0xC80050008003E06), (.opf, 0x3E07), (.gang, 0x10020000000000003E08),
   (.mma, 0x10020000432001003E09), (.mmas, 0x10020000432001003E0A), (.accz, 0x10020000032001003E0B),
   (.acczSt, 0x200000000E00010008003E0B), (.accld, 0x210020000032001003E0C), (.acccvt, 0x210020000032001003E0D),
   (.accscl, 0x10020000432001003E0E), (.tblld, 0x35001400432001003E0F), (.tblswp, 0x35001000000000003E10),
   (.cbld, 0x36001400432001003E11), (.bara, 0x80010020D00050008003E60), (.barw, 0x80010020D00040000003E61),
   (.bars, 0x80010020D00040000003E62)]
theorem test_words9 : words9.all (fun e => wordReady e.1 e.2) = true := by decide +kernel
/-- Words of the forms, part 10. -/
def words10 : List (Op × Nat) :=
  [(.barx, 0x80000000D00040000003E63), (.cpyr, 0x10020400432001003E80), (.cpym, 0x440610020400432001003E81),
   (.redr, 0xC8200020400400008003E82), (.notify, 0x10020400432001003EA0), (.kickcfgOpen, 0x10020C80050008003EA1),
   (.kickcfgFree, 0x200010020400400000003EA1), (.kickcfgClose, 0x400000000400400000003EA1), (.migrate, 0x400431001003EA2),
   (.waita, 0x1400D0020400410008003EA3), (.wakea, 0x140000000400400000003EA4), (.ptadv, 0x10020000000000003EA5),
   (.spawn, 0x10020000031001003EC0), (.join, 0x10020400431001003EC1), (.svc, 0x20400432001003EC2),
   (.uisend, 0x10020400431001003EC3), (.uiwait, 0x10008003EC4), (.uiack, 0x400410008003EC5),
   (.uihdlVi, 0x10020000000000003EC6), (.uihdlBlk, 0x200010020000000000003EC6)]
theorem test_words10 : words10.all (fun e => wordReady e.1 e.2) = true := by decide +kernel
/-- Words of the forms, part 11. -/
def words11 : List (Op × Nat) :=
  [(.uihdlMask, 0x400010020000000000003EC6), (.mcst, 0x10020400432001003EC7), (.mred, 0x210020400432001003EC8),
   (.pcpy, 0x400432001003EE0), (.pnotify, 0x10020400431001003EE1), (.patom, 0x148200020400400008003EE2),
   (.csrr, 0x400410008003FF0), (.csrw, 0x10020400400000003FF1), (.ctxsv, 0x10020000032001003FF2),
   (.ctxrs, 0x10020000032001003FF3), (.recall, 0x10020400432001003FF4), (.halt, 0x3FF5)]
theorem test_words11 : words11.all (fun e => wordReady e.1 e.2) = true := by decide +kernel
/-- The words above are one for each form of the table. -/
theorem test_words_all : (words1 ++ words2 ++ words3 ++ words4 ++ words5 ++ words6 ++ words7 ++ words8 ++ words9 ++ words10 ++ words11).map Prod.fst = Op.all := by decide +kernel

/-! ## Witnesses: instructions on registers -/

/-- The form's operands as its word above gives them. -/
def sm (o : Op) : Ins :=
  match (words1 ++ words2 ++ words3 ++ words4 ++ words5 ++ words6 ++ words7 ++ words8 ++ words9 ++ words10 ++ words11).find?
      (fun e => decide (e.1 = o)) with
  | some e => (match decodeWord e.2 with
    | .ok i => (match i.form? with | some (_, f) => f | none => {})
    | .error _ => {})
  | none => {}

/-- Registers v16, v17, v32 and v33 of every lane hold all ones. -/
def tOnes : State :=
  let ones (r : Nat) : List (Nat × Byte) := (List.range 128).map (fun i => (64 * r + i, 0xFF))
  tState.modCore 0 (fun c => { c with uni := ones 16 ++ ones 32 })

/-- The same with only the last lane left. -/
def tLone : State := fibre tOnes (fun f => { f with lanes := f.lanes.mapIdx (fun l x => { x with exited := l < 15 }) })
/-- The hypotheses of `LanesDo` for each form of a list. -/
def lanesMeet (ops : List Op) (rule : Op → Ins → LaneIn → LaneOut) (s : State) : Bool :=
  ops.all (fun o => meets o (sm o) s (fun c =>
    !c.poisoned && !c.late && decide (fpxSet c.fib.fpcs (c.laneRes (rule o (sm o))).effs = 0)))

theorem witness_IntegerArithmetic : lanesMeet intForms intRule tOnes = true := by decide +kernel
theorem witness_BitOperations : lanesMeet bitForms bitRule tOnes = true := by decide +kernel
theorem witness_ComparesAndMoves : lanesMeet moveForms moveRule tOnes = true := by decide +kernel
theorem witness_FloatArithmetic : lanesMeet floatForms floatRule tLone = true := by decide +kernel
theorem witness_FloatCompares : lanesMeet compareForms compareRule tLone = true := by decide +kernel
theorem witness_Conversions : lanesMeet convertForms convertRule tLone = true := by decide +kernel

/-- Ready, not poisoned, and the result written at once. -/
def plain (o : Op) (f : Ins) (s : State) (p : Ctx → Bool := fun _ => true) : Bool := meets o f s (fun c => !c.poisoned && !c.late && p c)

theorem witness_SpecialFunctionsAndDivision :
    (specialForms ++ [Op.fdivf]).all (fun o => plain o (sm o) tOnes (fun c => decide (fpcsEnables c.fib.fpcs = 0))) = true := by
  decide +kernel
theorem witness_TablesAndCodebooks :
    ([Op.qcb4, .dqcb4].all (fun o => plain o (sm o) tOnes (fun c =>
      decide (fpcsEnables c.fib.fpcs = 0) && (tOnes.bookComing c.r.blk (bookSlot (sm o).b)).isNone)) &&
    plain .tblev (sm .tblev) tOnes (fun c => decide (fpxSet c.fib.fpcs
      (c.laneRes (fun i => tableRule (tOnes.tableOf c.r.blk (tabSlot (sm .tblev).b)) i.a)).effs = 0))) = true := by decide +kernel
theorem witness_UniformForms : uniformForms.all (fun p => plain p.1 (sm p.1) tOnes) = true := by decide +kernel
theorem witness_Collectives : collectiveForms.all (fun o => plain o (sm o) tOnes) = true := by decide +kernel

/-- A pair of registers v16 and v17 holds an aligned target in each lane. -/
def tTargets : State :=
  tState.modCore 0 (fun c => { c with uni := (List.range 16).map (fun l => (64 * 16 + 4 * l + 1, BitVec.ofNat 8 (16 + l % 3))) })
/-- The targets of the lanes are in range and aligned. -/
def targetsOk (o : Op) (f : Ins) (s : State) : Bool :=
  plain o f s (fun c => c.lanes.all (fun l => decide (transferTarget o f c l < 2 ^ 57 ∧ transferTarget o f c l % 4 = 0)))
/-- Backwards by 48 bytes, forwards by 16, and to a register. -/
theorem witness_ControlTransfers :
    (targetsOk .bra { b := .imm 0xFFF4, x := .immHi 0xFFFF } tState && targetsOk .call { d := v 8, b := .imm 4, x := .immHi 0 } tState &&
      targetsOk .brx { a := v 16 } tTargets && targetsOk .callx { d := v 8, a := v 16 } tTargets &&
      targetsOk .ret { a := v 16 } tTargets) = true := by decide +kernel

/-! ## Witnesses: the fibre -/

/-- Mask 1 has lanes 0 to 7 enrolled; three of them wait there, two stand elsewhere. -/
def tMask : State := fibre tState (fun f => { f with
  j := [(1, { enr := 0x00FF, arr := 0x0007 })]
  lanes := f.lanes.mapIdx (fun l x =>
    if l < 3 then { x with park := some 1, pc := 0x2000 } else if l < 5 then { x with pc := 0x1800 } else x) })
/-- Trap mode with lanes 0 to 3 the handler's. -/
def tTrap (pend : BitVec 12) : State := fibre tState (fun f => { f with
  trap := true, tpend := pend, tpval := 99, tpc := 0x1800
  lanes := f.lanes.mapIdx (fun l x => if l < 4 then { x with handler := true } else { x with pc := 0x3000 }) })
/-- The block has a trap handler. -/
def withEntry (s : State) : State := s.modBlock 0 (fun b => { b with trapEntry := some 0x4000 })
/-- Mask 1. -/
def j1 : Operand := .sp (.mask 1)

theorem witness_LanesAndMasks :
    (meets .exit {} (tTrap 0) (fun c => lastHandler c.fib c.act) && meets .exit {} tMask (fun c => !lastHandler c.fib c.act) &&
      [Op.rje, .rjw, .rjx].all (fun o => meets o { d := j1 } tMask) &&
      plain .rjrd { d := u 8, a := j1, x := mods 0 } tMask && plain .rjrd { d := u 8, a := j1, x := mods 1 } tMask) = true := by
  decide +kernel

/-- Fibre barrier 1 in phase 4 with one arrival of two. -/
def tFbar (tok : Map Word) : State := fibre (tState.modWarp 0 0 (fun w => { w with
  fbs := [(1, { part := 3, arr := 2, phase := 4, pmax := 0x80000005, lasts := [(3, 0x80000002)] })] })) (fun f => { f with tok := tok })

theorem witness_FibreBarriers :
    (meets .fibsw {} tState && meets .fbara { a := .imm 1, b := .imm 3 } tState (fun c => decide (canRelease c .w)) &&
      meets .fbara { a := .imm 3, b := .imm 1 } (tFbar []) (fun c => decide (canRelease c .w)) &&
      meets .fbarw { a := .imm 1 } (tFbar []) (fun c => (c.fib.tok.find 1).isNone) &&
      [3, 4].all (fun p => meets .fbarw { a := .imm 1 } (tFbar [(1, p)]) (fun c => c.fib.tok.find 1 == some p))) = true := by
  decide +kernel

/-- A second warp with a frozen fibre and an ended one. -/
def tFrozen : State := tState.modBlock 0 (fun b => { b with warps := b.warps ++
  [{ slot := 1, fibs := [{ tFib with st := .frozen, frec := { pc := 0x1400, lanes := 0xFFFF, rc := 1 } }, { tFib with st := .ended }] }] })
/-- FRESUME of the fibre that s16 names, to the address in s40. -/
def resumeF (fn : Nat) : Ins := { d := .sp (.upred 2 false), a := u 16, b := if fn = 1 then u 40 else .none, x := mods fn }
/-- A fibre to be resumed, and one that is not frozen. -/
theorem witness_FreezeHandling :
    (plain .fibqState (sm .fibqState) tFrozen && plain .fibqRec (sm .fibqRec) (withU tFrozen [(16, 4)]) &&
      [(0, 4), (1, 4), (0, 0), (1, 63)].all (fun e => meets .fresume (resumeF e.1) (withU tFrozen [(16, e.2), (40, 0x1400)])
        (fun c => decide (canRelease c .b)))) = true := by decide +kernel

/-- A special register as a destination. -/
def sreg (n : Nat) : Operand := .sp (.sreg (BitVec.ofNat 10 n))
theorem witness_SpecialRegisters :
    ([0x000, 0x006, 0x008, 0x00F, 0x010, 0x013, 0x018, 0x01B, 0x020, 0x021, 0x028, 0x02C, 0x030, 0x033, 0x034, 0x037].all (fun n =>
        plain .rsr { d := v 8, a := sreg n } tState) &&
      [0x020, 0x028, 0x02B, 0x030, 0x033, 0x034, 0x037].all (fun n => meets .wsr { d := sreg n, a := u 16 } tState (fun c => !c.poisoned)) &&
      [0x021, 0x022].all (fun n => meets .wsr { d := sreg n, a := v 16 } tState (fun c => !c.poisoned)) &&
      [Op.setx, .addx].all (fun o => meets o (sm o) tState (fun c => !c.poisoned))) = true := by decide +kernel

theorem witness_TrapForms :
    ([Op.trap, .bpt].all (fun o =>
        meets o (sm o) (withEntry tState) (fun c => !c.fib.trap && c.blk.trapEntry == some 0x4000) &&
        meets o (sm o) (tTrap 0) (fun c => c.fib.trap)) &&
      meets .tret {} tState (fun c => !c.fib.trap) &&
      meets .tret {} (tTrap 0) (fun c => c.fib.trap && decide (c.fib.tpend.extractLsb' 0 4 = 0)) &&
      [0x501, 0x605, 0x80F].all (fun p => meets .tret {} (tTrap p) (fun c => c.fib.trap && decide (c.fib.tpend.extractLsb' 0 4 ≠ 0)))) =
    true := by decide +kernel

/-- A section is open. -/
def tSec : State := fibre tState (fun f => { f with sec := some (0x500, 0) })
theorem witness_IssueControl :
    ([Op.nop, .yield, .ractlOff, .ractlOn, .ractlThr].all (fun o => meets o (sm o) tState (fun c => !c.poisoned)) &&
      [63, 64, 4095, 4096].all (fun n => meets .ractlThr { sm .ractlThr with b := .imm n } tState (fun c => !c.poisoned)) &&
      meets .npb {} tState (fun c => c.fib.sec.isNone && !c.blk.stopping) && meets .npb {} tSec (fun c => c.fib.sec.isSome) &&
      meets .npe {} tSec (fun c => c.fib.sec.isSome) && meets .npe {} tState (fun c => c.fib.sec.isNone)) = true := by decide +kernel

/-! ## Witnesses: memory -/

/-- Register v16 of lane l holds k × l, v8 small values; s40:41 hold the address 0x100000. -/
def tAddr (k : Nat) : State := withU (tState.modCore 0 (fun c => { c with
  uni := ((List.range 16).map (fun l => (64 * 8 + 4 * l, BitVec.ofNat 8 (l + 1))) ++
    (List.range 16).map (fun l => (64 * 16 + 4 * l, BitVec.ofNat 8 (l * k % 256)))).filter (fun e => e.2 ≠ 0) })) [(40, 0x100000), (41, 0)]
/-- A line of the page in the core's cache. -/
def withL1 (s : State) (a : Attr) : State :=
  s.modCore 0 (fun c => { c with l1 := [(2 * 0x4000,
    { data := lineOf ((List.range 128).map (fun i => BitVec.ofNat 8 (3 * i + 1))), attr := a, wt := 0x80000000, rt := 0x80000010
      secs := (List.range 4).map (fun k => (k, { valid := true })) })] })

/-- Are the window forms' addresses as `at'` says, with nothing in the way? -/
def localOk (o : Op) (f : Ins) (s : State) (at' : Ctx → Spots) : Bool :=
  plain o f s (fun c => decide (calm c) && decide (SpotsOf o c (at' c)) && decide (∀ l ∈ c.lanes, spotClear c (at' c l)))
/-- The spots of the window forms. -/
def spotsIn (acc disp : Bool) (c : Ctx) : Spots :=
  fun l => (c.blk.core, if acc then 1 else 0, windowPlace c acc (laneAddr c disp l).toNat)
/-- The spots on the on-chip map. -/
def spotsMap (s : State) (wide : Bool) (c : Ctx) : Spots :=
  fun l => (s.mapPlace c.blk (wrapTo 64 (laneAddr c true l)) wide).getD default
/-- An address of the map in s40:41. -/
def withMap (s : State) (a : Nat) : State := withU s [(40, a % 2 ^ 32), (41, a / 2 ^ 32)]
/-- A window access of `d` at s32 + v16. -/
def winF (d : Operand) (x : Ext) : Ins := { d := d, a := u 32, b := v 16, x := x }

/-- Loads and stores at the window's first bytes and, with s32 at 0x7FF0, at its last. -/
theorem witness_LocalAccesses_windows :
    (localOk .lds (winF (v 24) (mems .b32)) (tAddr 8) (spotsIn false true) &&
      localOk .lds (winF (v 24) (mems .i8)) (withU (tAddr 1) [(32, 0x7FF0)]) (spotsIn false true) &&
      localOk .lds (winF (v 24) (mems .b32 .b .acq)) (tAddr 4) (spotsIn false true) &&
      localOk .lda (winF (v 24) (mems .b32)) (tAddr 4) (spotsIn true true) &&
      localOk .sts (winF (v 8) (mems .b32)) (tAddr 4) (spotsIn false true) &&
      localOk .sts (winF (v 8) (mems .b32 .b .rel)) (tAddr 4) (spotsIn false true) &&
      localOk .sta (winF (v 8) (mems .b32)) (tAddr 4) (spotsIn true true)) = true := by decide +kernel
/-- The scratchpad of core 0 on the map, and a control page. -/
theorem witness_LocalAccesses_map :
    (let s := withMap (tAddr 8) (0xFF * 2 ^ 44 + 0x10000)
     let t := withMap (svc tState) (0xFF * 2 ^ 44 + 32 * 2 ^ 34 + 2 * 2 ^ 32 + 0x10)
     localOk .ldo { d := v 24, a := u 40, b := v 16, x := mems .b32 } s (spotsMap s false) &&
      localOk .sto { d := v 8, a := u 40, b := v 16, x := mems .b32 } s (spotsMap s false) &&
      localOk .ldo { d := v 24, a := u 40, b := .imm 0, x := mems .b64 } t (spotsMap t true) &&
      localOk .sto { d := v 8, a := u 40, b := .imm 0, x := mems .b64 } t (spotsMap t true)) = true := by decide +kernel
theorem witness_LocalAccesses_atomics :
    ([0, 7, 8].all (fun a => [Op.atoms, .reds].all (fun o =>
        localOk o (winF (v 8) (mems .n32 .b .rlx a)) (tAddr 4) (spotsIn false false))) &&
      localOk .cass (winF (v 8) (mems .b32 .b .rlx)) (tAddr 4) (spotsIn false false)) = true := by decide +kernel

/-- The modifiers a window form takes here. -/
def winX (o : Op) : Ext := if o = .atoms ∨ o = .reds then mems .n32 .b .rlx else if o = .cass then mems .b32 .b .rlx else mems .b32
/-- One byte past the end raises RNG; at an odd place ALN. -/
theorem witness_AccessFaults_windows :
    windowForms.all (fun e =>
      let f : Ins := { d := v 8, a := u 40, b := v 16, x := winX e.1 }
      let past := if e.2.1 then 2 * Config.accBank - 3 else 0x7FFD
      meets e.1 f (withU (tAddr 4) [(40, past)]) (fun c => c.lanes.find? (outside c e.2.1 e.2.2) == some 0) &&
      meets e.1 f (withU (tAddr 4) [(40, past - 60)]) (fun c => c.lanes.find? (outside c e.2.1 e.2.2) == some 15) &&
      meets e.1 f (withU (tAddr 4) [(40, 0x11)]) (fun c => (c.lanes.find? (outside c e.2.1 e.2.2)).isNone &&
        c.lanes.find? (fun k => decide ((laneAddr c e.2.2 k).toNat % 2 ^ 64 % c.size ≠ 0)) == some 0)) = true := by decide +kernel

/-- A form of global memory at s40:41 + v16. -/
def globF (t : Ty) (sc : Scope := .none) (od : Order := .none) (aop : Nat := 0) : Ins := { d := v 8, a := u 40, b := v 16, x := mems t sc od aop }
/-- The operands a global form takes here. -/
def globX (o : Op) : Ins :=
  if o = .ldg ∨ o = .stg then globF .b32 else if o = .casg then globF .b32 .b .rlx else globF .n32 .b .rlx
/-- Lanes below `l` are sound; lane `l` is refused by its range, by its page, or by its page with a cause. -/
def globBad (e : Op × Bool × (Range → Bool)) (s : State) (l : Nat) (how : Nat) : Bool :=
  meets e.1 (globX e.1) s (fun c =>
    let bad (k : Nat) : Bool := !reaches c e.2.1 e.2.2 k
    let page (k : Nat) := c.attrAt (laneIa c e.2.1 k) (laneNs c e.2.1 k) c.size
    (c.lanes.take l).all (fun k => !bad k && good (page k)) && c.lanes[l]? == some l &&
    (if how = 0 then bad l else !bad l && (match page l with
      | .error none => decide (how = 1)
      | .error (some n) => decide (how = 2) && decide (0 < n)
      | .ok _ => false)))
/-- Every lane's page is there; the first misaligned lane, or the first watched one, is `l`. -/
def globLater (e : Op × Bool × (Range → Bool)) (s : State) (l : Nat) (watch : Bool) : Bool :=
  meets e.1 (globX e.1) s (fun c =>
    let addr (k : Nat) := wrapTo 64 (laneAddr c e.2.1 k)
    let off (k : Nat) : Bool := decide (addr k % c.size ≠ 0)
    c.lanes.all (fun k => reaches c e.2.1 e.2.2 k && good (c.attrAt (laneIa c e.2.1 k) (laneNs c e.2.1 k) c.size)) &&
    (if watch then (c.lanes.find? off).isNone && !c.fib.trap &&
        c.lanes.find? (fun k => c.fib.watched (addr k) c.size (e.1 != .stg && e.1 != .redg) (e.1 != .ldg)) == some l
      else c.lanes.find? off == some l))
/-- The block's range leads to another page. -/
def ledTo (s : State) (ia : Nat) : State := s.modBlock 0 (fun b => { b with ranges := b.ranges.map (fun r => { r with iabase := ia }) })
theorem witness_AccessFaults_global :
    globalForms.all (fun e =>
      globBad e (withU (tAddr 8) [(40, 0x10FFD0), (41, 0)]) 6 0 &&
      globBad e (withU (tAddr 8) [(40, 0xFFFFFFF0), (41, 0xFFFFFFFF)]) 0 0 &&
      globBad e (ledTo (tAddr 8) (0xFF * 2 ^ 44)) 0 1 &&
      globBad e (ledTo (tAddr 8) 0x300000) 0 2 &&
      globLater e (withU (tAddr 8) [(40, 0x100002), (41, 0)]) 0 false &&
      globLater e (fibre (tAddr 8) (fun f => { f with wp := [(1, { va := 0x100020, ctl := 0x27 })] })) 4 true) = true := by decide +kernel

/-- The accesses of a global form, where they are sound. -/
def accsOf (c : Ctx) (p : Range → Bool) (rd wr : Bool) : Option (List Acc) :=
  match c.accesses (c.globalAcc p c.size) false rd wr with | .ok as => some as | .error _ => none
/-- The common hypotheses of the global forms. -/
def globOk (o : Op) (f : Ins) (s : State) (p : Range → Bool) (rd wr : Bool) (q : Ctx → List Acc → Bool) : Bool :=
  plain o f s (fun c => decide (c.fib.latches cWCH = false) && decide (calm c) && ((accsOf c p rd wr).any (q c)))
/-- What a load reads at once. -/
def readNow (s : State) (c : Ctx) (as : List Acc) (a : Acc) : Option (Nat × Time × Bool) :=
  if (outstanding c as 0 []).renews a then none
  else s.l1Read c.blk.core (l1Key (a.place / 128) a.ns) (a.place % 128) c.size c.fib.ptime
/-- Loads that are read at once, and loads that miss. -/
theorem witness_GlobalLoads :
    ([Attr.leased, .priv].all (fun a => let s := withL1 (tlbAs (tAddr 8) a) a
        globOk .ldg (globF .b32) s Range.r true false (fun c as =>
          as.all (fun x => match readNow s c as x with | some (_, _, bad) => !bad | none => false))) &&
      [(Scope.none, Order.none), (.s, .sc), (.d, .acq)].all (fun e => let s := tAddr 8
        globOk .ldg (globF .b32 e.1 e.2) s Range.r true false (fun c as => as.any (fun x => (readNow s c as x).isNone)))) = true := by
  decide +kernel
/-- No store that goes through meets a dirty byte. -/
theorem witness_GlobalStores :
    [(Scope.none, Order.none), (.d, .rel), (.s, .sc)].all (fun e => [Attr.leased, .manual, .priv].all (fun a =>
      let s := withL1 (tlbAs (tAddr 8) a) a
      globOk .stg (globF .b32 e.1 e.2) s Range.w false true (fun c as => as.all (fun x =>
        match s.l1 c.blk.core (l1Key (x.place / 128) x.ns) with
        | some l => (List.range c.size).all (fun i => !l.dirtyAt (x.place % 128 + i))
        | none => true)))) = true := by decide +kernel
/-- The atomics, on pages that are not PRIVATE, and on a PRIVATE one whose line is there. -/
theorem witness_GlobalAtomicsAnywhere :
    [(Op.atomg, globF .n32 .b .rlx 0), (.atomg, globF .n32 .s .sc 8), (.redg, globF .f32 .c .rel 0), (.casg, globF .b32 .d .ar)].all (fun e =>
      globOk e.1 e.2 (tAddr 0) Range.a (e.1 != .redg) true (fun _ as => as.all (fun x => x.attr != .priv)) &&
      (let s := withL1 (tlbAs (tAddr 8) .priv) .priv
       globOk e.1 e.2 s Range.a (e.1 != .redg) true (fun c as => as.all (fun x => x.attr == .priv &&
        (match lineOfAcc s x with
        | some l => l.attr == .priv && l.has (x.place % 128) c.size && l.secs.all (fun k => !k.2.poison && !k.2.dpoison)
        | none => false))))) = true := by decide +kernel
theorem witness_FencesAndPrefetches :
    (meets .fence { x := mods 0 .w .acq } tState (fun c => !tState.accessing c.r) &&
      [(Scope.b, Order.rel), (.s, .sc), (.c, .ar)].all (fun e => meets .fence { x := mods 0 e.1 e.2 } tState (fun c =>
        !tState.memHeld c.r false && decide (canRelease c e.1))) &&
      meets .pref { a := u 40, b := v 16, x := mems .none } (tAddr 200)) = true := by decide +kernel

/-! ## Witnesses: engines -/

/-- The lines of the page have home copies. -/
def homed (s : State) (a : Attr := .leased) (n : Nat := 40) : State :=
  { tlbAs s a with homes := (List.range n).map (fun i => (0x4000 + i,
      { data := lineOf ((List.range 128).map (fun k => BitVec.ofNat 8 (k * 7 + i))), attr := a, ns := true
        wt := 0x80000000, rt := 0x80000004, pa := 0x1000000 + 128 * i })) }
/-- Bytes written at an offset of the page's home copies. -/
def putH (s : State) (off : Nat) (bs : List Byte) : State :=
  bs.zipIdx.foldl (fun s e =>
    let a := off + e.2
    let h := s.homes.get (0x4000 + a / 128) default
    { s with homes := s.homes.set (0x4000 + a / 128) { h with data := lineMerge h.data [(a % 128, e.1)] } }) s
/-- The descriptor at `va` can be read at issue. -/
def descOk (c : Ctx) (va n : Nat) : Bool :=
  good (c.s.enginePieces c.blk 0 va 1 Range.r) && decide (va % 32 = 0) &&
  (match c.s.enginePieces c.blk 0 va n Range.r with
   | .ok ps => (c.s.clearing c.blk.core c.fib.ptime ps false).isNone && !(c.s.readPieces c.blk.core c.fib.ptime ps).2.1.any Prod.snd
   | .error _ => false)
/-- A command with its descriptor at s40:41. -/
def cmdF : Ins := { d := ctr1, a := u 40, b := u 42, x := .opC (u 44) 1 }
/-- The test machine with its page at home. -/
def tHome : State := homed (tAddr 8)

/-- Commands with what stands in memory, legal or not; the descriptor at the page's first byte and at its last place of 64 bytes. -/
theorem witness_EngineCommands :
    (tHome.hasFib ⟨0, 0, 0⟩ &&
      [Op.cpy, .cpyr, .cpym].all (fun o => [cmdF, { cmdF with x := .none }].any (fun f =>
        meets o f tHome (fun c => c.mayCommand .copy && descOk c (c.va 0) 64))) &&
      meets .cpy cmdF (withU tHome [(40, 0x101380)]) (fun c => c.mayCommand .copy && descOk c (c.va 0) 64) &&
      [Op.gath, .scat].all (fun o => meets o { d := ctr1, a := u 40, b := v 16 } tHome (fun c =>
        !c.poisoned && c.mayCommand .copy && descOk c (c.va 0) 64)) &&
      meets .chain cmdF tHome (fun c => c.mayCommand .chain && descOk c (c.va 0) 192)) = true := by decide +kernel

/-- Table slot 1 is the block's. -/
def tTab (b : Nat) : State := tHome.modCore 0 (fun x => { x with tabOwner := [(1, b)], tabs := [(1, (5, 9))] })
/-- A load of a slot from scratchpad (1) or memory (0). -/
def slotF (fn : Nat) (b : Operand) : Ins := { d := ctr1, a := if fn = 1 then u 44 else u 40, b := b, x := mods fn }
theorem witness_TableSlots :
    ([(Op.tblld, Operand.sp (.atab 1), 2080), (.cbld, .sp (.cbook 2), 32)].all (fun e =>
        (let s := withU tHome [(44, 0x8000 - e.2.2)]
         meets e.1 (slotF 1 e.2.1) s (fun c => c.mayCommand .copy && decide (c.va 0 + e.2.2 ≤ c.blk.sspan) && decide (c.va 0 % 32 = 0))) &&
        meets e.1 (slotF 0 e.2.1) tHome (fun c => c.mayCommand .copy && descOk c (c.va 0) e.2.2)) &&
      (tHome.core 0).tabOwner.isEmpty && (tHome.core 0).bookOwner.isEmpty &&
      [0, 7].all (fun b => meets .tblswp { b := .sp (.atab 1) } (tTab b) (fun c =>
        ((((tTab b).core c.blk.core).tabOwner.find 1 == some c.r.blk) == (b == 0)) && (((tTab b).core c.blk.core).cmds).isEmpty))) = true := by
  decide +kernel

/-- Counter 1 holds `k`. -/
def withCtr (k : Ctr) : State := fibre tHome (fun f => { f with k := [(1, k)] })
/-- The counter at the limit, with an error, above the limit, and negative. -/
theorem witness_CompletionCounters :
    ([({ val := 1 } : Ctr), { val := 1, ec := 0x77 }, { val := 2 }, { val := 0x80000000 }].all (fun k =>
        meets .kwait { a := ctr1, b := .imm 1 } (withCtr k) (fun c => c.fib.ctr 1 == k &&
          (decide (sext 32 k.val.toNat ≤ sext 32 (c.vb 0)) == decide (k.val ≠ 2)))) &&
      meets .kadj { a := ctr1, b := .imm 1 } (withCtr { val := 0xFFFFFFFF }) &&
      plain .krd { d := u 8, a := ctr1 } (withCtr { val := 5 })) = true := by decide +kernel

/-- The maps of the matrix forms stand at 0x100000 and 0x100020. -/
def tMaps : State :=
  withU (homed tState) ((List.range 8).map (fun i => (32 + i, if i = 5 ∨ i = 7 then 0 else if i = 6 then 0x100020 else 0x100000)))
theorem witness_MatrixProducts :
    [Op.mma, .mmas].all (fun o => meets o (sm o) tMaps (fun c =>
      let s := tMaps
      let rows := c.lanes.map (fun l => (l, (BitVec.ofNat 32 (c.va l), BitVec.ofNat 32 (c.va l / 2 ^ 32))))
      let me := selfMember c rows
      let m : Cmd := { issued c .matrix 0 0 0 [] 0 with k := me.k, regs := paramWords c 8, members := [me] }
      let pa := okD (s.enginePieces c.blk 0 m.mapA 32 Range.r) []
      let pb := okD (s.enginePieces c.blk 0 m.mapB 32 Range.r) []
      let x := s.readPieces c.blk.core c.fib.ptime pa
      !c.poisoned && decide (c.fib.g.setWidth 16 = (0 : BitVec 16)) && (s.core c.blk.core).latches.isEmpty && !s.opfWaits c.r && !s.memHeld c.r true &&
        s.matrixRoom c.blk m && decide (m.mapA % 32 = 0) && decide (m.mapB % 32 = 0) &&
        good (s.enginePieces c.blk 0 m.mapA 32 Range.r) && good (s.enginePieces c.blk 0 m.mapB 32 Range.r) &&
        (s.clearing c.blk.core c.fib.ptime (pa ++ pb) false).isNone && !x.2.1.any Prod.snd &&
        !(x.1.readPieces c.blk.core c.fib.ptime pb).2.1.any Prod.snd)) = true := by decide +kernel

theorem witness_AccumulatorForms :
    ([Op.accz, .accscl, .accld, .acccvt].all (fun o => meets o (sm o) tMaps (fun c =>
        let m : Cmd := { issued c .matrix 0 0 0 [] 0 with
          regs := paramWords c (if o = .accld ∨ o = .acccvt then 8 else 4), members := [selfMember c []]
          lanes := if o = .accscl then c.lanes.map (fun l => (l, BitVec.ofNat 32 (c.va l))) else [] }
        !c.poisoned && !tMaps.opfWaits c.r && !tMaps.memHeld c.r true && tMaps.matrixRoom c.blk m &&
          (decide (o = .accz ∨ o = .accscl) || descOk c m.mapA 32))) &&
      plain .acczSt (sm .acczSt) tState (fun c => decide ((sm .acczSt).a = .sp (.accb 0)) && c.blk.banks[0]? == some 0 &&
        (tState.core c.blk.core).cmds.isEmpty) &&
      [0, 1, 2, 3].all (fun g => meets .gang { b := .imm g } tState) &&
      meets .gang { b := .imm 3 } (tState.modBlock 0 (fun b => { b with warps := b.warps ++ b.warps })) (fun c =>
        decide ((3 : Nat) < 2 ^ c.blk.warps.length) && decide (c.r.warp = 0)) &&
      meets .opf {} tState) = true := by decide +kernel

/-- Named barrier 1 with a record. -/
def withBar (x : Bar) : State := tState.modBlock 0 (fun b => { b with bars := [(1, x)] })
/-- An instruction on barrier 1. -/
def barF (d : Operand) (n : Nat) (sc : Scope := .b) : Ins := { d := d, a := .sp (.bar 1), b := .imm (BitVec.ofNat 16 n), x := mods 0 sc }
/-- The second fibre has ended. -/
def tAlone : State := tState.modBlock 0 (fun b => { b with warps := b.warps.map (fun w =>
  { w with fibs := w.fibs.modify 1 (fun f => { f with st := .ended }) }) })
/-- BARS that has arrived, in phase `n` or not yet counted. -/
def barsAt (s : State) (n : Option Word) : State := fibre s (fun x => { x with phases := [(0x1000, .bars n)] })
theorem witness_NamedBarriers :
    ([tState, tAlone].all (fun s =>
        meets .bara (barF (u 8) 0) s (fun c => decide (mayArrive c 0)) &&
        meets .bara (barF (u 8) 2) s (fun c => decide (mayArrive c 2)) &&
        meets .barx { barF .none 0 with b := .none } s (fun c => decide (mayArrive c 0)) &&
        meets .bars (barF .none 0) s (fun c => (c.fib.phases.find c.pc.toNat).isNone && decide (mayArrive c 0))) &&
      meets .bara (barF (u 8) 2) (withBar { ph := 7, scp := .b, exp := 2, cnt := 1, pmax := 0x80000100 }) (fun c => decide (mayArrive c 2)) &&
      (let s := withBar { ph := 1, last := 0x80000500, lscp := .b }
       let f : Ins := { barF .none 0 with b := u 32 }
       meets .barw f (withU s [(32, 0)]) (fun c => !c.barIll 1 0 && (s.bar 0 .b 1).ph == 1 && decide (c.vb 0 = 0)) &&
       meets .barw f (withU s [(32, 1)]) (fun c => !c.barIll 1 0 && (s.bar 0 .b 1).ph == BitVec.ofNat 32 (c.vb 0))) &&
      [none, some 0, some 1, some 2].all (fun n => let s := barsAt (withBar { ph := 1 }) n
        meets .bars (barF .none 0) s (fun c => c.fib.phases.find c.pc.toNat == some (.bars n)))) = true := by
  decide +kernel
/-- A transfer of the fibre is under way: an arrival is left to be counted. -/
def tBusy : State := tState.modCore 0 (fun x => { x with
  nextCmd := 1
  cmds := [(0, { ref := ⟨0, 0, 0⟩, engine := .copy, op := .cpy, f := {}, k := 1, ti := 0x80000000, vi := 0, tag := 1, ns := false
                 service := false })] })
/-- Arrivals of another scope or count than the open phase's are illegal, and so are those of another than one left to be counted. -/
theorem witness_NamedBarriers_late :
    (let w := withBar { ph := 7, scp := .b, exp := 2, cnt := 1 }
     let z := fibre tState (fun x => { x with arrivals := [{ sc := .b, n := 1, cnt := 3, drop := false, at' := 0, cmds := [] }] })
     [.bara, Op.bars].all (fun o => let d := if o = .bara then u 8 else .none
        meets o (barF d 3) w (fun c => decide ¬ legalArrival c 3) && meets o (barF d 2) z (fun c => decide ¬ legalArrival c 2) &&
        meets o (barF d 2) tBusy (fun c => decide (legalArrival c 2) && !c.arrivesNow .b && decide (c.vb 0 = 2) &&
          (c.fib.phases.find c.pc.toNat).isNone && (o != .bara || decide (c.d.us 1 ≠ [])))) &&
      meets .barx { barF .none 0 with b := .none } tBusy (fun c => decide (legalArrival c 0) && !c.arrivesNow .b) &&
      meets .barx { barF .none 0 with b := .none } w (fun c => decide ¬ legalArrival c 0)) = true := by decide +kernel

/-! ## Witnesses: the cluster and the die -/

/-- A cluster of two blocks on cores 0 and 1. -/
def clus (s : State) : State :=
  let b := { s.block 0 with csize := 2, task := 3 }
  { s with blocks := [(0, b), (1, { b with rank := 1, core := 1, ix := 1 })], nextBlk := 2 }
/-- A remote reduction to the other member's word `off`, and an earlier one to `off2`. -/
def tRem (off off2 : Nat) : State :=
  let q (o : Nat) : RemRed := { ref := ⟨0, 0, 0⟩, blk := 1, off := o, aop := 0, ty := .n32, lanes := [(0, 5)] }
  { clus tState with remreds := [(0, q off2), (1, q off)], nextRem := 2, arg := { id := 1 } }

/-- Lanes at the first word of rank 0 and at the last of rank 1; requests that do not meet. -/
theorem witness_RemoteReductions :
    ([(0, 8), (2 ^ 21 + 0x8000 - 64, 4)].all (fun e => meets .redr (winF (v 8) (mems .n32 .c .rlx)) (withU (clus (tAddr e.2)) [(32, e.1)])
        (fun c => !c.poisoned && decide (calm c) &&
          c.lanes.all (fun l => remoteOk c l && decide ((laneAddr c false l).toNat % 2 ^ 64 % c.size = 0)))) &&
      (let s := tRem 4 8
       let e := s.remreds.get 1 default
       decide ((s.remreds.get 0 default).off = e.off + e.ty.bytes) && (s.block e.blk).st == .resident && !(s.block e.blk).ending &&
         !(s.block e.blk).failed && (s.core 1).uniPoison.isEmpty)) = true := by decide +kernel

/-- The parameters of KICKCFG.open. -/
def tKick (rb bs nb q : Nat) : State := withU tHome [(32, rb), (33, bs), (34, nb), (35, q)]
/-- Are they sound? -/
def kickOk (s : State) (c : Ctx) : Bool :=
  decide (paramWord c 0 % 32 = 0 ∧ paramWord c 1 % 32 = 0 ∧ 32 ≤ paramWord c 1 ∧ paramWord c 1 ≤ 65536 ∧ 1 ≤ paramWord c 2 ∧
    paramWord c 2 ≤ 64 ∧ paramWord c 3 ≤ 7 ∧ paramWord c 0 + paramWord c 2 * (paramWord c 1 + 32) ≤ c.blk.sspan ∧
    (kickOf s c.blk.core (paramWord c 3)).owner = none)
/-- Kick queue 3 is open, with 4 buffers of which `free` are free; s16 names it, s32 holds 2. -/
def tOpen (free : Nat) (pend : List Notice := []) : State :=
  setKick (withU tHome [(16, 3), (32, 2)]) 0 3
    { owner := some 0, fib := ⟨0, 0, 0⟩, k := 1, gen := 1, rbase := 0x20, bufsz := 64, nbuf := 4, free := free, pend := pend }
/-- A notice of block 0. -/
def aNotice (len : Nat) : Notice :=
  { core := 0, cmd := 0, ia := 0x200040, len := len, uword := 5, tn := 0x80000000, vi := 0, tag := 1, ns := false }

theorem witness_QueuesAndNotices_queues :
    ([(0x20, 64, 4, 3, true), (0, 32, 64, 7, true), (0x20, 64, 64, 3, true), (0x21, 64, 4, 3, false), (0x20, 65568, 4, 3, false),
        (0x20, 64, 65, 3, false), (0x20, 64, 0, 3, false), (0x20, 64, 4, 8, false)].all (fun e =>
        let s := tKick e.1 e.2.1 e.2.2.1 e.2.2.2.1
        plain .kickcfgOpen (sm .kickcfgOpen) s (fun c => kickOk s c == e.2.2.2.2)) &&
      [(2, true), (3, false)].all (fun e => plain .kickcfgFree (sm .kickcfgFree) (tOpen e.1) (fun c =>
        let x := kickOf (tOpen e.1) c.blk.core (c.va 0)
        x.owner == some c.r.blk && decide (c.va 0 ≤ 7) && (decide (c.vb 0 ≤ x.nbuf - x.free) == e.2))) &&
      plain .kickcfgClose (sm .kickcfgClose) (tOpen 1 [aNotice 64]) (fun c =>
        (kickOf (tOpen 1) c.blk.core (c.va 0)).owner == some c.r.blk) &&
      plain .kickcfgClose (sm .kickcfgClose) tHome (fun c => (kickOf tHome c.blk.core (c.va 0)).owner.isNone)) = true := by
  decide +kernel

/-- NOTIFY of `len` bytes at `va` to queue 3. -/
def tNotify (va len : Nat) : State := withU (tOpen 4) [(16, 3 * 2 ^ 10), (17, 1), (32, va), (33, 0), (34, len), (35, 0x55)]
/-- A notice on its way: its generation, its VI and what waits at the queue. -/
def tSent (gen hvi waiting : Nat) (ret : Option Nat) : State :=
  { tOpen 4 (List.replicate waiting (aNotice 64)) with
    now := 1000, arg := { id := 0 }, nextNotice := 1
    notices := [(0, { n := aNotice 64, core := 0, queue := 3, gen := BitVec.ofNat 16 gen, hvi := hvi, returned := ret })] }
/-- The command of a notice. -/
def aCmd : Cmd :=
  { ref := ⟨0, 0, 0⟩, engine := .copy, op := .notify, f := {}, k := 1, ti := 0x80000000, vi := 0, tag := 1, ns := false, service := false }
/-- A notice of `len` bytes waits at the queue, and its command stands. -/
def tLand (len : Nat) : State :=
  { (tOpen 1 [aNotice len]).modCore 0 (fun c => { c with cmds := [(0, aCmd)], nextCmd := 1 }) with arg := { core := 0, index := 3 } }
theorem witness_QueuesAndNotices_notices :
    ([(0x100040, 64), (0x100000, 4), (0x10FFFC, 4)].all (fun e => meets .notify (sm .notify) (tNotify e.1 e.2) (fun c =>
        let h := c.va 0
        let va : Nat := paramWord c 0 + paramWord c 1 * 2 ^ 32
        let len := paramWord c 2
        c.mayCommand .copy && decide (canRelease c .d) && decide (len % 4 = 0 ∧ 4 ≤ len ∧ len ≤ 65536 ∧ h / 2 ^ 48 % 2 ^ 16 = 0 ∧
          h / 2 ^ 22 % 2 ^ 10 = 0 ∧ h / 2 ^ 13 % 8 = 0 ∧ h % 16 ≤ 5 ∧ h / 16 % 64 ≤ 31 ∧ va % 4 = 0 ∧ va + len ≤ 2 ^ 57) &&
          good ((tNotify e.1 e.2).enginePieces c.blk 0 va len Range.r) &&
          (vaRange c.blk va).any (fun g => g.r && (g.ns || !c.blk.ns) && decide (va + len ≤ g.vabase + g.gran * 65536)))) &&
      [(1, 0, 0), (1, 0, 63), (1, 0, 64), (2, 0, 0), (1, 5, 0)].all (fun e => let s := tSent e.1 e.2.1 e.2.2 none
        (s.notices.find 0).any (fun p => p.returned.isNone && !s.noticeBehind 0 p)) &&
      ((tSent 1 0 0 (some 300)).notices.find 0).any (fun p => decide (p.returned = some 300)) &&
      [64, 68].all (fun n => let s := tLand n
        let q := kickOf s 0 3
        q.owner == some 0 && q.landing.isNone && decide (0 < q.free) && ((s.core 0).cmds.find 0).isSome && q.pend.any (fun p =>
          (p.ia, p.len) == (0x200040, n) && match s.iaPieces { s.block 0 with core := 0 } p.ia p.len (s.lineHome (p.ia / 128)).ns with
            | .ok ps => (s.clearing 0 p.tn ps false).isNone
            | .error _ => false))) = true := by decide +kernel

/-- A landing has been read: in the second event it is copied, sound or not, or after its queue has closed and opened anew. -/
theorem witness_QueuesAndNotices_landing :
    [(0, 1), (2, 1), (0, 2)].all (fun e =>
      let x : Landing := { n := aNotice 64, gen := BitVec.ofNat 16 e.2, core := 0, buf := 0x10020, bufsz := 64, head := 0x10120
                           status := e.1, seq := 1, fib := ⟨0, 0, 0⟩, k := 1 }
      let s := setKick (tOpen 1) 0 3 { kickOf (tOpen 1) 0 3 with landing := some x }
      (kickOf s 0 3).landing.any (fun x => decide (x.status = e.1) && decide (x.gen = BitVec.ofNat 16 e.2))) = true := by
  decide +kernel

/-- Two dies, whose homes take lines in turn. -/
def twoDie (s : State) : State :=
  { s with boot := { s.boot with dies := 3, slices := [(0, 1), (1, 1)], coreMask := s.boot.coreMask.set 1 (BitVec.allOnes 33) } }
/-- MIGRATE to `va`. -/
def tMig (va : Nat) : State := withU tHome [(16, va % 2 ^ 32), (17, va / 2 ^ 32)]
/-- The die of the home of 0x100080. -/
def farDie : Nat := ((twoDie tHome).home 0x200080).1
/-- Is the home at that die? -/
def homeAt (s : State) (d : Nat) (c : Ctx) : Bool :=
  decide (c.blk.warps.length = 1 ∧ c.blk.csize ≤ 1) && c.fib.sec.isNone && decide (c.va 0 < 2 ^ 57) &&
    (vaRange c.blk (c.va 0)).any (fun g => (g.ns || !c.blk.ns) && decide ((s.home (g.iabase + (c.va 0 - g.vabase))).1 = d))
theorem witness_MigrationAndWaits_migrate :
    (let far := twoDie (tMig 0x100080)
     let full := far.modDie 1 (fun d => { d with landed := 16 })
     farDie == 1 && plain .migrate (sm .migrate) (tMig 0x100000) (homeAt (tMig 0x100000) 0) &&
       plain .migrate (sm .migrate) far (fun c => homeAt far 1 c && decide ((far.die 1).landed < 16) && !c.blk.stopping) &&
       plain .migrate (sm .migrate) full (fun c => homeAt full 1 c && decide ((full.die 1).landed = 16)) &&
       plain .migrate (sm .migrate) (tMig 0x300000) (fun c => (vaRange c.blk (c.va 0)).isNone) &&
       plain .migrate (sm .migrate) (fibre (tMig 0x100000) (fun f => { f with sec := some (0x500, 0) })) (fun c => c.fib.sec.isSome) &&
       plain .migrate (sm .migrate) (clus (tMig 0x100000)) (fun c => decide (1 < c.blk.csize))) = true := by decide +kernel
/-- An address pair in s16:17. -/
def tWait (a : Attr) : State := withU (homed (tAddr 8) a) [(16, 0x100040), (17, 0), (32, 5)]
theorem witness_MigrationAndWaits_waits :
    (plain .waita (sm .waita) (fibre tHome (fun f => { f with phases := [(0x1000, .got 0x1234)] })) (fun c =>
        c.fib.phases.find c.pc.toNat == some (.got 0x1234)) &&
      [Attr.leased, .priv].all (fun a => let s := tWait a
        plain .waita (sm .waita) s (fun c =>
          let ps := okD (s.enginePieces c.blk 0 (c.va 0) 1 Range.r) []
          let p := ps.headD default
          good (s.enginePieces c.blk 0 (c.va 0) 1 Range.r) && (c.fib.phases.find c.pc.toNat).isNone && decide (c.va 0 % c.size = 0) &&
            !c.fib.watched (c.va 0) c.size true false && !s.memHeld c.r true && !s.lineBusy c.r [p.place / 128] true && (p.attr == a) &&
            !(s.readPiece c.blk.core c.fib.ptime { p with n := c.size }).2.1.any Prod.snd) &&
        meets .wakea (sm .wakea) s (fun c => good (s.enginePieces c.blk 0 (c.va 0) 1 Range.w) && decide (canRelease c (sm .wakea).x.scope) &&
          (a == .priv || s.permitFree c.blk.core (0x200040 / 128)))) &&
      [0, 2 ^ 20, 2 ^ 20 + 1].all (fun n => meets .ptadv (sm .ptadv) (withU tHome [(32, n)]) (fun c => decide (c.vb 0 = n)))) = true := by
  decide +kernel

/-! ## Witnesses: homes, requests, memory and time -/

/-- The line that the tests look at, and a request for it. -/
def aLine : Nat := 0x4001
def aReq (k : ReqKind) (far : Bool := false) : Req :=
  { core := if far then 33 else 0, ref := ⟨0, 0, 0⟩, line := aLine, ns := false, vi := 0, tag := 1, kind := k }
/-- The request 5 is under way. -/
def withRq (s : State) (q : Req) : State := { s with reqs := [(5, q)], arg := { id := 5, line := aLine } }
/-- The home copy of the line. -/
def homeCopy (s : State) : Home := s.homes.get aLine default
/-- The home copy changed. -/
def setHm (s : State) (g : Home → Home) : State := { s with homes := s.homes.set aLine (g (homeCopy s)) }
/-- The conditions of `AtHome`. -/
def atHome (s : State) (q : Req) : Bool :=
  decide (s.reqs.find 5 = some q) && q.reply.isNone && s.permitted 5 q && !s.behind 5 q && !s.flipping (q.line * 128) && (s.homes.find q.line).isSome && !isIdentity (q.line * 128) &&
    !isHostWindow (q.line * 128) && (!(s.block q.ref.blk).ns || (homeCopy s).ns) &&
    ((homeCopy s).attr != .priv || decide (s.owners.get (q.line / 512) 0 = q.core))
/-- A machine of two dies whose line has its home on die 1. -/
def tFar : State := twoDie (homed tState)
/-- A waiter for the line on the die. -/
def waiter : Waiter := .fibre ⟨0, 0, 0⟩ 0

/-- Grants near and far, an ordered one with a copy to replace and without; writes and atomics at a clean sector and at a poisoned one; registrations with and without a waiter. -/
theorem witness_HomeOperations :
    ([(homed tState, false), (tFar, false), (tFar, true), (setHm tFar (fun h => { h with valid := 5 }), false)].all (fun e =>
        [Lease.predicted, .short, .long, .noAlloc].all (fun l => [true, false].all (fun ord =>
        let q := { aReq (.read 0x80000002 l ord) e.2 with fwd := !ord }
        let s := withRq e.1 q
        let x := leaseRule l (homeCopy s).attr (homeCopy s).c
        atHome s q && (!comesFar s q (homeCopy s) || q.fwd || ord) &&
          decide (roomFor s (tmax (homeCopy s).rt (tmax 0x80000002 (homeCopy s).wt + BitVec.ofNat 64 (x.1 - 1))))))) &&
      (let q := aReq (.read 0x80000002 .short true)
       let s := (withRq tFar q).modDie 0 (fun d => { d with copies := [(aLine, { ver := { data := 3 } })] })
       atHome s q && comesFar s q (homeCopy s) && ((s.die 0).copies.find aLine).isSome) &&
      comesFar tFar (aReq .register) (homeCopy tFar) && !comesFar tFar (aReq .register true) (homeCopy tFar) &&
      [0, 1, 15].all (fun (p : BitVec 4) => let s0 := setHm (homed tState) (fun h => { h with poison := p })
        let w := aReq (.write [(3, 9), (127, 1)] 0x80000000 (some 1) false)
        let a := aReq (.atomic 124 0 .n32 [(0, 5, 6)] 0x80000002 true)
        atHome (withRq s0 w) w && atHome (withRq s0 a) a && !s0.bridge.filter.contains aLine &&
          decide (roomFor s0 (tmax 0x80000002 ((homeCopy s0).rt + 1))) && (s0.l1 0 (2 * aLine)).isNone) &&
      [[], [(aLine, [waiter])]].all (fun ws => let q := aReq .register
        atHome (withRq ((homed tState).modDie 0 (fun d => { d with waits := ws })) q) q)) = true := by decide +kernel

/-- A copy of the line on the requester's die. -/
def withCopy (cp : Map Copy) (q : Req) : State := withRq (tFar.modDie 0 (fun d => { d with copies := cp })) q
/-- The reply to a read. -/
def aReply (a : Attr) : Reply := { ver := { data := 77, wt := 0x80000000, rt := 0x80000020 }, attr := a }
/-- A sector of the core's line, clean or dirty. -/
def withSec (x : Sector) : State :=
  { (withL1 tHome .leased).modCore 0 (fun c => { c with l1 := c.l1.mapVal (fun _ l => l.setSec 3 x) }) with
    arg := { core := 0, line := 0x4000, sector := 3 } }
theorem witness_RequestsUnderWay :
    ([(([] : Map Copy), false), ([(aLine, { ver := { wt := 0x7FFFFFFF, rt := 0x80000000 } })], true),
      ([(aLine, { ver := { wt := 0x80000001, rt := 0x80000010 }, valid := 3 })], false)].all
        (fun e => let q := aReq (.read 0x80000000 .short false)
        let s := withCopy e.1 q
        s.permitted 5 q && s.farLine 0 aLine && (((s.die 0).copies.find aLine).any (fun x => within x.ver.wt 0x80000000 x.ver.rt) == e.2)) &&
      [Attr.leased, .manual].all (fun a => let q := { aReq (.read 0x80000000 .predicted false) with reply := some (aReply a), pend := some 0 }
        let s := withRq tHome q
        (aReply a).ok && !q.marked && ((s.fib q.ref).waitaFor 5).isNone && (a != .priv)) &&
      [4, 5].all (fun n => [ReqKind.read 0x80000000 .short false, .write [(3, 5)] 0x80000000 none false].all (fun k =>
        let q := { aReq k with sends := n }
        let s := { withRq tHome q with now := 35000 }
        decide (q.sentAt + 50 * 700 ≤ s.now) && s.permitted 5 q && ((s.fib q.ref).waitaFor 5).isNone)) &&
      [0, 1].all (fun (d : BitVec 32) => let s := withSec { valid := true, dirty := d, slots := 1, stamp := 0x80000000 }
        (s.l1 0 (2 * 0x4000)).any (fun l => (l.sec 3).dirty == d && decide ((l.sec 3).wb = 0)) && (s.slotBlock 0 1).isSome)) = true := by
  decide +kernel

/-- An eviction on its way to its chiplet. -/
def tEvict (rt : Time) : State :=
  { homed tState with evicts := [(0, { line := aLine, pa := 0x1000080, data := 5, dirty := 5, poison := 4, rt := rt })], arg := { id := 0 } }
/-- Walks of a table of four levels at 0x10000000 for the page of IA 0x200000. -/
def w8 (pa x : Nat) : List (Nat × Byte) :=
  ((leBytes 8 x).zipIdx.map (fun e => (pa + e.2, e.1))).filter (fun e => e.2 ≠ 0)
def ptMem : Memory :=
  w8 0x10000000 (1 + 0x10010000) ++ w8 0x10010000 (1 + 0x10020000) ++ w8 0x10020008 (1 + 0x10030000) ++ w8 0x10030000 (3 + 4 * 2 ^ 3 + 0x100 * 2 ^ 32)
/-- The tables stand in memory. -/
def paged (s : State) : State := { s.modChiplet 6 (fun x => { x with ttroot := 0x10000001, tlb := [] }) with mem := ptMem }
theorem witness_HomesAndMemory :
    ((homeCopy tHome).pins == 0 && (tHome.homes.find aLine).isSome && (tHome.core 0).cmds.isEmpty && (tHome.core 0).kicks.isEmpty &&
      (let s := { homed tState with homes := [(aLine, homeCopy tHome)] }
       let m := s.setMates (s.home (aLine * 128)) aLine
       m.1.isEmpty && m.2.isEmpty && s.hasRoom (s.home (aLine * 128)) aLine) &&
      [((0x80080000 : Time), false), (0x80080001, true)].all (fun e => let s := tEvict e.1
        (s.evicts.find 0).any (fun x => (!tle x.rt ((s.chiplet (s.chipletOf x.pa)).seen + 0x80000)) == e.2)) &&
      [identityIa 0, identityIa 0x10000, identityIa (2 ^ 18 * tHome.groups - 128)].all (fun a =>
        let s := homed tState .leased 8
        (s.homes.find (a / 128)).isNone && s.evicts.isEmpty && !s.setFull (s.home (a / 128 * 128)) (a / 128) && isIdentity (a / 128 * 128) &&
          decide (a / 128 * 128 % 2 ^ 44 / 2 ^ 18 < s.groups)) &&
      (let s := { paged tState with arg := { ia := 0x20FFFF, chiplet := tState.chipletOf 0x20FFFF } }
       decide (s.chipletOf 0x20FFFF = s.arg.chiplet) && !isIdentity 0x20FFFF && !isMapIa 0x20FFFF && (match s.translate 0x20FFFF with | .ok _ => true | _ => false))) = true := by
  decide +kernel

/-- Of n + 1 numbers below n two are equal. -/
theorem two_equal (n : Nat) (f : Nat → Nat) (h : ∀ i ≤ n, f i < n) : ∃ i j, i ≤ n ∧ j ≤ n ∧ i ≠ j ∧ f i = f j := by
  induction n generalizing f with
  | zero => exact absurd (h 0 (Nat.le_refl 0)) (Nat.not_lt_zero _)
  | succ n ih =>
    by_cases hx : ∃ i, i ≤ n ∧ f i = f (n + 1)
    · obtain ⟨i, hi, e⟩ := hx
      exact ⟨i, n + 1, by omega, by omega, by omega, e⟩
    · have no (i : Nat) (hi : i ≤ n) : f i ≠ f (n + 1) := fun e => hx ⟨i, hi, e⟩
      have top := h (n + 1) (Nat.le_refl _)
      obtain ⟨i, j, hi, hj, hij, e⟩ := ih (fun i => if f i = n then f (n + 1) else f i) (fun i hi => by
        have h1 := h i (by omega)
        have h3 := no i hi
        show (if f i = n then f (n + 1) else f i) < n
        split <;> omega)
      have hi' := no i hi
      have hj' := no j hj
      refine ⟨i, j, by omega, by omega, hij, ?_⟩
      change (if f i = n then f (n + 1) else f i) = (if f j = n then f (n + 1) else f j) at e
      split at e <;> split at e <;> omega
/-- A slice that holds 16 entries of the line `i`, pinned. -/
def tFull (i : Nat) : State := { tState with homes := List.replicate 16 (i, { pins := 1 }) }
theorem tFull_home (i a : Nat) : (tFull i).home a = (0, 0) := by
  have h : (tFull i).liveSlices = [(0, 0)] := show tState.liveSlices = [(0, 0)] by decide
  unfold State.home
  rw [h]
  simp [Nat.mod_one]
/-- Some line's set is then full of pinned lines. -/
theorem witness_HomesAndMemory_full : ∃ (s : State) (line : Nat),
    s.homes.find line = none ∧ s.hasRoom (s.home (line * 128)) line = false := by
  obtain ⟨i, j, -, -, hij, e⟩ := two_equal Config.l2Sets (fun k => Config.l2Set k % Config.l2Sets)
    (fun i _ => Nat.mod_lt _ (by decide))
  have k : ((tFull i).die 0).copies = [] := show (tState.die 0).copies = [] by decide
  refine ⟨tFull i, j, ?_, ?_⟩
  · simp [tFull, Map.find, List.replicate, hij]
  · simp only [State.hasRoom, State.setFull, State.victim, State.setMates, tFull_home, k]
    simp [tFull, List.replicate, hij, e, Config.l2Ways, stalest]

/-- A step of the horizon has been asked for. -/
def tStep (swept : List Nat) (die : Nat) : State :=
  { fibre tFar (fun f => { f with ptime := 0x10000000, k := [(1, { kt := 0x10000000 })] }) with stepReq := true, swept := swept, arg := { die := die } }
/-- The line of the core that an error strikes. -/
def tErr (index : Nat) (l1 : Bool) : State :=
  { (if l1 then withL1 tHome .leased else tHome) with arg := { ecc := .uncorrectable, core := 0, index := index, line := 0x4000, sector := 2 } }
theorem witness_TimeAndErrors :
    ([true, false].all (fun r => let s := tHome.modChiplet 6 (fun x => { x with reporting := r })
        (s.chiplet 6).reporting == r) &&
      [0, 5, 6].all (fun d => let s := tStep [1] d
        s.stepReq && !s.swept.contains s.arg.die) &&
      ((tStep [] 0).hasFib ⟨0, 0, 0⟩ && ((tStep [] 0).block 0).st == .resident && decide (((tStep [] 0).home (0x4000 * 128)).1 = 0)) &&
      (let s := tStep [0, 1, 6] 0
       (s.liveDies ++ s.liveChiplets).all (fun d => s.swept.contains d)) &&
      [EccResult.clean, .corrected, .uncorrectable].all (fun e => decide (({ tHome with arg := { ecc := e } } : State).arg.ecc = e)) &&
      (let s : State := { tHome with arg := { flag := true, chiplet := 6 }, now := 3600000000 * 24 * 700 }
       decide ((s.chiplet 6).scrubAt + 3600000000 * s.boot.scrubH * 700 ≤ s.now)) &&
      [0x4000, 0x5FFF].all (fun i => let b := (tErr i false).block 0
        b.core == 0 && b.st == .resident && decide (b.sbase ≤ 4 * i ∧ 4 * i < b.sbase + b.sspan)) &&
      (let s := tErr 0x6000 true
       !s.wordOwned 0 0x6000 false && (s.l1 0 (2 * 0x4000)).isSome) &&
      (let s := setHm tHome (fun h => { h with dirty := 4 })
       (homeCopy s).dirty.getLsbD 2 && !(homeCopy s).dirty.getLsbD 1) &&
      (let q := { aReq (.read 0x80000000 .short false) with reply := some (aReply .leased) }
       decide (((withRq tFar q).home (aLine * 128)).1 ≠ q.core / 33)) && ((tEvict 0x80000000).evicts.find 0).isSome) = true := by decide +kernel

/-! ## Witnesses: issue, faults and events of fibres -/

/-- What the first checks find: 0 an illegal field, 1 a service form, 2 a false guard, 3 an index, 4 a hazard, 5 nothing. -/
def issueCase (o : Op) (f : Ins) (s : State) : Nat :=
  let r := s.cur.ref
  let path := (s.fib r).issuePath s.cur.pc
  let b := s.block r.blk
  if s.mayIssue r s.cur.pc = false ∨ (s.fib r).ra.isSome then 9
  else if (s.illegalBit b.service o f).isSome then 0
  else if o.cls = .s ∧ b.service = false then 1
  else if (s.warp r.blk r.warp).hazard r.fib [] [] (guardUse o f) path then 8
  else if s.activeSet r o f path = 0 then 2
  else match ctxLocs s r o f with
    | .error _ => 3
    | .ok (d, a, b', x) =>
      let c := s.ctx o f d a b' x
      if (s.warp r.blk r.warp).hazard r.fib c.regsV c.regsU (predUse o f) (if clsUniform o.cls then BitVec.allOnes 64 else s.activeSet r o f path)
      then 4 else 5
/-- An addition to v8 whose result is outstanding. -/
def addF : Ins := { d := v 8, a := v 16, b := .imm 5, x := mods 0 .none .none .n32 }
/-- A load of v8 is outstanding. -/
def tMiss (o : Op) (f : Ins) : State := after (exec (o.instr f) tHome)
theorem witness_IssueChecks :
    (issueCase .iadd { addF with hnt := { br := .likely } } tState == 0 && issueCase .halt {} tState == 1 &&
      issueCase .iadd { addF with grd := { pred := 3 } } tState == 2 && issueCase .iadd { addF with d := v 64 } tState == 3 &&
      issueCase .iadd { addF with d := v 63 } tState == 5 &&
      (let s := tMiss .ldg (globF .b32)
       issueCase .iadd { addF with d := v 9, a := v 8 } { s with cur := { s.cur with pc := 0x100C } } == 4) &&
      tState.mayIssue tState.cur.ref tState.cur.pc) = true := by decide +kernel

/-- A fault outside trap mode with an entry and without, in trap mode, and the end of a task's blocks. -/
theorem witness_TakingFaults :
    ([tState, withEntry tState, tTrap 0, tTrap 0x605].all (fun s => s.hasFib ⟨0, 0, 0⟩ && (s.fib ⟨0, 0, 0⟩).ra.isNone) &&
      !(tState.fib ⟨0, 0, 0⟩).trap && (tState.block 0).trapEntry.isNone && ((withEntry tState).block 0).trapEntry.isSome) = true ∧
    ((tTrap 0).fib ⟨0, 0, 0⟩).trap = true ∧ ((clus tState).blocks.find 1).isSome = true ∧
      ((clus tState).block 1).task = ((clus tState).block 0).task := by decide +kernel

/-- The page's first lines as code at VA 0. -/
def tCode : State :=
  let s := homed (tState.modBlock 0 (fun b => { b with ranges := b.ranges.map (fun r => { r with vabase := 0 }) }))
  { putH s 0x1000 ((List.range 12).map (fun i => BitVec.ofNat 8 (i * 17))) with arg := { ref := ⟨0, 0, 0⟩, pc := 0x1000 } }
/-- The conditions of `CodeAt` for the word at VA 0x1000, at IA 0x201000. -/
theorem witness_code : CodeAt tCode (tCode.block 0) 0x1000 (fun i => 0x201000 + i) := by
  intro i hi
  have h : ∀ i < 12, (∀ g, vaRange (tCode.block 0) (0x1000 + i) = some g → g.x = true ∧ (g.ns = true ∨ (tCode.block 0).ns = false) ∧
      0x201000 + i = g.iabase + (0x1000 + i - g.vabase)) ∧ (vaRange (tCode.block 0) (0x1000 + i)).isSome = true ∧
      good (tCode.pageOf (tCode.block 0) (0x201000 + i)) = true ∧ tCode.homeReady ((0x201000 + i) / 128) false = true ∧
      tCode.iaPoison (0x201000 + i) = false := by decide +kernel
  obtain ⟨h1, h2, h3, h4, h5⟩ := h i hi
  obtain ⟨g, hg⟩ := Option.isSome_iff_exists.mp h2
  refine ⟨by simp only [BitVec.reduceToNat]; omega, ⟨g, hg, h1 g hg⟩, ?_, h4, h5⟩
  show ∃ a, tCode.pageOf (tCode.block 0) (0x201000 + i) = .ok a
  cases hp : tCode.pageOf (tCode.block 0) (0x201000 + i) with
  | ok a => exact ⟨a, rfl⟩
  | error e => simp [hp, good] at h3

/-- A result outstanding, with a flag that is enabled where `fpcs` says so. -/
def tResult (fpcs : Word) (st : FState) : State :=
  { (fibre tState (fun f => { f with fpcs := fpcs, st := st })).modWarp 0 0 (fun w =>
      { w with pend := [(4, { fib := 0, dv := [], entries := 1, since := 0, body := .result [.vreg 8 0 5, .flags 3] })] }) with
    arg := { ref := ⟨0, 0, 0⟩, id := 4 } }
/-- Is entry `id` a load that has all it asked for? -/
def loadOk (s : State) (id : Nat) : Bool :=
  ((s.warp 0 0).pend.find id).any (fun p => match p.body with
    | .load l => l.refused.isNone && !l.failed && l.reqs.isEmpty && (l.space == .global) && !l.poisoned && (s.fib ⟨0, 0, 0⟩).ra.isNone &&
        (s.warp 0 0).pend.all (fun e => decide (id ≤ e.1)) && (if l.op = .ldg then l.accs.all (fun a => match s.laneRead ⟨0, 0, 0⟩ l a with | some (_, _, bad) => !bad | none => false)
         else l.accs.all (fun a => a.attr != .priv))
    | _ => false)
/-- An access's requests performed at the home and answered. -/
def answered (s : State) (ev : Instr) : State :=
  (s.reqs.map Prod.fst).foldl (fun s id =>
    let t := after (exec ev { s with arg := { id := id } })
    after (exec .requestReply { t with arg := { id := id } })) s
/-- The fibre stands behind a load, alone in its slot. -/
def tBehind : State :=
  let s := fibre (tMiss .ldg (globF .b32)) (fun f => { f with
    raOn := true, raC := 16, stuck := [0x100C], stall := some ⟨0x100C, .iadd, { addF with d := v 9, a := v 8 }⟩ })
  { s.modWarp 0 0 (fun w => { w with fibs := w.fibs.take 1 }) with arg := { ref := ⟨0, 0, 0⟩, pc := 0x100C }, now := 5000 }
theorem witness_ResultsAndFibreEvents :
    (tCode.mayIssue ⟨0, 0, 0⟩ 0x1000 && tCode.leads ⟨0, 0, 0⟩ 0x1000 &&
      [(0, FState.active), (0xFFFFFFFF, .active), (0xFFFFFFFF, .frozen)].all (fun e => let s := tResult e.1 e.2
        ((s.warp 0 0).pend.find 4).any (fun p => decide (p.body = .result [.vreg 8 0 5, .flags 3])) &&
          (s.fib ⟨0, 0, 0⟩).ra.isNone) &&
      loadOk (answered (tMiss .ldg (globF .b32)) .homeGrant) 0 &&
      loadOk (answered (tMiss .atomg (globF .n32 .c .acq)) .homeAtomic) 0 &&
      (let s := fibre tState (fun f => { f with quantum := 256 })
       (s.fib ⟨0, 0, 0⟩).st == .active && s.otherReady ⟨0, 0, 0⟩) &&
      decide ((10 : Nat) + 65536 ≤ 65546) && ((fibre tState (fun f => { f with sec := some (0x500, 10) })).fib ⟨0, 0, 0⟩).sec.isSome &&
      [(0, 1), (1, 1), (3, 3)].all (fun e =>
       let s : State := { fibre tState (fun f => { f with st := .frozen, frozenFor := 1 }) with now := e.2 * 1000 * 700 }
       let s : State := s.modVi 0 (fun v => { v with freezelim := BitVec.ofNat 16 e.1 })
       let f := s.fib ⟨0, 0, 0⟩
       let ms := (s.vi 0).freezelim.toNat
       decide ((if ms = 0 then 1 else ms) * 1000 * 700 < s.now - f.frozenAt + f.frozenFor) && (s.block 0).st == .resident && !(s.block 0).ending)) =
    true := by decide +kernel
/-- The same beside a Ready fibre, with a predicate outstanding. -/
def tBeside : State :=
  tBehind.modWarp 0 0 (fun w => { w with
    fibs := w.fibs ++ [{ tFib with st := .ready }]
    pend := w.pend ++ [(9, { fib := 0, dp := [(3, 0xFF)], entries := 1, since := 4999, body := .result [.pred 3 0 true] })] })
theorem witness_runahead :
    [tBehind, tBeside].all (fun s =>
     let r : FRef := ⟨0, 0, 0⟩
     let f := s.fib r
     (s.trigger r).any (fun id => s.stalledOn r id 0x100C) && s.feature (s.block 0).service 3 &&
       f.st == .active && !f.trap && f.raOn && decide (f.raC ≠ 0) && f.ra.isNone && decide (f.quantum < 256) && !s.held r &&
       f.pcs.all f.stuck.contains) = true := by decide +kernel
theorem witness_LateResults :
    (let s : State := { tOnes with cur := { tOnes.cur with late := true } }
     intForms.all (fun o => meets o (sm o) s (fun c => !c.poisoned && c.late && decide (fpcsEnables c.fib.fpcs = 0) &&
        !(c.laneRes (intRule o (sm o))).effs.isEmpty)) &&
      bitForms.all (fun o => meets o (sm o) s (fun c => !c.poisoned && c.late && decide (fpcsEnables c.fib.fpcs = 0) && !(c.laneRes (bitRule o (sm o))).effs.isEmpty)) &&
      moveForms.all (fun o => meets o (sm o) s (fun c => !c.poisoned && c.late && decide (fpcsEnables c.fib.fpcs = 0) &&
        (o == .vtop || !(c.laneRes (moveRule o (sm o))).effs.isEmpty)))) = true := by decide +kernel

/-- A copy descriptor. -/
def desc64 (sa da len n1 n2 ss ds s1 d1 : Nat) : List Byte :=
  leBytes 8 sa ++ leBytes 8 da ++ leBytes 4 len ++ leBytes 2 n1 ++ leBytes 2 n2 ++ leBytes 1 ss ++ leBytes 1 ds ++ leBytes 6 0 ++
    leBytes 8 s1 ++ leBytes 8 0 ++ leBytes 8 d1 ++ leBytes 8 0
/-- The copy engine has the command with a descriptor. -/
def withCmd (o : Op) (d : List Byte) : State :=
  { after (exec (o.instr (if o = .cpy then cmdF else { d := ctr1, a := u 40, b := v 16 })) (putH tHome 0 d)) with arg := { core := 0, id := 0 } }
/-- A copy of three rows of 16 bytes; one that fails a check; one that has started. -/
theorem witness_CommandSteps :
    ([(Op.cpy, desc64 0 0x7FB0 16 2 0 1 1 32 32, true), (.gath, desc64 0 0x1000 16 0 0 1 1 32 32, true),
        (.cpy, desc64 0 0x1000 16 2 0 9 1 32 32, false), (.scat, desc64 0 0x1000 0 0 0 1 1 32 32, false)].all (fun e =>
        let s := withCmd e.1 e.2.1
        ((s.core 0).cmds.find 0).any (fun m =>
          let d := copyDesc m.desc
          let rows := copyRows m d
          let b := s.block m.ref.blk
          (m.engine == .copy) && (m.op == e.1) && !m.started &&
            (decide (copyCheck m.op d (sext 64 m.b.toNat) (sext 64 m.c.toNat) = 0) == e.2.2) &&
            (!e.2.2 || (decide (d.ss = 1 ∧ d.ds = 1 ∧ b.core = 0) &&
              rows.all (fun r => decide (0 ≤ r.1 ∧ r.1 + d.len ≤ b.sspan ∧ 0 ≤ r.2 ∧ r.2 + d.len ≤ b.sspan) &&
                (List.range d.len).all (fun i => !s.storePoison 0 (b.sbase + r.1.toNat + i) false)) &&
              rows.all (fun r => rows.all (fun q => decide (r.1 + d.len ≤ q.2 ∨ q.2 + d.len ≤ r.1))))))) &&
      (((after (exec .commandStart (withCmd .cpy (desc64 0 0x1000 16 2 0 1 1 32 32)))).core 0).cmds.find 0).any (fun m =>
        m.started && m.reqs.isEmpty && m.runs.all (fun r => decide (r.kind ≠ 0)) && m.image.isNone)) = true := by decide +kernel

/-! ## Witnesses: tasks, service calls and interrupts -/

/-- Queues of VI 0: one with room, a full one, and one that is not enabled. -/
def tQueues : State := tHome.modVi 0 (fun v => { v with
  run := true, drained := false, maxprio := 100, evcfg := 5, evbase := 0x201000, fbcfg := 5, fbbase := 0x201100
  queues := [(5, { base := 0x200400, cap := 4, en := true, head := 1, tail := 3 }), (6, { base := 0x200C00, cap := 4, en := true, head := 4, tail := 3 }),
    (7, { base := 0x200400, cap := 4 })] })
/-- A task record. -/
def aRecord (prio warps : Nat) : List Byte :=
  leBytes 8 0x100000 ++ leBytes 8 0 ++ leBytes 8 0 ++ leBytes 8 0x100000 ++ leBytes 4 2 ++ leBytes 2 1 ++ leBytes 2 1 ++ leBytes 1 warps ++
    leBytes 1 1 ++ leBytes 1 0 ++ leBytes 1 prio ++ leBytes 2 1 ++ leBytes 2 0 ++ leBytes 8 0x90000000 ++ leBytes 8 0
/-- SPAWN with a record in s32 to s47. -/
def tSpawn (d : List Byte) : State := withU tQueues ((List.range 16).map (fun i => (32 + i, dfld d (4 * i) 4)))
/-- SPAWN from s32. -/
def spawnF : Ins := { d := .sp (.upred 2 false), b := u 32 }
/-- JOIN of `n` with COUNT `cnt` at 0x100080. -/
def tJoin (cnt n prio : Nat) : State :=
  withU (putH tQueues 0x80 (leBytes 4 cnt ++ List.replicate 60 0 ++ aRecord prio 1)) [(16, 0x100080), (17, 0), (32, n)]
/-- The conditions of JOIN with an aligned address. -/
def joinOk (s : State) (cnt n : Nat) : Bool :=
  meets .join (sm .join) s (fun c =>
    let ps := okD (s.enginePieces c.blk 0 (c.va 0) 1 (fun g => g.r && g.a)) []
    let p := ps.headD default
    let line := p.place / 128
    good (s.enginePieces c.blk 0 (c.va 0) 1 (fun g => g.r && g.a)) && decide (canRelease c .d) && decide (c.blk.vi < 64) &&
      decide (c.vb 0 % 2 ^ 32 = n) && decide (c.va 0 % 128 = 0) && !c.fib.watched (c.va 0) 128 true true && s.overflow.isEmpty &&
      !s.memHeld c.r false && !s.lineBusy c.r [line] false && (s.core 0).l1.isEmpty && !isIdentity (line * 128) &&
      !isHostWindow (line * 128) && !s.bridge.filter.contains line && !s.purging c.blk.vi c.blk.tag &&
      !s.flipping (line * 128) && s.permitFree c.blk.core line &&
      (s.homes.find line).any (fun x => let h := s.whole x
        decide (h.poison = 0) && decide (lineNat h.data 0 4 = cnt) && decide (roomFor s (tmax c.fib.ptime (h.rt + 1)))))
theorem witness_SpawnAndJoin :
    (!(tQueues.vi 0).drained &&
      [(5, true), (6, false), (7, false), (8, false)].all (fun e => let q := (tQueues.vi 0).queues.get e.1 {}
        (q.en && decide ((q.tail + 1) % 2 ^ q.cap ≠ q.head)) == e.2) &&
      [aRecord 100 1, aRecord 101 1, aRecord 5 17].all (fun d => d.length == 64 && !tQueues.purging 0 (taskRec d).tag) &&
      (let s : State := { tQueues with purges := [⟨0, 1, 3, 0, 0, 0, false⟩] }
       s.purging 0 (taskRec (aRecord 5 1)).tag) &&
      [(aRecord 5 1, false), (aRecord 127 1, false), (aRecord 6 1, false), (aRecord 5 17, true)].all (fun e =>
        meets .spawn spawnF (tSpawn e.1) (fun c => decide (canRelease c .d) && decide (c.blk.vi < 64) &&
          decide ((paramWords c 16).flatMap wordBytes = e.1) && ((taskRec e.1).bad == e.2) && !(tSpawn e.1).purging c.blk.vi c.blk.tag)) &&
      [(3, 1, 5), (3, 3, 5), (3, 3, 6), (3, 4, 5), (0, 1, 5)].all (fun e => joinOk (tJoin e.1 e.2.1 e.2.2) e.1 e.2.1) &&
      meets .join (sm .join) (tJoin 3 0 5) (fun c => decide (c.vb 0 % 2 ^ 32 = 0)) &&
      (let s := withU (tJoin 3 1 5) [(16, 0x1000FF)]
       meets .join (sm .join) s (fun c => good (s.enginePieces c.blk 0 (c.va 0) 1 (fun g => g.r && g.a)) && decide (c.va 0 % 128 = 127))) &&
      (let s : State := { tQueues with overflow := [(0, 1, aRecord 5 1, true), (0, 1, aRecord 6 1, false)] }
       (s.enqueue 0 (taskRec (aRecord 5 1)).prio (aRecord 5 1) true).isSome)) = true := by decide +kernel

/-- SVC with its replies at `va`. -/
def tSvc (va : Nat) : State := withU (homed (tAddr 8)) [(16, va), (17, 0)]
/-- A batch of the die, taken. -/
def tBatch : State :=
  let s := after (exec (.svc (sm .svc)) (tSvc 0x100100))
  { after (exec .serviceBatchStart { s with arg := { die := 0 } }) with arg := { die := 0, id := 0, value := 0x80000033, results := [(5, 6)] } }
/-- RECALL of pages, with an owner. -/
def tRecall (base count own : Nat) : State := svc (withU (homed tState) [(16, base % 2 ^ 32), (17, base / 2 ^ 32), (32, count), (33, own)])
/-- A recall of the page is at the head of the queue. -/
def tTurn (base : Nat) (attr : Option Attr := none) (begun : Option (List Nat) := none) : State :=
  { paged (homed tState .leased 8) with
    recalls := [{ ref := ⟨0, 0, 0⟩, k := 2, base := base, count := 1, toMem := false, attr := attr, owner := 0, begun := begun }] }
/-- Two cores hold a clean line of the page. -/
def twoCores (s : State) : State :=
  [0, 1].foldl (fun s n => s.modCore n (fun c => { c with l1 := [(2 * (0x200000 / 128) + 1, {})] })) s
/-- A recall that the queue comes to. -/
def turnOf' (s : State) (p : State → Recall → Bool) : Bool :=
  match s.recalls with | q :: _ => q.bias.isNone && !s.bridge.biasBusy && p s q | [] => false
/-- A flip of a page's bias. -/
def tBias (page : Nat) : State := { paged tState with arg := { index := page } }
theorem witness_ServiceForms_calls :
    ([0x100100, 0x10FE00, 0x100101].all (fun va => let s := tSvc va
        meets .svc (sm .svc) s (fun c => !c.poisoned && (c.fib.phases.find c.pc.toNat).isNone && decide (canRelease c .d) && !s.memHeld c.r false &&
          good (s.enginePieces c.blk 0 (c.va 0) (32 * c.blk.width) Range.w) && decide (c.va 0 + 32 * c.blk.width ≤ 2 ^ 57) &&
          (vaRange c.blk (c.va 0)).any (fun g => g.w && (g.ns || !c.blk.ns) && decide (c.va 0 + 32 * c.blk.width ≤ g.vabase + g.gran * 65536)) &&
          decide (((s.die 0).batches.filter (fun e => !e.2.started)).length < 256))) &&
      (let s := after (exec (.svc (sm .svc)) (tSvc 0x100100))
       ((s.die 0).batches.find? (fun e => !e.2.started)).isSome) &&
      ((tBatch.die 0).batches.find 0).any (fun q => q.started && !(tBatch.block q.ref.blk).stopping &&
        (lanesOf q.active).all (fun l => (runLines (q.ia + 32 * l) 32).all (fun n => tBatch.replyRoom (tmax q.ti tBatch.arg.value) n)) && (tBatch.block q.ref.blk).st == .resident &&
        !((tBatch.fib q.ref).st == .ended)) &&
      (({ tBatch with blocks := [] } : State).block 0).st == .gone) = true := by decide +kernel
theorem witness_ServiceForms_recalls :
    ([(0, 0x200000, 1, 0), (3, 0xFE * 2 ^ 44 - 65536, 1, 0), (2, 0x200000, 2 ^ 24, 32 * 16), (1, 0x20FFFF, 1, 0),
        (3, 0xFE * 2 ^ 44 - 65536, 2, 0), (3, 0xFE * 2 ^ 44 - 1, 1, 0)].all (fun e =>
        let s := tRecall e.2.1 e.2.2.1 e.2.2.2
        meets .recall { sm .recall with x := .recall true (BitVec.ofNat 2 e.1) } s (fun c =>
          let own := c.vb 0 / 2 ^ 32
          decide (c.va 0 = e.2.1) && decide (c.vb 0 % 2 ^ 32 = e.2.2.1) && decide (own = e.2.2.2) &&
            (e.1 != 2 || (decide (own < 2 ^ 10 ∧ own / 16 % 64 < 33) && s.coreLive (33 * (own % 16) + own / 16 % 64))) &&
            (decide (c.va 0 + 65536 * (c.vb 0 % 2 ^ 32) ≤ 0xFE * 2 ^ 44) == decide (e.2.1 + 65536 * e.2.2.1 ≤ 0xFE * 2 ^ 44)) && s.recalls.isEmpty)) &&
      turnOf' (tTurn 0x900000) (fun s q => (s.recallPage q).isNone) &&
      [none, some .leased, some .manual, some .priv].all (fun a => turnOf' (tTurn 0x200000 a) (fun s q =>
        q.begun.isNone && !q.toMem && (s.recallPage q).any (fun p => !s.pageBusy p.2 false (fun _ => true) && s.devReady (identityIa p.2.pa / 128) s.h))) &&
      turnOf' (twoCores (tTurn 0x200000 none (some []))) (fun s q => (s.recallPage q).any (fun p => s.arg.core ∈ s.recallCores p.2 [] && decide (1 < (s.recallCores p.2 []).length) &&
        !s.pageBusy p.2 false (fun x => x == s.arg.core) && (s.pageDirt p.2 (fun x => x == s.arg.core)).isEmpty)) &&
      turnOf' (tTurn 0x200000 none (some (List.range 66))) (fun s q => (s.recallPage q).any (fun p => (s.recallCores p.2 (List.range 66)).isEmpty)) &&
      (tBias 0x9999999).biasBad 0x9999999 && !(tBias 0x20).bridge.biasBusy && (tBias 0x20).recalls.isEmpty && (tBias 0x20).boot.ready &&
      (let s := tBias 0x20
       !s.biasBad 0x20 && (s.leafSpan 0x200000).any (fun l => (s.pageDirt l (fun _ => true)).isEmpty &&
           (biasing s false).devReady (identityIa l.pa / 128) s.h && (biasing s true).devReady (identityIa l.pa / 128) s.h) && s.reqs.isEmpty &&
         s.bridge.asked.isEmpty && s.homes.isEmpty &&
         s.evicts.isEmpty && s.bridge.lines.isEmpty && s.bridge.filter.isEmpty && s.bridge.invPend.isEmpty)) = true := by decide +kernel
/-- A virtual interface that runs, with its table of queues in the page. -/
def tRun (run drained : Bool) : State := svc (withU (tQueues.modVi 0 (fun v => { v with run := run, drained := drained })) [(32, 0)])
theorem witness_ServiceForms_core :
    ([false, true].all (fun l => let s := (svc tState).modCore 32 (fun x => { x with latch := l })
        meets .halt {} s (fun c => (s.core c.blk.core).latch == l)) &&
      [Op.ctxsv, .ctxrs].all (fun o => meets o (sm o) (tRun true false) (fun c => decide (c.vb 0 % 2 ^ 32 = 0) && (o == .ctxrs || (sm o).x.fn != 1)) &&
        meets o (sm o) (withU (tRun true false) [(32, 63)]) (fun c => decide (c.vb 0 % 2 ^ 32 = 63)) &&
        meets o (sm o) (withU (tRun true false) [(32, 64)]) (fun c => decide (c.vb 0 % 2 ^ 32 = 64))) &&
      meets .ctxsv (sm .ctxsv) (tRun true false) (fun c => !((did c).stopVi 0 false |>.vi 0).drained) &&
      meets .ctxsv (sm .ctxsv) (tRun false true) (fun c => ((did c).stopVi 0 false |>.vi 0).drained) &&
      (let s : State := { tState with arg := { head := tState.bridge.active, flag := true }, bridge := { tState.bridge with switching := true } }
       s.arg.head == s.bridge.active && s.bridge.switching && s.arg.flag)) = true := by decide +kernel

/-- VI 0 takes interrupts: vectors of each mode, pending and masked; two permissions; block 0 is the handler. -/
def tUi : State := tHome.modVi 0 (fun v => { v with
  run := true, drained := false, uibase := 0x300000, bind := some { task := 0, ix := 0, iy := 0, iz := 0, wf := 0 }
  vecs := [(1, { mode := 1, payload := 5, count := 7, t := 0x80000040 }), (6, { mode := 3 }), (63, { mode := 2, pend := true, count := 0xFFFF })]
  perms := [(0, { kind := 1, vi := 4, any := true, vecs := 0x8000000000000002 })] })
/-- No handler is bound. -/
def tFree : State := tUi.modVi 0 (fun v => { v with bind := none })
/-- The block handles its own vector 0, which is pending. -/
def tOwn : State := tFree.modBlock 0 (fun b => { b with vec0H := some 0, vec0 := { pend := true } })
theorem witness_UserInterrupts_sends :
    ([(0, true), (64, true), (6, true), (2, true), (1, false), (63, false)].all (fun e =>
        let y := tUi.vec 0 e.1
        (decide (e.1 = 0) || decide (63 < e.1) || decide (y.mode = 3) || !tUi.permits 0 (.context 4 1) e.1) == e.2) &&
      decide ((tUi.vi 0).uibase ≠ 0) && (tUi.vec 0 63).pend && !(tUi.vec 0 1).pend && !(tUi.vec 0 1).mask && (tUi.boundResident 0).isSome &&
      [0, 63, 64].all (fun n => meets .uisend (sm .uisend) (withU tUi [(32, n), (33, 5)]) (fun c =>
        decide (canRelease c .d) && decide (c.vb 0 % 2 ^ 32 = n))) &&
      (let s := after (exec (.uisend (sm .uisend)) (withU tUi [(32, 0), (33, 5)]))
       (s.sends.find 0).isSome && decide (s.sends.length = 1))) = true := by decide +kernel
/-- UIACK of a vector by its number. -/
def ackF (n : Nat) : Ins := { sm .uiack with a := .sp (.vec (BitVec.ofNat 6 n)) }
theorem witness_UserInterrupts_handlers :
    (meets .uiwait (sm .uiwait) tFree (fun c => !tFree.isHandler c.r && !tFree.isHandler0 c.r) &&
      plain .uiwait (sm .uiwait) tUi (fun c => tUi.isHandler c.r && decide (tUi.deliverable c.r ≠ 0)) &&
      (let s := tUi.modVi 0 (fun v => { v with vecs := [] })
       meets .uiwait (sm .uiwait) s (fun c => s.isHandler c.r && decide (s.deliverable c.r = 0) && !c.fib.trap)) &&
      plain .uiack (ackF 0) tOwn (fun c => tOwn.isHandler0 c.r && decide (vectorOf c = 0)) &&
      [1, 63].all (fun n => plain .uiack (ackF n) tUi (fun c => tUi.isHandler c.r && decide (vectorOf c = n) && !tUi.memHeld c.r true)) &&
      [0, 63].all (fun n => plain .uiack (ackF n) tFree (fun c => !tFree.isHandler c.r && !tFree.isHandler0 c.r)) &&
      (let s := withU tUi [(16, 64), (17, 0)]
       plain .uiack { sm .uiack with a := u 16 } s (fun c => decide (63 < vectorOf c))) &&
      [Op.uihdlVi, .uihdlBlk].all (fun o => [(0, true), (1, true), (2, false), (4, false)].all (fun e =>
        meets o { sm o with b := u 32 } (withU tUi [(32, e.1), (33, 0)]) (fun c =>
          (decide (c.vb 0 / 4 % 16 < c.blk.warps.length) && decide (c.vb 0 % 4 < c.blk.nf)) == e.2))) &&
      meets .uihdlMask (sm .uihdlMask) tUi (fun c => (tUi.vi c.blk.vi).run &&
        (List.range 63).all (fun k => !(tUi.vec c.blk.vi (k + 1)).pend || !(tUi.vec c.blk.vi (k + 1)).wake)) &&
      (let s := tUi.modVi 0 (fun v => { v with areaDirty := [4, 6] })
       (s.vi 0).areaDirty.contains 4 && s.boot.featacc.getLsbD 4)) = true := by decide +kernel

/-! ## Witnesses: the grinder, saves and Tamper -/

/-- A range set at IA 0x200800 and a kernel descriptor at VA 0x101000. -/
def aRangeSet : List Byte := leBytes 32 1 ++ leBytes 32 ((0x100000 / 65536) * 2 ^ 16 + 31 * 2 ^ 64 + (0x200000 / 65536) * 2 ^ 80 + 2 ^ 128)
def aKernel : List Byte :=
  leBytes 1 32 ++ leBytes 1 1 ++ leBytes 1 1 ++ leBytes 1 1 ++ leBytes 4 0 ++ leBytes 4 0x1000 ++ leBytes 4 0 ++ leBytes 16 0 ++
    (leBytes 8 0x100200 ++ leBytes 2 64 ++ leBytes 6 0) ++ (leBytes 8 0x100300 ++ leBytes 2 32 ++ leBytes 6 0) ++ leBytes 32 0
/-- A record of that kernel. -/
def gridRecord (tag csize gx : Nat) : List Byte :=
  leBytes 8 0x101000 ++ leBytes 8 0x1234567800000001 ++ leBytes 8 0 ++ leBytes 8 0x200800 ++ leBytes 4 gx ++ leBytes 2 1 ++ leBytes 2 1 ++
    leBytes 1 2 ++ leBytes 1 csize ++ leBytes 1 0 ++ leBytes 1 5 ++ leBytes 2 tag ++ leBytes 2 0 ++ leBytes 8 0x90000000 ++ leBytes 8 0
/-- A queue with the record, its range set and its descriptor in the page; the other lines are not at home. -/
def tGrid (d : List Byte) : State :=
  let s := putH (putH (putH (homed (paged tState)) 0x400 d) 0x800 aRangeSet) 0x1000 aKernel
  ({ s with homes := s.homes.filter (fun e => [0x4008, 0x4010, 0x4020, 0x4021].contains e.1) } : State).modVi 0 (fun v => { v with
    run := true, drained := false, savecfg := 0x01000010, savebase := 0x208000, evcfg := 5, evbase := 0x202000, fbcfg := 5, fbbase := 0x203000
    queues := [(5, { base := 0x200400, cap := 4, en := true, head := 0, tail := 3, headAt := 3 }),
      (9, { base := 0x200400, cap := 4, en := true, head := 3, tail := 3, headAt := 3 })] })
/-- The code of the check of the record, where the take is possible. -/
def takeCode (s : State) : Option Nat :=
  let q := (s.vi 0).queues.get 5 {}
  let slot := q.base + 64 * q.head
  let r := { taskRec (s.devBytes slot 64) with vi := 0 }
  if decide (s.heads.map (fun x => (x.2.2.1, x.2.2.2)) = [(0, 5)]) && decide (s.tasks.length < 4096) && s.runReady slot 64 false &&
      (s.taskNeeds r).isEmpty && !s.purging 0 r.tag && !s.doomed.contains (slot, r.tag) then some ((tookHead s 0 5).checkTask r (s.serviceSlots.contains slot)).1 else none
/-- The same with a purge of its key, which has found it in its queue or not. -/
def tPurged (found : Bool) : State :=
  { tGrid (gridRecord 1 1 2) with
    purges := [{ vi := 0, tag := 1, code := 3, ia := 0, count := 0, since := 0, seen := found }]
    doomed := if found then [(0x200400, 1)] else [] }
theorem witness_TaskTaking :
    (decide (takeCode (tGrid (gridRecord 1 1 2)) = some 0) && ((takeCode (tGrid (gridRecord 0 1 2))).any (fun n => decide (n ≠ 0))) &&
      ((takeCode (tGrid (gridRecord 1 2 2))).any (fun n => decide (n ≠ 0))) &&
      [true, false].all (fun d =>
       let s := tPurged d
       let r := { taskRec (s.devBytes 0x200400 64) with vi := 0 }
       s.purging 0 r.tag && r.tag != 0 && decide (s.heads.length = 1) && (s.doomed.contains (0x200400, r.tag) == d) &&
         (s.taskNeeds r).isEmpty && s.runReady 0x200400 64 false) &&
      (taskRec (List.replicate 64 0xFF)).bad && !(taskRec (gridRecord 1 1 2)).bad &&
      (let r := { taskRec (gridRecord 1 1 2) with rset := 0x500000 }
       !(tGrid (gridRecord 1 1 2)).iaReadable 0 0x500000 32 && !r.bad)) = true := by decide +kernel
/-- A task of that record is held. -/
def tHeld : State :=
  let t : Task := { tr := { taskRec (gridRecord 1 1 2) with vi := 0 }, ranges := (rangeSet aRangeSet).getD [], world := true, held := true }
  { (tGrid (gridRecord 1 1 2)).modVi 0 (fun v => { v with held := [0xFFFFFFFF] }) with
    tasks := [(0xFFFFFFFF, t)], arg := { vi := 0, value := 0xFFFFFFFF } }
theorem witness_TaskTaking_rearm :
    (tHeld.vi 0).held = [tHeld.arg.value.toNat % 2 ^ 32] ∧ (tHeld.tasks.find (tHeld.arg.value.toNat % 2 ^ 32)).isSome = true := by decide +kernel

/-- The task of a grid of two blocks, taken. -/
def tTask : State := after (exec .taskTake (tGrid (gridRecord 1 1 2)))
/-- A placement. -/
def aPlace (core : Nat) : Placement := ⟨core, 0, 0x40000⟩
/-- May its next block go to the placement? -/
def mayAdmit (s : State) (p : Placement) : Bool :=
  match s.nextUnit with
  | some ((h, t), kept) =>
    let start := if precedes t.tr.stime s.h then s.h else t.tr.stime
    !s.restorable && !t.tr.coop && decide (t.ker.c ≤ 1) && !kept.contains p.core && (s.handOver [p.core]).isNone &&
      s.unitSound [((t.blockAt h t.next start t.service).clusterKey, p)] && s.placeOk (t.blockAt h t.next start t.service) p &&
      (s.vi t.tr.vi).freeSlot.isSome
  | none => false
/-- Its blocks 1 and 2, admitted one after another. -/
def tBlock1 : State := after (exec .blockAdmission { tTask with arg := { places := [aPlace 1] } })
def tBlock2 : State := after (exec .blockAdmission { tBlock1 with homes := [], arg := { places := [aPlace 2] } })
/-- Block 2 ends, or its fibres have retired. -/
def tEnd (e : Bool) : State :=
  let s : State := { tBlock2 with arg := { blk := 2 } }
  s.modBlock 2 (fun b => { b with
    ending := e, warps := b.warps.map (fun (w : Warp) => { w with retired := !e, fibs := w.fibs.map (fun (f : Fibre) => { f with st := .ended }) }) })
theorem witness_BlocksComeAndGo :
    (mayAdmit tTask (aPlace 1) && mayAdmit tBlock1 (aPlace 2) &&
      (let s : State := { tTask with tasks := tTask.tasks.mapVal (fun _ t => { t with passedAt := some 0 }), now := 700000 }
       match s.tasks with
       | [e] => s.offers e.2 && decide (e.2.passedAt = some 0)
       | _ => false) &&
      [true, false].all (fun e => let s := tEnd e
        (s.blocks.find 2).isSome && (s.block 2).st == .resident && ((s.block 2).ending == e) &&
          (e || (s.block 2).warps.all (fun w => w.retired)) && s.quiet 2 && (s.slotDirt 2).isEmpty &&
          (e || ((s.block 2).refs 2).all (fun r => s.releaseDone r .d && (s.fib r).rel.isNone)) &&
          (s.tasks.find (s.block 2).task).any (fun t => decide (1 < t.live)))) = true := by decide +kernel

/-- The event ring at a tail and a head. -/
def ringed (cfg : BitVec 5) (tail head : BitVec 32) : State :=
  tQueues.modVi 0 (fun v => { v with evcfg := cfg.setWidth _, evtail := tail.setWidth _, evhead := head.setWidth _ })
/-- Has the event ring room? -/
def hasRoom (s : State) : Bool :=
  let v := s.vi 0
  let n := 2 ^ v.evcfg.toNat
  decide (4 ≤ v.evcfg.toNat) && decide (v.evcfg.toNat ≤ 16) && decide ((v.evtail.toNat % n + 1) % n ≠ v.evhead.toNat % n)
theorem witness_PurgesAndRings :
    (hasRoom (ringed 4 0 0) && hasRoom (ringed 16 65535 65535) && !hasRoom (ringed 4 15 0) && !hasRoom (ringed 3 0 0) && !hasRoom (ringed 17 0 0) &&
      (let s : State := { tQueues.modVi 0 (fun v => { v with batchN := 62, fbtail := 30, recent := [⟨0x200000, 1, 1, 3, 0⟩] }) with now := 14001 }
       let v := s.vi 0
       (v.recent.filter (fun r => decide (s.now ≤ r.since + 14000))).isEmpty && decide (v.batchN < 63) && decide (v.fbcfg.toNat = 5) &&
         decide ((v.fbtail.toNat % 32 + 1) % 32 ≠ v.fbhead.toNat % 32)) &&
      (let s : State := { tBlock2 with arg := { vi := 0, tag := 1 } }
       s.purges.isEmpty && decide (s.arg.tag ≠ 0) && decide ((s.block 1).vi = 0 ∧ (s.block 1).tag = 1 ∧ (s.block 1).st ≠ .gone) &&
         !(s.block 1).service && decide (s.tasks.length = 1)) &&
      (let s : State := { tQueues with purges := [⟨0, 1, 3, 0x55, 6, 0, false⟩, ⟨0, 2, 3, 0x55, 6, 0, true⟩], arg := { vi := 0, tag := 2 } }
       !s.purgeLeft 0 2) &&
      (let s : State := { tQueues.modVi 0 (fun v => { v with batchAt := some 5 }) with now := 14005, arg := { vi := 0 } }
       (s.vi 0).batchAt == some 5)) = true := by decide +kernel

/-- Block 1 is to leave its core. -/
def tStop (why : SaveReason) : State :=
  let s : State := { tBlock1 with arg := { blk := 1 } }
  s.modBlock 1 (fun b => { b with stopping := true, reason := why })
/-- Block 1 stands in its slot, to return to core 3; one page is mapped. -/
def tSaved (st : BState) : State :=
  let s : State := { tBlock1 with arg := { blk := 1, places := [⟨3, 0x1000, 0x50000⟩] }, chiplets := [(6, { tlb := [leafAs .leased] })] }
  s.modBlock 1 (fun b => { b with st := st, banks := [], landing := if st = BState.landing then some 0 else none })
theorem witness_BlockMoves :
    ([SaveReason.preempt, .tamper, .migrate].all (fun why => let s := tStop why
        let b := s.block 1
        (s.blocks.find 1).isSome && b.st == .resident && !b.ending && b.stopping &&
          b.warps.all (fun w => w.fibs.all (fun f => f.sec.isNone && !f.midway)) && decide (s.groupOf 1 = [1]) &&
          (withdrawn s 1).quiet 1 && ((withdrawn s 1).releasing 1).isNone) &&
      [BState.saved, .displaced].all (fun st => let s := tSaved st
        s.mayReturn 1 && decide ((s.groupOf 1).filter s.mayReturn = [1]) && (st == .displaced || !s.displacedFit) &&
          (s.handOver [3]).isNone && s.unitSound [((s.block 1).clusterKey, ⟨3, 0x1000, 0x50000⟩)] && s.placeOk (s.block 1) ⟨3, 0x1000, 0x50000⟩ &&
          (s.block 1).saveSlot.isSome) &&
      (let s := tSaved .landing
       (s.block 1).st == .landing && (s.block 1).landing == some 0 && !(s.block 1).ending && (s.vi (s.block 1).vi).run &&
         (s.handOver [3]).isNone && s.unitSound [((s.block 1).clusterKey, ⟨3, 0x1000, 0x50000⟩)] && s.placeOk (s.block 1) ⟨3, 0x1000, 0x50000⟩ &&
         (s.block 1).saveSlot.isSome)) =
    true := by decide +kernel
theorem test_returning (s : State) (n : Nat) (h : (s.groupOf n).filter s.mayReturn = [n]) : s.returning n = [n] := by
  simp [State.returning, h]

/-- A drain of VI 0 under way. -/
def tDrain (run drained : Bool) (st : BState) : State :=
  let s : State := { tHome with arg := { vi := 0 }, now := 4 + 700 * 65535 }
  (s.modVi 0 (fun v => { v with run := run, drained := drained, drainAt := some 4, ctxsv := [(⟨0, 0, 0⟩, 3)] })).modBlock 0
    (fun b => { b with st := st })
theorem witness_DrainsAndTamper_drain :
    (((tDrain true false .resident).vi 0).run && !((tDrain false true .resident).vi 0).run &&
      (let s := tDrain false false .resident
       decide ((s.vi 0).drainAt = some 4) && decide (4 + 700 * (if (s.vi 0).drainlim = 0 then 1 else (s.vi 0).drainlim.toNat) ≤ s.now) &&
         !(s.block 0).service && !(s.block 0).ending) &&
      (let s := tDrain false false .saved
       let q : State := { s with devq := [(0x200000, [1], 0, false, 0, 1)] }
       !(s.vi 0).run && !(s.vi 0).drained && s.blocks.all (fun e => e.2.st != .resident) && s.devq.isEmpty &&
         q.devq.any (fun w => decide (w.2.2.2.2.1 = 0)))) = true := by decide +kernel
/-- Core 1 of die 0 with deferrals, its turn due. -/
def tTamper (st : TamperSt) (n : Nat) : State :=
  { tBlock1.modCore 1 (fun c => { c with tamper := st, deferred := n }) with arg := { die := 0, core := 1, flag := true }, now := 1000000 * 60 * 700 }
/-- Cores 0 and 1 in service: which one a turn takes. -/
theorem witness_DrainsAndTamper_tamper :
    ([1, 3].all (fun n => let s := tTamper .inService n
        (List.range 32).all (fun j => (s.core j).tamper != .draining) && decide ((s.die 0).turnAt + 1000000 * s.boot.tamperS * 700 / 32 ≤ s.now) &&
          s.blocks.all (fun e => decide (e.2.csize ≤ 1)) && inService s 0 1 && decide (0 < (s.core 1).deferred) && inService s 0 0 && decide ((s.core 0).deferred = 0)) &&
      (let s := tTamper .inService 0
       let i := ((s.die 0).rotation + 1) % 32
       inService s 0 i && (List.range 32).all (fun j => decide ((s.core j).deferred = 0))) &&
      [0, 2].all (fun n => let s := tTamper .draining n
        decide ((s.core 1).tamper = .draining) && decide ((s.core 1).drainAt + 14000000 ≤ s.now) &&
          s.blocks.any (fun e => e.2.st == .resident && decide (e.2.core = 1))) &&
      (let s : State := { tTamper .draining 0 with blocks := [] }
       (s.core 1).cmds.isEmpty && s.arg.flag)) = true := by decide +kernel
theorem witness_FibreContexts : tFib.lanes.length ≤ 64 ∧ ({ tFib with lanes := List.replicate 64 {} } : Fibre).lanes.length ≤ 64 := by decide +kernel

/-! ## Witnesses: the host -/

/-- The active head reads or writes the line at an offset. -/
def tHost (off : Nat) : State :=
  { tHome with arg := { ia := 128 * aLine + off, index := 64, data := (List.range 200).map (BitVec.ofNat 8), line := aLine } }
/-- The conditions of `InDevice`. -/
def inDevice (s : State) (line : Nat) : Bool :=
  (s.homes.find line).isSome && !isIdentity (line * 128) && !isHostWindow (line * 128) &&
    !s.flipping (line * 128)
/-- The page is in host bias, and the bridge holds the line modified. -/
def tHostBias (off : Nat) : State :=
  { tHost off with
    homes := [], chiplets := (tHost off).chiplets.set 6 { (tHost off).chiplet 6 with tlb := [{ leafAs .leased with bias := true }] }
    bridge := { (tHost off).bridge with lines := [(aLine, { st := .m, data := 7, wt := 0x80000000, rt := 0x80000100, tags := [(0, 3)] })] } }
/-- An address by its entry. -/
def leafOf (s : State) (ia : Nat) : Option Leaf := match s.translate ia with | .ok l => some l | _ => none
theorem witness_HostSide_bias :
    [0, 100, 127].all (fun o => let s := tHostBias o
      let ia := s.arg.ia
      (s.homes.find (ia / 128)).isNone && !isIdentity ia && !isHostWindow ia && !s.flipping ia && (leafOf s ia == leafOf s (128 * (ia / 128))) &&
        (leafOf s ia).any (fun l => l.bias && decide (l.pa ia = l.pa (128 * (ia / 128)) + ia % 128)) &&
        (s.bridge.lines.find (ia / 128)).any (fun h => h.st == .m)) = true := by decide +kernel
/-- A line of the host window, held by the bridge or asked for. -/
def hostLine : Nat := 6 * 2 ^ 42 + 5
def tBridge (st : HostSt) (held : Bool) : State :=
  { tHome with
    bridge := { tHome.bridge with
      lines := if held then [(hostLine, { st := st, data := 7, wt := 0x80000000, rt := 0x80000100, tags := [(0, 3)] })] else []
      asked := [(hostLine, true)], filter := [aLine], invPend := [aLine] }
    arg := { line := hostLine, data := List.replicate 128 9, flag := true } }
theorem witness_HostSide_accesses :
    ([0, 100, 127].all (fun o => inDevice (tHost o) ((tHost o).arg.ia / 128)) &&
      [HostSt.m, .e, .s].all (fun st => ((tBridge st true).bridge.lines.find hostLine).isSome) && isHostWindow (128 * hostLine) &&
      [true, false].all (fun h => let s := tBridge .s h
        (s.bridge.asked.find hostLine).isSome && decide (s.arg.data.length = 128) && s.devq.isEmpty &&
          ((s.bridge.lines.find hostLine).isSome == h) && decide (s.bridge.lines.length < 65536)) &&
      (let s : State := { tBridge .m true with arg := { line := aLine } }
       s.bridge.invPend.contains s.arg.line && s.devq.isEmpty)) = true := by decide +kernel

/-- A head acts while the active head's link is up or has been down for 100 ms. -/
def tHead (head : Nat) (up : Bool) (hobase : Dword) : State :=
  { tBridge .m true with
    bridge := { (tBridge .m true).bridge with active := 0, links := [up, true], downAt := 0, hobase := hobase }
    arg := { head := head, value := 5 * 2 ^ 56 + 128 * 0x4001 }, now := 70000000 }
theorem witness_HostSide_heads :
    ((tHead 0 true 0).bridge.active == 0 && ((tHead 0 true 0).die 0).waits.isEmpty && decide ((tHead 0 true 0).bridge.links.length = 2) &&
      (let s := tHead 1 false 0
       !s.bridge.adoptForbidden && !(s.bridge.links.getD s.bridge.active false) && decide (s.bridge.downAt + 70000000 ≤ s.now)) &&
      (let s := tHead 1 true 0
       !s.bridge.adopten && !s.bridge.releaseReq && s.bridge.links.getD s.bridge.active false)) = true := by decide +kernel

/-- The handover area stands at the first byte of the identity window, its first line in the host's view or not. -/
def tHand (seen : Bool) : State :=
  { tState with bridge := { tState.bridge with
      hobase := BitVec.ofNat 64 (identityIa 0), filter := if seen then [identityIa 0 / 128] else [] } }
theorem tHand_line (l : Nat) (h1 : 0x1FC000000000 ≤ l) (h2 : l < 0x1FC000000000 + 0x821) :
    (tHand false).lineHome l = .slice .manual false := by
  have i : isIdentity (l * 128) = true := by
    show decide (l * 128 / 2 ^ 44 % 2 ^ 8 = 0xFE) = true
    rw [decide_eq_true_eq]
    omega
  have g : (tHand false).groups = 244140 := show tState.groups = 244140 by decide +kernel
  unfold State.lineHome
  simp only [i, g, if_true]
  rw [if_pos (by simp only [Nat.reducePow]; omega)]
/-- Every line of the area can be written. -/
theorem tHand_ready (l : Nat) (h1 : 0x1FC000000000 ≤ l) (h2 : l < 0x1FC000000000 + 0x821) :
    (tHand false).devReady l (tHand false).h = true := by
  have r : (tHand false).recalls = [] := by decide
  have q : (tHand false).devq = [] := by decide
  have f : (tHand false).bridge.filter = [] := by decide
  have hs : (tHand false).homes = [] := by decide
  have hm (a : Nat) : (tHand false).home a = (0, 0) := by
    have h : (tHand false).liveSlices = [(0, 0)] := show tState.liveSlices = [(0, 0)] by decide
    unfold State.home
    rw [h]
    simp [Nat.mod_one]
  have k : ((tHand false).die 0).copies = [] := show (tState.die 0).copies = [] by decide
  have i : isIdentity (l * 128) = true := by
    show decide (l * 128 / 2 ^ 44 % 2 ^ 8 = 0xFE) = true
    rw [decide_eq_true_eq]
    omega
  have hc (a : Nat) : (tHand false).chipletOf a = 6 := by
    have h : (tHand false).liveChiplets = [6] := show tState.liveChiplets = [6] by decide
    unfold State.chipletOf
    rw [h]
    simp [Nat.mod_one]
  have ev : (tHand false).evicts = [] := by decide
  have ft : (tHand false).fillTime l = tmax ((tHand false).chiplet 6).mtime ((tHand false).h - 1073741824#64) := by
    simp [State.fillTime, i, hc, ev]
  have t : (tHand false).timeHeld (tmax (tHand false).h (tmax ((tHand false).chiplet 6).mtime ((tHand false).h - 1073741824#64) + 1#64)) = false := by decide
  simp [State.devReady, State.homeReady, State.flipping, r, q, State.homeHolds, tHand_line l h1 h2, f, State.heldAt, State.homeVer, hs, Map.find,
    State.hasRoom, State.setFull, hm, k, Config.l2Ways, ft, t]
theorem length_leBytes (n x : Nat) : (leBytes n x).length = n := by
  induction n generalizing x with
  | zero => rfl
  | succ n ih => simp [leBytes, ih]
theorem changedRuns_span (s : State) (ia : Nat) (bs : List Byte) :
    ∀ e ∈ s.changedRuns ia bs, ia ≤ e.1 ∧ e.1 < ia + (bs.length + 15) := by
  intro e he
  simp only [State.changedRuns, List.mem_filterMap, List.mem_range] at he
  obtain ⟨i, hi, h⟩ := he
  split at h
  · cases h
  · cases h
    simp only
    omega
theorem length_flat {α : Type} (n : Nat) (f : α → List Byte) (h : ∀ a, (f a).length = n) (l : List α) :
    (l.flatMap f).length = n * l.length := by
  induction l with
  | nil => rfl
  | cons a l ih => simp [h, ih, Nat.mul_succ, Nat.add_comm]
theorem length_handoverVi (s : State) (v : Nat) : (s.handoverVi v).length = 3328 := by
  have k : (((s.dies.flatMap (fun d => d.2.batches)).filter (fun e => e.2.vi = v)).take 64).length ≤ 64 := List.length_take_le _ _
  simp only [State.handoverVi, List.length_append, length_leBytes]
  rw [length_flat 8 _ (fun _ => length_leBytes _ _), length_flat 16 _ (fun _ => by simp [length_leBytes]),
    length_flat 16 _ (fun _ => by simp [length_leBytes])]
  simp only [List.length_range]
  omega
/-- Every line that an update of it writes can be written, and the first line cannot while the host sees it. -/
theorem witness_HeadsAndHandover_update :
    (∀ l ∈ ((tHand false).bridge.hobase.toNat / 128 :: (tHand false).handoverRuns.map (fun e => e.1 / 128)).eraseDups,
      (tHand false).devReady l (tHand false).h = true) ∧ (tHand false).bridge.hobase ≠ 0 ∧
    (∃ l ∈ ((tHand true).bridge.hobase.toNat / 128 :: (tHand true).handoverRuns.map (fun e => e.1 / 128)).eraseDups,
      (tHand true).devReady l (tHand true).h = false) ∧ (tHand true).bridge.hobase ≠ 0 := by
  have hb : (tHand false).bridge.hobase.toNat = 0xFE00000000000 := by decide
  refine ⟨fun l hl => ?_, by decide, ⟨0x1FC000000000, ?_, by decide⟩, by decide⟩
  · have hm := List.mem_eraseDups.mp hl
    simp only [List.mem_cons, List.mem_map] at hm
    rcases hm with rfl | ⟨e, he, rfl⟩
    · exact tHand_ready _ (by omega) (by omega)
    · simp only [State.handoverRuns, hb, List.mem_append, List.mem_flatMap, List.mem_range] at he
      have span : 0xFE00000000000 ≤ e.1 ∧ e.1 < 0xFE00000000000 + 0x41010 := by
        rcases he with he | ⟨v, hv, he⟩
        · have := changedRuns_span _ _ _ e he
          simp only [List.length_append, length_leBytes] at this
          omega
        · have := changedRuns_span _ _ _ e he
          simp only [List.length_append, length_leBytes, length_handoverVi] at this
          omega
      exact tHand_ready _ (by omega) (by omega)
  · rw [List.mem_eraseDups]
    have : (tHand true).bridge.hobase.toNat / 128 = 0x1FC000000000 := by decide
    rw [this]
    exact List.mem_cons_self

/-! ## Witnesses: the fabric -/

/-- MCST or MRED whose list at 0x100000 has `n` entries; PCPY reads its descriptor at the same place. -/
def tList (n : Nat) : State := withU (putH tHome 0 [BitVec.ofNat 8 n]) [(16, 0x100000), (17, 0), (32, 0x80), (33, 0)]
/-- PNOTIFY of the target `t`, with the vector in s16. -/
def tPnot (t vec : Nat) : State := withU tHome [(16, vec), (17, 0), (32, t), (33, 5)]
/-- PATOM by a pair in s16:17 of offset `off` (module 7, window 3), v16 holding 4 × lane or zero. -/
def tPat (off k : Nat) : State := withU (homed (tAddr k)) [(16, off % 2 ^ 32), (17, 7 * 2 ^ 19 + 3 * 2 ^ 9 + off / 2 ^ 32)]
theorem witness_FabricForms :
    ([Op.mcst, .mred].all (fun o => [0, 1, 8].all (fun n => meets o (sm o) (tList n) (fun c =>
        let ps := okD ((tList n).enginePieces c.blk 0 (c.va 0) 16 Range.r) []
        let x := (tList n).readPieces c.blk.core c.fib.ptime ps
        let qs := okD (x.1.enginePieces c.blk 0 (c.va 0 + 16) (16 * n) Range.r) []
        c.mayCommand .copy && descOk c (c.va 0) 16 && decide ((x.2.1.headD (0, false)).1.toNat = n) &&
          good (x.1.enginePieces c.blk 0 (c.va 0 + 16) (16 * n) Range.r) && (x.1.clearing c.blk.core c.fib.ptime qs false).isNone &&
          !(x.1.readPieces c.blk.core c.fib.ptime qs).2.1.any Prod.snd))) &&
      meets .pcpy (sm .pcpy) (tList 0) (fun c => c.mayCommand .copy && descOk c (c.va 0) 32) &&
      [(0x3F1FFF, 63, true), (0, 0, true), (0x2000, 0, false), (0x400000, 0, false), (0, 64, false)].all (fun e =>
        meets .pnotify (sm .pnotify) (tPnot e.1 e.2.1) (fun c =>
          let t := c.vb 0 % 2 ^ 32
          decide (canRelease c .s) && !(tPnot e.1 e.2.1).peersPending c.r && (t == e.1) && (vectorOf c == e.2.1) &&
            (decide (t / 2 ^ 13 % 8 = 0 ∧ t / 2 ^ 22 = 0 ∧ vectorOf c ≤ 63) == e.2.2))) &&
      [(0, 4), (0, 0), (2 ^ 41 - 64, 4)].all (fun e => [(Op.patom, mems .n32 .s .rlx), (.patom, mems .n32 .s .ar), (.patom, mems .b64 .s .rlx 9)].all
        (fun x => x.2.aop = 9 && e.2 = 4 || meets x.1 { sm .patom with d := v 8, x := x.2 } (tPat e.1 e.2) (fun c =>
          !c.poisoned && !(tPat e.1 e.2).memHeld c.r false && !(tPat e.1 e.2).peersPending c.r && decide (canRelease c .s) &&
            c.lanes.all (fun l => decide (0 ≤ peerOffset c l ∧ peerOffset c l < 2 ^ 41 ∧ (peerOffset c l).toNat % c.size = 0)))))) = true := by
  decide +kernel

/-- Module 1 with port `p`; module 7 is reached by port 95 and by port 0 as the escape. -/
def tPort (p : Nat) (x : Port) (a : EvArg := {}) : State :=
  { tHome with
    fabric := { tHome.fabric with devid := 1, assigned := true, ports := [(p, x)], routes := [(7, { cand := 2 ^ 95, esc := 0, v := true })] }
    arg := { a with port := p }, now := 7000000 }
/-- Is nothing waiting at the port, and no manager named? -/
def quietB (s : State) (p : Nat) : Bool :=
  s.fabric.transit.all (fun e => e.2.port != p) && (List.range 8).all (fun n => !(s.fabric.mgrs.get n (0, false)).2)
/-- A packet to module `dst`. -/
def aPkt (dst : Nat) (vc : Vc) (b : PktBody) (key : BitVec 16 := 0x8001) : Packet :=
  { src := 7, dst := dst, unassigned := false, vi := 0, key := key, vc := vc, classO := vc == .classO, engine := 3, seq := 9, body := b }
/-- A flit of channel U. -/
def aFlit (good : Bool) (seq : Nat) (k : Option Packet) (part : Bool := false) : Flit :=
  { vc := .classU, seq := seq, good := good, ack := some 4, nack := some 6, credit := 2, packet := k, part := part }
/-- A port that is Up and has sent flits 5 and 6. -/
def tUp : Port :=
  { st := .up, en := true, rxSeq := 3, txSeq := 7, credits := [(0, 1), (1, 1), (2, 1)]
    replay := [aFlit true 5 (some (aPkt 7 .classO .ack)), aFlit true 6 none], asked := some 5 }
theorem witness_PortsAndRouting_ports :
    ([0, 95].all (fun p =>
        decide (p < 96) && !(portOf (tPort p {}) p).en &&
        [PortSt.training, .down, .failed, .up].all (fun st => let s := tPort p { st := st, en := true }
          (portOf s p).en && (portOf s p).st == st && quietB s p) &&
        (let s := tPort p { st := .training, en := true, trainAt := 1 }
         decide (s.now < (portOf s p).trainAt + 7000000)) &&
        (let s := tPort p { st := .training, en := true, trainAt := 0 }
         decide ((portOf s p).trainAt + 7000000 ≤ s.now)) &&
        [aFlit false 3 none, aFlit true 4 none, aFlit true 3 none, aFlit true 3 none true, aFlit true 3 (some (aPkt 1 .classU .ack))].all (fun fl =>
          let s := tPort p tUp { flit := some fl }
          s.arg.flit == some fl && upPort s p && quietB s p) &&
        [7, 8].all (fun n => let s := tPort p { tUp with retries := n }
          (portOf s p).asked == some 5 && upPort s p && quietB s p))) = true := by decide +kernel

/-- A packet that waits, since cycle `since`. -/
def tWaits (esc : Bool) (since : Nat) : State :=
  let s := tPort 0 tUp { id := 2 }
  { s with fabric := { s.fabric with transit := [(2, { packet := aPkt 7 .classO .ack, port := 0, since := since, escape := esc })] } }
/-- A packet has arrived by port 0, whose table has key 1. -/
def tArr (k : Packet) : State :=
  let s := tPort 0 { tUp with keys := [(0, 1)] } { id := 4 }
  { s with fabric := { s.fabric with arrivals := [(4, (0, k))], mgrs := [(0, (7, true))] } }
theorem witness_PortsAndRouting_routing :
    ((let s := tPort 95 tUp
      let e := s.fabric.routes.get 7 {}
      e.v && decide (upCands s e = [95]) && s.fabric.assigned && decide (7 ≠ s.fabric.devid.toNat) && !(s.fabric.routes.get 8 {}).v) &&
      (let s := tPort 0 tUp
       (upCands s (s.fabric.routes.get 7 {})).isEmpty && upPort s 0) &&
      (let s := { tPort 0 tUp with fabric := {} }
       !s.fabric.assigned && isMgmt (aPkt 0 .mgmt (.mgmtRead 0)) && !isMgmt (aPkt 0 .classO .ack)) &&
      [(.ack, 1, 0, 1), (.ack, 0, 0, 0), (.ack, 1, 255, 1), (.ack, 1, 256, 0), (.data (List.replicate 233 1) [], 2, 0, 2),
          (.data (List.replicate 233 1) [], 1, 0, 1), (.data (List.replicate 232 1) [], 1, 0, 1)].all (fun (e : PktBody × Nat × Nat × Nat) =>
        let s := tPort 0 { tUp with credits := [(0, e.2.1)], replay := List.replicate e.2.2.1 (aFlit true 5 none) }
        let k := aPkt 7 .classO e.1
        upPort s 0 && s.fabric.transit.isEmpty &&
          e.2.2.2 == min (flitCount k) (min ((portOf s 0).credits.get (chan .classO) 0) (256 - (portOf s 0).replay.length))) &&
      (let s := tPort 0 { tUp with st := .down }
       !upPort s 0) &&
      [(aPkt 1 .classO .ack, true), (aPkt 7 .classO .ack 0x8002, false), (aPkt 1 .classO .ack 1, false), (aPkt 1 .mgmt (.mgmtRead 0) 0xFFFF, true),
          (aPkt 7 .mgmt (.mgmtRead 0) 0xFFFF, true), (aPkt 1 .mgmt (.mgmtRead 0) 1, false)].all (fun e => let s := tArr e.1
        (s.fabric.arrivals.find s.arg.id == some (0, e.1)) && s.fabric.arrivals.all (fun x => decide (s.arg.id ≤ x.1)) &&
        ((if isMgmt e.1 then decide (e.1.key = 0xFFFF) && (decide (e.1.dst ≠ s.fabric.devid.toNat) || s.fabric.mgrs.any (fun m => m.2.2 && decide (m.2.1.toNat = e.1.src)))
          else (portOf s 0).keys.any (fun x => decide (x.2 ≠ 0) && decide (x.2.toNat % 2 ^ 15 = e.1.key.toNat % 2 ^ 15) &&
            (decide (2 ^ 15 ≤ x.2.toNat) || decide (2 ^ 15 ≤ e.1.key.toNat)))) == e.2)) &&
      (let s := tWaits false (7000000 - 1400)
       let e := s.fabric.routes.get 7 {}
       (s.fabric.transit.find s.arg.id).any (fun t => !t.escape && decide (t.gone = 0) && decide (t.since + 1400 ≤ s.now)) && e.v && upPort s e.esc.toNat) &&
      (let s := tWaits true (7000000 - 70000)
       (s.fabric.transit.find s.arg.id).any (fun t => t.escape && decide (t.since + 70000 ≤ s.now)))) = true := by decide +kernel

/-- Request 4 of this module to module 7, sent `n` times, is outstanding; its reply with a body waits. -/
def tReq (kind : FabKind) (body : PktBody) (n : Nat) (reply : PktBody) (old : Bool := false) : State :=
  let s := tPort 95 tUp { id := 4 }
  let q : FabReq := { packet := { aPkt 7 .classO body with src := 1 }, kind := kind, vi := 0, tag := 1, sends := n, sentAt := 7000000 - 140000, old := old }
  { s with fabric := { s.fabric with reqs := [(4, q)], nextReq := 5, inbox := [(4, { port := some 95, packet := aPkt 1 .classO reply })] } }
/-- The conditions on the request and its reply. -/
def replyOk (s : State) : Bool :=
  (match s.fabric.inbox.find s.arg.id, s.fabric.reqs.find 4 with
  | some ⟨_, k, _⟩, some q => s.fabric.inbox.all (fun e => decide (s.arg.id ≤ e.1)) && s.fabric.heldBack.isEmpty && !isAsk k && !isMgmt k && decide (q.packet.engine = k.engine) && decide (q.packet.seq = k.seq) &&
      decide (q.packet.dst = k.src) && decide (0 < q.sends)
  | _, _ => false) && decide (s.fabric.reqs.length = 1)
/-- PCPY's command on core 0, to scratchpad byte 0x40. -/
def withPcpy (s : State) : State :=
  s.modCore 0 (fun c => { c with nextCmd := 1, cmds := [(0, { aCmd with op := .pcpy, reqs := [4], desc := leBytes 8 0 ++ leBytes 8 0x40 ++ leBytes 4 16 ++ leBytes 12 1 })] })
/-- PATOM waits with its old values to come in v8. -/
def withPend (s : State) : State :=
  s.modWarp 0 0 (fun w => { w with pend := [(3, { fib := 0, dv := [(8, 3)], entries := 1, since := 0, body := .answer false })] })
theorem witness_FabricTraffic_requests :
    ((let s := tReq (.pnotify ⟨0, 0, 0⟩ 1 3) (.notice 0 5 6) 1 .ack true
      s.fabric.reqs.any (fun e => e.2.old && decide (e.1 ≠ s.fabric.nextReq) && decide (e.2.packet.dst = 7) &&
        decide (e.2.packet.seq ≠ s.fabric.seq))) &&
      (let s := tReq (.pnotify ⟨0, 0, 0⟩ 1 3) (.notice 0 5 6) 1 .ack
       s.fabric.reqs.any (fun e => !e.2.old && decide (e.1 < s.fabric.nextReq ∧ e.2.packet.dst = 7) &&
         e.2.packet.body == .notice 0 5 6 && e.2.kind == .pnotify ⟨0, 0, 0⟩ 1 3)) &&
      isAsk (aPkt 7 .classO (.notice 1 2 3)) && isAsk (aPkt 7 .classO (.read 0 3)) &&
      [1, 5, 6].all (fun n => [(FabKind.pnotify ⟨0, 0, 0⟩ 1 3, PktBody.notice 0 5 6), (.pcpy 0 0, .read 0 3),
          (.patom ⟨0, 0, 0⟩ 3 [0, 1] 0x40 false, .atom 0x40 0 .n32 [5, 6])].all (fun k => let s := withPend (withPcpy (tReq k.1 k.2 n .ack))
        (s.fabric.reqs.find s.arg.id).any (fun q => q.sends == n && q.kind == k.1 && q.packet.body == k.2 && decide (q.sentAt + 140000 ≤ s.now)) &&
          s.fabric.reqs.all (fun e => e.2.sends != 0 && e.1 == s.arg.id) && s.fabric.heldBack.isEmpty && ((s.core 0).cmds.find 0).isSome &&
          ((s.warp 0 0).pend.find 3).any (fun p => p.dv == [(8, 3)]))) &&
      [true, false].all (fun ok => replyOk (tReq (.pnotify ⟨0, 0, 0⟩ 1 3) (.notice 0 5 6) 1 (.answer ok))) &&
      [PktBody.olds [7, 8] false, .olds [7, 8] true, .refusal].all (fun b =>
       let s := withPend (tReq (.patom ⟨0, 0, 0⟩ 3 [0, 1] 0x40 false) (.atom 0x40 0 .n32 [5, 6]) 1 b)
       replyOk s && ((s.warp 0 0).pend.find 3).any (fun p => p.dv == [(8, 3)]) && s.fabric.reqs.all (fun e => e.1 == 4)) &&
      [PktBody.refusal, .data [1, 2, 3] [false, true]].all (fun b => let s := withPcpy (tReq (.pcpy 0 0) (.read 0 3) 1 b)
        replyOk s && ((s.core 0).cmds.find 0).any (fun m =>
          good (s.enginePieces (s.block m.ref.blk) (dfld m.desc 20 1) (dfld m.desc 8 8) 3 Range.w)))) = true := by decide +kernel

/-- Window 3 of VI 0, of 64 KiB at the test page, and an access that waits. -/
def tPeer (b : PktBody) (dn : List (Nat × Nat × BitVec 16 × Nat × PktBody) := []) : State :=
  let s := (homed tState .manual 512).modVi 0 (fun v => { v with
    run := true, wins := [(3, { ia := 0x200000, gran := 1, r := true, w := true, idev := 7, anyVi := true })] })
  { s with
    arg := { id := 4 }
    fabric := { (tPort 95 tUp).fabric with inbox := [(4, { port := some 95, packet := aPkt 1 .classU b })], doneRecs := dn } }
/-- The peer pointer of window 3 at an offset. -/
def ptrAt (off : Nat) : Dword := BitVec.ofNat 64 (3 * 2 ^ 41 + off)
/-- The conditions of `Admitted`, whose page is that of the window. -/
def admitted (s : State) (k : Packet) (ptr : Dword) (n : Nat) (perm : PeerWin → Bool) : Bool :=
  let v := s.vi (ptr.toNat / 2 ^ 45 % 64)
  let w := v.wins.get (ptr.toNat / 2 ^ 41 % 16) {}
  let ia := w.ia + ptr.toNat % 2 ^ 41
  v.run && w.gran != 0 && (w.anyDev || decide (w.idev.toNat = k.src)) && (w.anyVi || decide (w.ivi.toNat = k.vi)) && perm w &&
    decide (ptr.toNat % 2 ^ 41 + n ≤ w.gran * 65536) && decide (ia / 65536 = (ia + n - 1) / 65536) &&
    (match s.lineHome (ia / 65536 * 512) with | .slice .manual true => true | _ => false) && decide (0 < n)
/-- Such an access is admitted. -/
theorem admitted_of {s : State} {k : Packet} {ptr : Dword} {n : Nat} {perm : PeerWin → Bool} (h : admitted s k ptr n perm = true) :
    Admitted s k ptr n perm (((s.vi (ptr.toNat / 2 ^ 45 % 64)).wins.get (ptr.toNat / 2 ^ 41 % 16) {}).ia + ptr.toNat % 2 ^ 41) := by
  simp only [admitted, Bool.and_eq_true, Bool.or_eq_true, decide_eq_true_eq, bne_iff_ne] at h
  obtain ⟨⟨⟨⟨⟨⟨⟨⟨h1, h2⟩, h3⟩, h4⟩, h5⟩, h6⟩, h7⟩, h8⟩, h9⟩ := h
  refine ⟨h1, rfl, ⟨h2, h3, h4, h5, h6⟩, fun a ha hb => ?_, h9⟩
  have e : a / 65536 = (((s.vi (ptr.toNat / 2 ^ 45 % 64)).wins.get (ptr.toNat / 2 ^ 41 % 16) {}).ia + ptr.toNat % 2 ^ 41) / 65536 := by omega
  rw [e]
  split at h8
  · assumption
  · simp at h8
/-- Is the waiting message in its turn, with its permits at hand? -/
def msgReady (s : State) : Bool :=
  (s.fabric.inbox.find s.arg.id).any (fun m => s.inPermit m.port (s.inLines m.packet).1) &&
    s.fabric.inbox.all (fun e => decide (s.arg.id ≤ e.1))
theorem witness_FabricTraffic_peers :
    ([(0, 1), (65280, 256), (65535, 1)].all (fun e => let k := aPkt 1 .classU (.read (ptrAt e.1) e.2)
        let s := tPeer (.read (ptrAt e.1) e.2)
        msgReady s && s.fabric.doneRecs.isEmpty &&
        admitted s k (ptrAt e.1) e.2 PeerWin.r && (List.range ((e.1 % 128 + e.2 + 127) / 128)).all (fun i =>
          s.homeReady ((0x200000 + e.1) / 128 + i) false)) &&
      [(65535, 2), (65536, 1)].all (fun e => let s := tPeer (.read (ptrAt e.1) e.2)
        msgReady s && decide (¬ (ptrAt e.1).toNat % 2 ^ 41 + e.2 ≤ ((s.vi 0).wins.get 3 {}).gran * 65536)) &&
      [(0, 1), (64, 64), (65535, 1)].all (fun e =>
        let b := PktBody.write (ptrAt e.1) (List.replicate e.2 9) (List.replicate e.2 false)
        let s := tPeer b
        let ia := 0x200000 + e.1
        msgReady s && admitted s (aPkt 1 .classU b) (ptrAt e.1) e.2 PeerWin.w && decide (ia % 128 + e.2 ≤ 128) && (s.homes.find (ia / 128)).any (fun h =>
          decide (roomFor s (tmax s.fabric.ft ((s.whole h).rt + 1)))) &&
          !isIdentity (ia / 128 * 128) && !s.flipping (ia / 128 * 128) && !s.bridge.filter.contains (ia / 128) && !s.brokenPage (ia / 128 * 128)) &&
      [PktBody.ack, .data [1] []].all (fun b => let s := tPeer (.read (ptrAt 0) 1) [(7, 3, 9, 0, b)]
        isAsk (aPkt 1 .classU (.read (ptrAt 0) 1)) && msgReady s &&
        s.fabric.doneRecs.find? (fun e => e.1 = 7 && e.2.1 = 3 && e.2.2.1 = 9) == some (7, 3, 9, 0, b)) &&
      (let s := tPeer (.notice 0 5 6)
       msgReady s && s.sendReady 0 5 (.peer 7 0)) &&
      [PktBody.notice 0 5 6, .mgmtRead 0, .mgmtWrite 0x10 5].all (fun b => let s := tPeer b
        msgReady s && (s.fabric.inbox.find s.arg.id).any (fun e => decide (e.packet.body = b)) && s.fabric.doneRecs.isEmpty)) = true := by decide +kernel

/-! ## Witnesses: control registers, boot, power and steps -/

/-- CSRR and CSRW of the address in s16:17, on the service core. -/
def tCsr (ca : Nat) : State := svc (withU tState [(16, ca % 2 ^ 32), (17, ca / 2 ^ 32), (32, 0x77), (33, 0)])
/-- Addresses of each page, first and last; none of them; one that is misaligned. -/
theorem witness_ControlRegisters :
    ([(0, 0), (32 * 2 ^ 30 + 0xFFF8, 0), (6 * 2 ^ 36, 0), (14 * 2 ^ 36 + 0x100000, 0), (14 * 2 ^ 36 + 0x2FFFF8, 0), (15 * 2 ^ 36, 0),
        (33 * 2 ^ 30, 1), (0x10000, 1), (2 ^ 36, 1), (13 * 2 ^ 36, 1), (14 * 2 ^ 36 + 0x300000, 1), (2 ^ 40, 1), (6 * 2 ^ 36 + 4, 2)].all (fun e =>
        [Op.csrr, .csrw].all (fun o => plain o (sm o) (tCsr e.1) (fun c => !c.blk.ns && (c.va 0 == e.1) &&
          (decide (controlAddress (tCsr e.1) (c.va 0)) == (e.2 != 1)) && (decide (c.va 0 % 8 = 0) == (e.2 != 2)) &&
          !(tCsr e.1).accessing c.r && !(tCsr e.1).memHeld c.r false))) &&
      (let s := (tCsr 0).modBlock 0 (fun b => { b with ns := true })
       [Op.csrr, .csrw].all (fun o => plain o (sm o) s (fun c => c.blk.ns))) &&
      (let s : State := { tState with arg := { address := 6 * 2 ^ 36 + 0x20 } }
       decide (controlAddress s s.arg.address.toNat ∧ s.arg.address.toNat % 8 = 0)) &&
      decide (State.reset.bridge.active < 2) &&
      (List.range 64).all (fun v => (State.reset.vi v).drained) && !((tState.modVi 63 (fun v => { v with drained := false })).vi 63).drained &&
      decide (tState.boot.viCount = 64)) = true := by decide +kernel

/-- Signature checks that all succeed, or that find a bad Ed25519 signature. -/
def sigOf (good : Bool) : SigCheck := { edKey := true, edSig := good, mlKey := true, mlSig := true }
/-- A record as it stands in the store. -/
def mkRec (type ver : Nat) (body : List Byte) (good : Bool := true) : CfgRecord :=
  { bytes := [0x4B, 0x43, 0x46, 0x47] ++ (leBytes 2 type ++ (leBytes 2 body.length ++ (leBytes 8 ver ++ (body ++ List.replicate 3373 0))))
    sig := sigOf good }
/-- A LIVE record of one die, one slice, every core of the die and one chiplet. -/
def liveRec (ver : Nat) (good : Bool) : CfgRecord := mkRec 1 ver (leBytes 40 (1 + 2 ^ 6 + 2 ^ 14 + (2 ^ 33 - 1) * 2 ^ 30)) good
/-- A record that sets Tamper's turns. -/
def tamperRec (n : Nat) : CfgRecord := mkRec 3 1 (leBytes 8 n)
/-- The machine before boot, with a store of records, of which those of type 1 must be at least version 2. -/
def tBoot (rs : List CfgRecord) : State := { State.reset with arg := { store := { records := rs, rollback := [(1, 2)] } } }
theorem witness_ResetBootAndPower_boot :
    ([[], [liveRec 5 false], [liveRec 1 true]].all (fun rs => let s := tBoot rs
        decide (s.boot.step = 0) && !s.boot.err && rs.all (fun r => decide (recType r = 1 ∧ ¬ Accepted s.arg.store r))) &&
      (let s := tBoot [liveRec 2 true, liveRec 5 true, liveRec 9 false, tamperRec 600]
       decide (Applies s.arg.store (liveRec 5 true)) && decide (Applies s.arg.store (tamperRec 600)) &&
         decide (∀ q ∈ s.arg.store.records, recType q ≠ 6 ∧ recType q ≠ 7 ∧ recType q ≠ 2)) &&
      decide (∀ q ∈ (tBoot [liveRec 5 true]).arg.store.records, recType q ≠ 3)) = true := by decide +kernel
/-- Power and temperature at the cap, at 105 °C, at 115 °C and below. -/
theorem witness_ResetBootAndPower_power :
    ([(3400000, 0, true), (0, 1680, true), (3399999, 1679, false), (0, 1840, true)].all (fun e =>
        let s : State := { tState with arg := { value2 := BitVec.ofNat 32 e.1, index := e.2.1 } }
        decide (1000 * s.boot.cap ≤ s.arg.value2.toNat ∨ 1680 ≤ s.arg.index) == e.2.2) &&
      [true, false].all (fun fl => ({ tState with arg := { flag := fl } } : State).arg.flag == fl)) = true := by decide +kernel

/-- Is it a next state? -/
def isNext (x : Host.Outcome State Fault Refusal) : Bool := match x with | .next _ => true | _ => false
/-- The word is in the hand of the path whose issue is next. -/
def tWord (w : Nat) : State :=
  { fibre tState (fun f => { f with fetched := some (0x1000, BitVec.ofNat 96 w) }) with agenda := [.issue ⟨0, 0, 0⟩ 0x1000 false] }
/-- The state in which the path may issue, and the one that issues. -/
def inTurn (s : State) (rest : List Move) : State := ({ moveTaken s rest with now := s.now + 1 } : State).passLead ⟨0, 0, 0⟩
def issuing (s : State) (rest : List Move) : State := (inTurn s rest).serve ⟨0, 0, 0⟩ 0x1000
/-- The code at VA 0x1000 is the word `w`. -/
def tCodeOf (w : Nat) : State := { putH tCode 0x1000 (leBytes 12 w) with agenda := [.issue ⟨0, 0, 0⟩ 0x1000 false] }
/-- The code at VA 0x1000 is an EXIT. -/
def tExit : State := tCodeOf (0x145 + 0xF * 2 ^ 10)
/-- The word of zeros decodes to nothing. -/
def tNoForm : State := tCodeOf 0
theorem witness_StepRunsTheDecoded :
    ([0x200020000400008003C00, 0x145 + 0xF * 2 ^ 10, 0x0].all (fun w => let s := tWord w
        let z := issuing s []
        !s.stopped && (inTurn s []).mayIssue ⟨0, 0, 0⟩ 0x1000 && (inTurn s []).turnOf ⟨0, 0, 0⟩ 0x1000 &&
          (z.inHand ⟨0, 0, 0⟩ 0x1000 == some (BitVec.ofNat 96 w)) &&
          (match decodeWord w with
          | .ok i => isNext (exec i (atIssue z ⟨0, 0, 0⟩ 0x1000 false))
          | .error _ => w == 0)) &&
      [(tExit, true), (tNoForm, false)].all (fun e => let z := issuing e.1 []
       (inTurn e.1 []).mayIssue ⟨0, 0, 0⟩ 0x1000 && (inTurn e.1 []).turnOf ⟨0, 0, 0⟩ 0x1000 && (z.inHand ⟨0, 0, 0⟩ 0x1000).isNone &&
         (match decodeWord (codeWord z (fun i => 0x201000 + i)).toNat with
         | .ok i => e.2 && isNext (exec i (atIssue (keepsWord z ⟨0, 0, 0⟩ 0x1000 (codeWord z (fun i => 0x201000 + i))) ⟨0, 0, 0⟩ 0x1000 false))
         | .error _ => !e.2)) &&
      !(inTurn (fibre (tWord 0) (fun f => { f with st := .waiting })) []).mayIssue ⟨0, 0, 0⟩ 0x1000 &&
      (let s : State := { tState with agenda := [.event .portEnable { port := 3 }] }
       !s.stopped && isNext (exec .portEnable { moveTaken s [] with arg := { port := 3 } })) &&
      ({ tState with stopped := true } : State).stopped) = true := by decide +kernel
/-- What `CodeAt` asks of the word at VA 0x1000, at IA 0x201000, as a check. -/
def codeGood (s : State) : Bool := let b := s.block 0
  (List.range 12).all (fun i => (match vaRange b (0x1000 + i) with
    | some g => g.x && (g.ns || !b.ns) && decide (0x201000 + i = g.iabase + (0x1000 + i - g.vabase))
    | none => false) && good (s.pageOf b (0x201000 + i)) && s.homeReady ((0x201000 + i) / 128) false && !s.iaPoison (0x201000 + i))
theorem codeAt_of (s : State) (h : codeGood s = true) : CodeAt s (s.block 0) 0x1000 (fun i => 0x201000 + i) := by
  intro i hi
  simp only [codeGood, List.all_eq_true, List.mem_range] at h
  have hb := h i hi
  simp only [Bool.and_eq_true] at hb
  obtain ⟨⟨⟨h1, h2⟩, h3⟩, h4⟩ := hb
  refine ⟨by simp only [BitVec.reduceToNat]; omega, ?_, ?_, h3, by simpa using h4⟩
  · show ∃ g, vaRange (s.block 0) (0x1000 + i) = some g ∧ _
    cases hg : vaRange (s.block 0) (0x1000 + i) with
    | none => simp [hg] at h1
    | some g => exact ⟨g, rfl, by simpa [hg, and_assoc] using h1⟩
  · show ∃ a, s.pageOf (s.block 0) (0x201000 + i) = .ok a
    cases hp : s.pageOf (s.block 0) (0x201000 + i) with
    | ok a => exact ⟨a, rfl⟩
    | error e => simp [hp, good] at h2
theorem witness_codeExit : CodeAt (issuing tExit []) ((issuing tExit []).block 0) 0x1000 (fun i => 0x201000 + i) :=
  codeAt_of _ (by decide +kernel)
theorem witness_codeNoForm : CodeAt (issuing tNoForm []) ((issuing tNoForm []).block 0) 0x1000 (fun i => 0x201000 + i) :=
  codeAt_of _ (by decide +kernel)
theorem witness_StepKeepsElected :
    (State.reset.elected && tState.elected && isNext (step { tState with agenda := [.event .portEnable { port := 3 }] })) = true := by
  decide +kernel
theorem witness_DecodeAndEncodeAgree :
    (let i : Instr := .iadd { d := v 3, a := v 1, b := v 2, x := mods 0 .none .none .n32 }
     i.wf && (match i.encode with
     | some w => decide (w < 2 ^ 96) && isWord w i
     | none => false)) = true := by decide +kernel

/-! ## Values worked out by hand -/

/-- The state after an instruction at the test state with lane registers set in lane 0. -/
def laneRun (i : Instr) (l : List (Nat × Nat)) : State :=
  after (exec i (tState.modCore 0 (fun c => { c with
    uni := l.foldl (fun m e => m.writes (64 * e.1) (leBytes 4 e.2)) c.uni })))
/-- A register of lane 0. -/
def lane0 (s : State) (n : Nat) : Nat := leNat ((s.core 0).uni.bytes (64 * n) 4)
/-- Fields for `v8 = v16 op v17`. -/
def binF (x : Ext) : Ins := { d := v 8, a := v 16, b := v 17, x := x }
theorem test_add_wraps : lane0 (laneRun (.iadd (binF (mods 0 .none .none .n32))) [(16, 0xFFFFFFFF), (17, 2)]) 8 = 1 := by decide +kernel
theorem test_sub_borrows : lane0 (laneRun (.isub (binF (mods 0 .none .none .n32))) [(16, 1), (17, 2)]) 8 = 0xFFFFFFFF := by decide +kernel
/-- 1.0 + 2.0 = 3.0. -/
theorem test_fadd : lane0 (laneRun (.fadd (binF (mods 0))) [(16, 0x3F800000), (17, 0x40000000)]) 8 = 0x40400000 := by
  decide +kernel
/-- 3.0 × -0.5 = -1.5. -/
theorem test_fmul : lane0 (laneRun (.fmul (binF (mods 0))) [(16, 0x40400000), (17, 0xBF000000)]) 8 = 0xBFC00000 := by
  decide +kernel
/-- The PC moves past the 12 bytes of the word. -/
theorem test_pc : ((laneRun (.iadd (binF (mods 0 .none .none .n32))) []).fib ⟨0, 0, 0⟩).lanes.map Lane.pc = List.replicate 16 0x100C := by
  decide +kernel

/-! ## Witnesses: flags that trap, poison, faults of targets -/

/-- The last lane's registers are poisoned; the two words of its sources hold a pattern; every flag is enabled. -/
def tPoi : State := tLone.modCore 0 (fun c => { c with uniPoison := (List.range 64).map (fun r => 16 * r + 15) })
def tTraps (lo hi : Nat) : State :=
  let words : List (Nat × Nat) := [(16, lo), (17, hi), (24, lo), (25, hi), (32, lo), (33, hi)]
  fibre (tLone.modCore 0 (fun c => { c with
    uni := (words.flatMap (fun r => (leBytes 4 r.2).zipIdx.map (fun e => (64 * r.1 + 60 + e.2, e.1)))).filter (fun e => e.2 ≠ 0) })) (fun f =>
    { f with fpcs := 0x3F00 })
/-- Forms whose sources are poisoned. -/
def poisonMeets (ops : List Op) : Bool := ops.all (fun o => meets o (sm o) tPoi (fun c => c.poisoned))
/-- Forms that set an enabled flag. -/
def fpxMeets (ops : List Op) (rule : Op → Ins → LaneIn → LaneOut) (s : State) : Bool :=
  ops.all (fun o => meets o (sm o) s (fun c => !c.poisoned && decide (fpxSet c.fib.fpcs (c.laneRes (rule o (sm o))).effs ≠ 0)))
theorem witness_poison_registers :
    (poisonMeets (intForms ++ bitForms) && poisonMeets (moveForms.filter (fun o => decide (o ∉ [Op.movi, .psetp, .ptov]))) &&
      poisonMeets (floatForms ++ compareForms ++ convertForms) && poisonMeets [.matchW, .shfl, .redw, .scanw, .vtou]) = true := by decide +kernel
/-- A signalling NaN of FP32, and one of FP64. -/
theorem witness_fpx :
    (fpxMeets (floatForms.filter (fun o => decide (o ∉ [Op.dadd, .dmul, .dfma, .pfma2]))) floatRule (tTraps 0x7F817F81 0x7F817F81) &&
      fpxMeets [.dadd, .dmul, .dfma] floatRule (tTraps 1 0x7FF00000) &&
      fpxMeets [.fmin, .fmax, .pmin2, .pmax2, .fsetp, .psetp2, .fset, .frnd, .fgetexp, .fgetman] compareRule (tTraps 0x7F817F81 0x7F817F81) &&
      fpxMeets [.pfma2] floatRule (tTraps 0x7C017C01 0) && fpxMeets [.dmin, .dmax, .dsetp] compareRule (tTraps 1 0x7FF00000) &&
      fpxMeets [.cvt, .cvtsr] convertRule (tTraps 0x7F817F81 0x7F817F81)) = true := by decide +kernel
/-- Each transcendental function at 1.1, which has no exact result. -/
theorem witness_SpecialFunctionBounds :
    transcendental.all (fun o => plain o (sm o) (fibre (tTraps 0x3F8CCCCD 0) (fun f => { f with fpcs := 0 })) (fun c =>
      decide (fpcsEnables c.fib.fpcs = 0) && decide (exactAt o false 0x8CCCCD (-23) = none) &&
        c.lanes.all (fun l => decide (decodeF .f32 (c.va l) = .fin false 0x8CCCCD (-23))))) = true := by decide +kernel
/-- BRX to targets in v16:17: out of range in lane 15, misaligned there. -/
theorem witness_ControlTransfers_faults :
    ([Op.brx, .ret].all (fun o => [(0, 0x2000000), (0, 0x1FFFFFF), (2, 0), (0xFFFFFFFF, 0xFFFFFFFF)].all (fun e =>
        meets o { a := v 16 } (tTraps e.1 e.2) (fun c =>
          (c.lanes.find? (fun k => decide (2 ^ 57 ≤ transferTarget o { a := v 16 } c k)) == if e.2 < 0x2000000 then none else some 15) &&
          (c.lanes.find? (fun k => decide (transferTarget o { a := v 16 } c k % 4 ≠ 0)) == if e.1 = 0 then none else some 15))))) = true := by decide +kernel

/-- Lane `l` is the lowest that lies outside, or none does and it is the lowest misaligned one. -/
def remoteBad (o : Op) (f : Ins) (s : State) (out : Ctx → Nat → Bool) (addr : Ctx → Nat → Int) (l : Option Nat) (mis : Option Nat) : Bool :=
  meets o f s (fun c => c.lanes.find? (out c) == l &&
    (l.isSome || c.lanes.find? (fun k => decide ((addr c k).toNat % 2 ^ 64 % c.size ≠ 0)) == mis))
/-- LDO and STO at the map: past the scratchpad of the core, a control page by 32 bits, an odd address; REDR past rank 0's window; PATOM below
and past its window. -/
theorem witness_AccessFaults_remote :
    ([(Op.ldo, v 24), (.sto, v 8)].all (fun e => let f : Ins := { d := e.2, a := u 40, b := v 16, x := mems .b32 }
        [(0xFF * 2 ^ 44 + 0x18000 - 64, some 8, none), (0xFF * 2 ^ 44 + 0x10002, none, some 0), (0, some 0, none),
            (0xFF * 2 ^ 44 + 2 * 2 ^ 32, some 0, none)].all (fun x =>
          let s := withMap (tAddr 8) x.1
          remoteBad e.1 f s (fun c k => (s.mapPlace c.blk (wrapTo 64 (laneAddr c true k)) false).isNone)
            (fun c k => (wrapTo 64 (laneAddr c true k) : Nat)) x.2.1 x.2.2)) &&
      [(0x7FD0, some 6, none), (2 * 2 ^ 21, some 0, none), (0x12, none, some 0)].all (fun x =>
        let f : Ins := { d := v 8, a := u 40, b := v 16, x := mems .n32 .c .rlx }
        remoteBad .redr f (withU (tAddr 8) [(40, x.1)]) (remoteOut .redr) (remoteAddr .redr) x.2.1 x.2.2) &&
      [(2 ^ 41 - 32, some 4, none), (2, none, some 0)].all (fun x =>
        let f : Ins := { d := v 8, a := u 40, b := v 16, x := mems .n32 .s .rlx }
        remoteBad .patom f (withU (tAddr 8) [(40, x.1 % 2 ^ 32), (41, x.1 / 2 ^ 32)]) (remoteOut .patom) (remoteAddr .patom) x.2.1 x.2.2)) = true := by
  decide +kernel
/-- A descriptor's VA in s16:17. -/
def tDesc (va : Nat) : State := withU tState [(16, va), (17, 0), (32, 0x80), (33, 0), (34, 0), (35, 0)]
theorem witness_AccessFaults_descriptors :
    (describedBy.all (fun e =>
        meets e.1 (sm e.1) (tDesc 0xFFFE0) (fun c => c.mayCommand e.2.2 && !reachable c.blk (c.va 0)) &&
        meets e.1 (sm e.1) (tDesc 0x100010) (fun c => c.mayCommand e.2.2 && reachable c.blk (c.va 0) &&
          good ((tDesc 0x100010).enginePieces c.blk 0 (c.va 0) 1 Range.r))) &&
      [(Op.tblld, 2080), (.cbld, 32)].all (fun e => let f (fn : Nat) : Ins := { sm e.1 with x := mods fn }
        meets e.1 (f 1) (tDesc (0x8001 - e.2)) (fun c => c.mayCommand .copy && decide (c.blk.sspan < c.va 0 + e.2)) &&
        meets e.1 (f 1) (tDesc 0x7010) (fun c => c.mayCommand .copy && decide (c.va 0 + e.2 ≤ c.blk.sspan)) &&
        meets e.1 (f 0) (tDesc 0xFFFE0) (fun c => c.mayCommand .copy && !reachable c.blk (c.va 0)))) = true := by decide +kernel
/-- Tokens of BARW that are not legal: a phase not opened, one open at another scope, one that completed at another scope. -/
theorem witness_NamedBarriers_tokens :
    [(({ ph := 1 } : Bar), 2, true), ({ ph := 1, scp := .c }, 1, true), ({ ph := 1, lscp := .c }, 0, true), ({ ph := 1, lscp := .c }, 1, false)].all (fun e =>
      let s := withU (withBar e.1) [(32, e.2.1)]
      meets .barw { barF .none 0 with b := u 32 } s (fun c =>
        let t : Word := BitVec.ofNat 32 (c.vb 0)
        let z := s.barAhead c.r.blk .b 1
        !c.barIll 1 0 && (decide (0 < (t - z.ph).toInt ∨ (t = z.ph ∧ z.scp ≠ .none ∧ z.scp ≠ .b) ∨ (t = z.ph - 1 ∧ z.lscp ≠ .none ∧ z.lscp ≠ .b)) ==
          e.2.2))) = true := by decide +kernel

/-- The engine has command 0, which TBLLD or CBLD issued: from scratchpad or from memory. -/
def withLoad (o : Op) (fn : Nat) (bs : List Byte) : State :=
  let s := withU (putH tHome 0 bs) [(44, 0)]
  { after (exec (o.instr (slotF fn (if o = .tblld then .sp (.atab 1) else .sp (.cbook 2)))) s) with arg := { core := 0, id := 0 } }
/-- Copies between spaces: from and to the page, a pattern, a gather and a scatter; two of scratchpad rows. -/
theorem witness_CommandSteps_general :
    [(Op.cpy, desc64 0x100100 0x1000 16 2 0 0 1 32 32), (.cpy, desc64 0x1000 0x100104 16 2 0 1 0 32 64), (.cpy, desc64 0x55AA55AA55AA55AA 0x1000 16 2 0 4 1 0 32),
        (.cpy, desc64 0x100080 0 128 0 0 0 2 0 0), (.gath, desc64 0x100100 0x1000 16 0 0 0 1 32 32), (.scat, desc64 0x1000 0x100400 4 0 0 1 0 32 32)].all (fun e =>
      let s := withCmd e.1 e.2
      ((s.core 0).cmds.find 0).any (fun m =>
        let d := copyDesc m.desc
        let rows := copyRows m d
        let b := s.block m.ref.blk
        let src := rows.map (fun r => if d.ss = 4 then [] else okD (s.enginePieces b d.ss r.1 d.len Range.r) [])
        let dst := rows.map (fun r => okD (s.enginePieces b d.ds r.2 d.len Range.w) [])
        (m.op == e.1) && !m.started && m.badData.isEmpty && decide (copyCheck m.op d (sext 64 m.b.toNat) (sext 64 m.c.toNat) = 0) &&
          rows.all (fun r => (d.ss = 4 || good (s.enginePieces b d.ss r.1 d.len Range.r)) && good (s.enginePieces b d.ds r.2 d.len Range.w)) &&
          (s.clearing 0 m.ti (src.flatten ++ dst.flatten) false).isNone && !dst.flatten.isEmpty &&
          src.flatten.all (fun p => dst.flatten.all (fun q => !p.meets q && !q.meets p)) &&
          (m.op == .cpy || decide (dst.Pairwise (fun (x y : List Piece) => ∀ p ∈ x, ∀ q ∈ y, p.meets q = false ∧ q.meets p = false))))) = true := by decide +kernel
/-- Loads of slots, with an image that fails its check and one that passes it; a store to global memory that has its data. -/
theorem witness_CommandSteps_slots :
    ([(Op.tblld, 1, [9], true), (.tblld, 0, leBytes 8 1 ++ leBytes 8 1, false), (.tblld, 0, leBytes 32 5, true), (.cbld, 1, [], true),
        (.cbld, 0, leBytes 32 7, true)].all (fun (e : Op × Nat × List Byte × Bool) =>
      let s := withLoad e.1 e.2.1 e.2.2.1
      ((s.core 0).cmds.find 0).any (fun m =>
        let n := if m.op = .tblld then 2080 else 32
        let b := s.block m.ref.blk
        (m.op == e.1) && !m.started && decide (b.core = 0 ∧ (s.core 0).cmds.length = 1) &&
          (decide (m.f.x.fn ≠ 1) || (List.range n).all (fun i => !s.storePoison 0 (b.sbase + m.a.toNat + i) false)) &&
          ((m.op == .cbld || dzero (if m.f.x.fn = 1 then scratchBytes s 0 (b.sbase + m.a.toNat) n else m.desc) 8 24) == e.2.2.2))) &&
      (let s : State := { after (exec .commandStart (withCmd .cpy (desc64 0x1000 0x100104 16 2 0 1 0 32 64))) with arg := { core := 0, id := 0 } }
       ((s.core 0).cmds.find 0).any (fun m => m.started && m.reqs.isEmpty && m.spoiled.isEmpty && (match s.currentRuns m with
         | .ok runs => runs.any (fun r => decide (r.kind = 0)) &&
             (s.clearing 0 m.ti ((runs.filter (fun r => r.kind == 0 && r.attr != .priv)).map WriteRun.piece) true).isNone
         | .error _ => false)))) = true := by decide +kernel

/-! ## Witnesses: memory and requests -/

/-- Engine requests of command 0, tried `n` times at the slice of line 0x4001 since cycle 0. -/
def tTries (n : Nat) : State :=
  let s := { after (exec .commandStart (withCmd .cpy (desc64 0x1000 0x100104 16 2 0 1 0 32 64))) with
    now := 35000, arg := { core := 0, id := 0, line := aLine, engine := true } }
  let k := 16 * (s.home (aLine * 128)).1 + (s.home (aLine * 128)).2
  s.modCore 0 (fun c => { c with cmds := c.cmds.mapVal (fun _ m => { m with tries := if n = 0 then [] else [(k, (n, 0))] }) })
theorem witness_RequestsUnderWay_timers :
    ([0, 1, 4, 5].all (fun n => ((tTries n).core 0).cmds.any (fun e => e.1 == 0 && e.2.started &&
        decide (e.2.tries = if n = 0 then [] else [((16 * ((tTries n).home (aLine * 128)).1 + ((tTries n).home (aLine * 128)).2), (n, 0))]))) &&
      [0, 1].all (fun n => let s := withRq tHome { aReq (.read 0x80000000 .short false) with sends := n }
        (s.reqs.find 5).isSome) &&
      [[], [(aLine, { ver := { wt := 0x80000000, rt := 0x80000000 } })]].all (fun cp => let s := withCopy cp (aReq .register)
        ((s.die 0).copies.find aLine).isSome || !s.setFull (0, bucket (aLine * 128) % 16) aLine) &&
      (let q := { aReq (.read 0x80000000 .predicted false) with reply := some (aReply .leased), pend := some 0 }
       !(withRq tHome q).replyBehind 5 q (aReply .leased))) = true := by decide +kernel
/-- A line of the page is to come in, by a leaf that is whole, or whose state does not match its ownership. -/
def tLeafFill (owner : Nat) : State :=
  { paged tState with arg := { line := aLine, sector := 1 }, owners := if owner = 0 then [] else [(0x20, owner)] }
theorem witness_HomesAndMemory_leaf :
    ([(paged tState, false), (tlbAs tState .leased, false), (({ tlbAs tState .priv with mem := ptMem } : State).modChiplet 6 (fun x => { x with ttroot := 0x10000001 }), true)].all (fun s0 => let s : State := { s0.1 with arg := { line := aLine } }
        (s.homes.find aLine).isNone && s.evicts.isEmpty && !isIdentity (aLine * 128) && !isHostWindow (aLine * 128) &&
          (match s.translate (aLine * 128) with | .ok l => !l.bias | _ => false) && !s.setFull (s.home (aLine * 128)) aLine &&
          (s.fill aLine).homes.any (fun h => h.1 == aLine) && ((s.fill aLine).brokenPage (aLine * 128) == s0.2)) &&
      (let s := tHome
       s.cores.all (fun c => c.2.cmds.all (fun m => !m.2.started || !m.2.pinned.contains aLine)))) = true := by decide +kernel
/-- Errors in data on the base die, and in a fill. -/
theorem witness_TimeAndErrors_data :
    ([{ aReq (.write [(3, 5)] 0x80000000 none false) with reply := none }, aReq (.atomic 0 0 .n32 [] 0x80000000 true),
        { aReq (.atomic 0 0 .n32 [] 0x80000000 true) with reply := some (aReply .leased) }].all (fun q =>
        decide (((withRq tFar q).home (q.line * 128)).1 ≠ q.core / 33)) &&
      (((tLeafFill 0).fill aLine).homes.find aLine).isSome && ((tLeafFill 0).homes.find aLine).isNone &&
      (let s := tStep [] 6
       let q := s.h + 0x10000000 - 0x40000000
       tle q (s.chiplet 6).mtime || tle q ((s.chiplet 6).seen + 0x80000)) &&
      (let s := (tStep [] 6).modChiplet 6 (fun x => { x with mtime := 0x30000000, seen := 0x30000000 })
       let q := s.h + 0x10000000 - 0x40000000
       !(tle q (s.chiplet 6).mtime || tle q ((s.chiplet 6).seen + 0x80000)))) = true := by decide +kernel

/-! ## Witnesses: service and interrupts -/

/-- A record is submitted to VI 0, which is drained or not, its table of queues readable or not. -/
def tSubmit (drained host : Bool) : State :=
  let s := tQueues.modVi 0 (fun v => { v with run := !drained, drained := drained, qtbase := 0x200000 })
  { (if host then { s.modChiplet 6 (fun x => { x with tlb := [{ leafAs .leased with bias := true }] }) with homes := [] } else s) with
    arg := { vi := 0, data := aRecord 5 1 } }
theorem witness_SpawnAndJoin_submit :
    ([(false, true), (true, true), (true, false)].all (fun e => let s := tSubmit e.1 !e.2
        s.boot.ready && decide (s.arg.vi < s.boot.viCount) && ((s.vi 0).drained == e.1) && !s.purging 0 (taskRec s.arg.data).tag &&
          (!e.1 || s.readable ((s.vi 0).entryAt (taskRec s.arg.data).prio) 32 == e.2)) &&
      decide ¬ (64 < (tSubmit true false).boot.viCount)) = true := by decide +kernel
theorem witness_ServiceForms_saves :
    ([(false, true), (true, false)].all (fun e => let s := tRun (!e.1) e.1
        meets .ctxsv { sm .ctxsv with x := mods 1 } s (fun c => decide (c.vb 0 % 2 ^ 32 < 64) && ((((did c).stopVi 0 true).vi 0).drained == !e.2))) &&
      [true, false].all (fun fl => let s : State := { tState with arg := { flag := fl }, bridge := { tState.bridge with switching := true } }
        s.bridge.switching && (s.arg.flag == fl))) = true := by decide +kernel
/-- The area of VI 0 stands in the page. -/
def tArea : State := { (tUi.modVi 0 (fun v => { v with uibase := 0x200000, areaDirty := [4] })) with
    homes := (homed tState .leased 80).homes, arg := { vi := 0, value := 1, index := 4 } }
theorem witness_UserInterrupts_keeper :
    ((tArea.vi 0).areaDirty.contains 4 && tArea.devReady ((tArea.vi 0).areaLine 4) tArea.h && tArea.boot.ready && tArea.boot.featacc.getLsbD 4 &&
      tArea.sendReady 0 1 (.host 0) && tArea.readable ((tArea.vi 0).uibase.toNat + 0x1000 + 16 * 4) 16 &&
      (let s := after (exec (.uisend (sm .uisend)) (withU tArea [(32, 0), (33, 5)]))
       (s.sends.find 0).any (fun q => s.sendReady q.vi q.vec (.context q.fromVi q.tag))) &&
      (let s := tUi.modVi 0 (fun v => { v with vecs := [(1, { mask := true })] })
       meets .uihdlMask (sm .uihdlMask) s (fun c => (s.vi c.blk.vi).run && (List.range 63).all (fun k => !((s.vi 0).vecs.get (k + 1) {}).pend))) &&
      (let s := withU (tUi.modVi 0 (fun v => { v with vecs := [(1, { mask := true, pend := true })] })) [(32, 0), (33, 0)]
       meets .uihdlMask { sm .uihdlMask with b := u 32 } s (fun c => (s.vi c.blk.vi).run && (s.boundResident 0).isSome &&
         ((s.vi 0).vecs.get 1 {}).pend && ((s.vi 0).vecs.get 1 {}).mask && !(c.vb 0).testBit 1)) &&
      (let s : State := { tArea with boot := { tArea.boot with viCount := 0 } }
       decide (s.boot.viCount ≤ s.arg.vi))) = true := by decide +kernel

/-! ## Witnesses: the handover, blocks that come and go -/

/-- The update of an area that stands as it is to be: no interface, everything zero. -/
def tSame : State :=
  { tHand false with boot := { tState.boot with viCount := 0 }, bridge := { (tHand false).bridge with bt := 0 }, mem := [] }
/-- A run of zeros. -/
def zeros (l : List Byte) : Prop := ∀ b ∈ l, b = 0
theorem tSame_byte (a : Nat) : tSame.devByte a = 0 := by
  have e1 : tSame.devq = [] := by decide
  have e2 : tSame.homes = [] := by decide
  have e3 : tSame.evicts = [] := by decide
  have e4 : tSame.bridge.lines = [] := by decide
  have e5 : tSame.mem = [] := by decide
  have hv : ∀ l, tSame.homeVer l = none := by
    intro l
    unfold State.homeVer
    split <;> simp [e2, e4, Map.find]
  have hm : ∀ p, tSame.mem.read p = 0 := by
    intro p
    simp [e5, Memory.read]
  simp only [State.devByte, e1, List.foldl_nil, State.iaByte, hv]
  have hl : ∀ l o, tSame.leaving l o = none := by simp [State.leaving, e3]
  have hp : ∀ p, tSame.paByte p = 0 := by
    intro p
    simp [State.paByte, e2, Map.find, hl, hm]
  split
  · split
    · exact hp _
    · simp only [hl]
      split
      · exact hm _
      · rfl
  · rfl
theorem zeros_leBytes (n : Nat) : zeros (leBytes n 0) := by
  induction n with
  | zero => simp [zeros, leBytes]
  | succ n ih => simpa [zeros, leBytes] using ih
theorem changedRuns_zeros (ia : Nat) (bs : List Byte) (h : zeros bs) : tSame.changedRuns ia bs = [] := by
  simp only [State.changedRuns, List.filterMap_eq_nil_iff, List.mem_range]
  intro i _
  rw [if_pos]
  apply List.ext_getElem
  · simp [State.devBytes]
  · intro k h1 h2
    simp only [State.devBytes, List.getElem_map, tSame_byte]
    exact (h _ (List.mem_of_mem_drop (List.mem_of_mem_take (List.getElem_mem h2)))).symm
theorem tSame_vi (v : Nat) : zeros (tSame.handoverVi v) := by
  have b : tSame.boot.viCount ≤ v := by
    have : tSame.boot.viCount = 0 := by decide
    omega
  have d : tSame.dies = [] := by decide
  have q (p : Nat) : (tSame.queue v p).head = 0 ∧ (tSame.queue v p).tail = 0 := by
    have e : tSame.vi v = {} := by
      have : tSame.vis = [] := by decide
      simp [State.vi, this, Map.get]
    have z : ∀ a, tSame.devBytes a 32 = List.replicate 32 0 := by
      intro a
      simp [State.devBytes, tSame_byte, List.map_const']
    simp only [State.queue, e, z, if_true]
    decide +kernel
  have r (i : Nat) : tSame.viRead v (8 * i) = 0 := by simp [State.viRead, b]
  intro x hx
  simp only [State.handoverVi, r, q, d, List.flatMap_nil, List.filter_nil, List.take_nil, List.mem_append, List.mem_flatMap, List.length_nil] at hx
  rcases hx with ((⟨_, _, h⟩ | ⟨_, _, h | h⟩) | h) | h
  · exact zeros_leBytes _ _ h
  · exact zeros_leBytes _ _ h
  · exact zeros_leBytes _ _ h
  · simp at h
  · exact zeros_leBytes _ _ h
theorem witness_HeadsAndHandover_same :
    tSame.handoverRuns = [] ∧ tSame.bridge.hobase ≠ 0 ∧ (tHand false).handoverRuns ≠ [] ∧
      ((tHand false).vis.filter (fun e => e.2.drained && e.2.qtbase ≠ 0)).isEmpty = true := by
  refine ⟨?_, by decide, ?_, by decide⟩
  · unfold State.handoverRuns
    dsimp only
    rw [changedRuns_zeros, List.nil_append, List.flatMap_eq_nil_iff]
    · intro v _
      refine changedRuns_zeros _ _ ?_
      intro x hx
      rcases List.mem_append.mp hx with h | h
      · exact tSame_vi v x h
      · exact zeros_leBytes _ _ h
    · intro x hx
      rcases List.mem_append.mp hx with h | h
      · have e : leBytes 8 tSame.bridge.active ++ leBytes 8 tSame.epoch.toNat ++ leBytes 8 tSame.bridge.bt.toNat = List.replicate 24 0 := by
          decide +kernel
        rw [e] at h
        exact List.eq_of_mem_replicate h
      · exact zeros_leBytes _ _ h
  · intro h
    have k := (List.append_eq_nil_iff.mp h).1
    simp only [State.changedRuns, List.filterMap_eq_nil_iff, List.mem_range] at k
    have k1 := k 1 (by simp only [List.length_append, length_leBytes]; omega)
    revert k1
    decide +kernel

/-- The task of a cluster of two blocks, and that of a cooperative grid of two blocks, taken. -/
def unitTask (coop : Bool) : State :=
  { tTask with tasks := tTask.tasks.mapVal (fun _ t => { t with tr := { t.tr with coop := coop }, ker := { t.ker with c := if coop then t.ker.c else 2 } }) }
/-- Two placements. -/
def twoPlaces : List Placement := [aPlace 1, aPlace 2]
/-- Can the unit's blocks go to the placements? -/
def mayAdmitUnit (s : State) (ps : List Placement) : Bool :=
  match s.nextUnit with
  | some ((h, t), kept) =>
    let n := if t.tr.coop then t.tr.gx * t.tr.gy * t.tr.gz else max 1 t.ker.c
    let start := if precedes t.tr.stime s.h then s.h else t.tr.stime
    let new (i : Nat) : Block := t.blockAt h (t.next + i) start t.service
    !s.restorable && decide (ps.length = n) && ps.all (fun p => !kept.contains p.core) && decide ((ps.map Placement.core).Nodup) &&
      (s.handOver (ps.map Placement.core)).isNone && s.unitSound (((List.range n).map (fun i => (new i).clusterKey)).zip ps) &&
      ps.zipIdx.all (fun p => s.placeOk (new p.2) p.1) && decide ((s.vi t.tr.vi).slots.length + n ≤ (s.vi t.tr.vi).savecfg.toNat % 2 ^ 16)
  | none => false
theorem witness_BlocksComeAndGo_units :
    (mayAdmitUnit tTask [aPlace 1] && [true, false].all (fun coop => mayAdmitUnit (unitTask coop) twoPlaces)) = true := by decide +kernel
/-- A task whose blocks have all ended, with a JOIN at 0x100080 whose COUNT is `cnt`, or none. -/
def tDone (cnt joina : Nat) (failed : Bool) : State :=
  let s := putH tQueues 0x80 (leBytes 4 cnt ++ List.replicate 60 0 ++ aRecord 5 1)
  { s with tasks := [(7, { tr := { taskRec (aRecord 5 1) with vi := 0, joina := BitVec.ofNat 64 joina }, ranges := tBlk.ranges, next := 2, live := 0
                           failed := failed, gt := 0x80000050 })] }
/-- What the JOIN of a finished task asks for. -/
def joinAtEnd (s : State) (cnt : Nat) : Bool :=
  (s.tasks.find 7).any (fun t =>
    let b : Block := { vi := t.tr.vi, tag := t.tr.tag, task := 7, ns := t.world, service := t.service, ranges := t.ranges }
    let va := t.tr.joina.toNat
    let w := completed s 7 t
    decide (t.live = 0) && decide (t.tr.gx * t.tr.gy * t.tr.gz ≤ t.next) && (s.joinWaits t).isNone && decide (t.tr.joina ≠ 0) && !t.failed &&
      (vaRange b va).any (fun g =>
        let ia := g.iabase + (va - g.vabase)
        g.r && g.a && (g.ns || !t.world) && good (w.pageOf b ia) && !isIdentity (ia / 128 * 128) && !isHostWindow (ia / 128 * 128) &&
          !w.brokenPage (ia / 128 * 128) && !s.purging t.tr.vi t.tr.tag &&
          (w.homes.find (ia / 128)).any (fun x => decide ((w.whole x).poison = 0) && decide (lineNat (w.whole x).data 0 4 = cnt))))
theorem witness_BlocksComeAndGo_completion :
    ([0, 1, 2].all (fun n => joinAtEnd (tDone n 0x100080 false) n) &&
      [(0, false), (0x100080, true)].all (fun e => ((tDone 1 e.1 e.2).tasks.find 7).any (fun t =>
        decide (t.live = 0) && decide (t.tr.gx * t.tr.gy * t.tr.gz ≤ t.next) && (decide (t.tr.joina = 0) || t.failed)))) = true := by decide +kernel

/-- A run of lines outside the host window can be read, where no leaf has the bias of the host. -/
theorem readable_plain (s : State) (leaf : Leaf) (hr : s.recalls = []) (hc : ∀ a, s.chipletOf a = 6) (ht : (s.chiplet 6).tlb = [leaf])
    (hb : leaf.bias = false) (h0 : (s.chiplet 6).ttroot = 0) (a n : Nat) (hw : ∀ l ∈ runLines a n, isHostWindow (l * 128) = false) :
    s.readable a n = true := by
  simp only [State.readable, List.all_eq_true]
  intro l hl
  have t (w : Leaf) (h : s.translate (l * 128) = .ok w) : w.bias = false := by
    simp only [State.translate, State.walk, hc, ht, h0, List.find?_cons, List.find?_nil] at h
    split at h
    · rename_i x hx
      split at hx
      · cases hx; cases h; exact hb
      · cases hx
    · simp at h
  simp only [State.lineReadable, State.flipping, hr, Bool.not_false, Bool.true_and, State.lineHome, hw l hl]
  split <;> rename_i e
  · split at e
    · split at e <;> cases e
    · simp only [Bool.false_eq_true, if_false] at e
      split at e
      · cases e
      · split at e
        · rename_i w h
          rw [t w h] at e
          simp at e
        · cases e
  · rfl
/-- The lines of a run below 2^40 are outside the host window. -/
theorem run_low (a n : Nat) (h : a + n < 2 ^ 40) : ∀ l ∈ runLines a n, isHostWindow (l * 128) = false := by
  intro l hl
  simp only [runLines, List.mem_map, List.mem_range] at hl
  obtain ⟨i, hi, rfl⟩ := hl
  have : (a / 128 + i) * 128 < 2 ^ 41 := by omega
  have e : (a / 128 + i) * 128 / 2 ^ 49 = 0 := Nat.div_eq_of_lt (by omega)
  simp only [isHostWindow, bitsOf, e]
  decide
/-- With chiplet 6 alone alive it is every address's. -/
theorem chiplet_six (s : State) (h : s.liveChiplets = [6]) (a : Nat) : s.chipletOf a = 6 := by
  unfold State.chipletOf
  rw [h]
  simp [Nat.mod_one]
theorem witness_BlockMoves_slots : ∀ st ∈ [BState.saved, .displaced, .landing],
    (tSaved st).readable ((tSaved st).slotRun 1).1 ((tSaved st).slotRun 1).2 = true := by
  intro st hst
  have k : (tSaved st).recalls = [] ∧ (tSaved st).liveChiplets = [6] ∧ ((tSaved st).chiplet 6).tlb = [leafAs .leased] ∧
      ((tSaved st).chiplet 6).ttroot = 0 ∧ ((tSaved st).slotRun 1).1 + ((tSaved st).slotRun 1).2 < 2 ^ 40 := by
    simp only [List.mem_cons, List.not_mem_nil, or_false] at hst
    rcases hst with rfl | rfl | rfl <;> decide +kernel
  exact readable_plain _ _ k.1 (chiplet_six _ k.2.1) k.2.2.1 rfl k.2.2.2.1 _ _ (run_low _ _ k.2.2.2.2)
theorem witness_BlockMoves_saves :
    [SaveReason.preempt, .tamper, .migrate].all (fun why => let s := tStop why
      (why == .migrate || decide (s.groupOf 1 = [1])) && !(withdrawn s 1).groupPushing 1 && (s.block 1).saveSlot.isSome &&
        decide ((s.vi (s.block 1).vi).bind = none)) = true := by decide +kernel
/-- VI 0 at rest, its area and its table of queues readable or not. -/
def tResume (area drained host : Bool) : State :=
  let s := tHome.modVi 0 (fun v => { v with run := false, drained := drained, qtbase := 0x200000, uibase := if area then 0x200000 else 0 })
  { (if host then { s.modChiplet 6 (fun x => { x with tlb := [{ leafAs .leased with bias := true }] }) with homes := [] } else s) with arg := { vi := 0 } }
theorem witness_DrainsAndTamper_resume :
    ([(true, true), (true, false), (false, true), (false, false)].all (fun e => [true, false].all (fun host => let s := tResume e.1 e.2 host
        let v := s.vi 0
        s.boot.ready && decide (0 < s.boot.viCount) && !v.run && !v.starting && v.areaDirty.isEmpty &&
          ((decide (v.uibase ≠ 0) && !s.readable v.uibase.toNat 0x4000 || v.drained && !s.readable v.qtbase.toNat 4096) ==
            (host && (e.1 || e.2))))) &&
      (let s : State := { tHome with arg := { vi := 64 } }
       decide ¬ (s.arg.vi < s.boot.viCount))) = true := by decide +kernel

/-! ## Witnesses: the host's pages and boot -/

theorem witness_HostSide_room :
    [0, 127].all (fun o => let s := tHost o
      let line := s.arg.ia / 128
      s.boot.ready && (s.homes.find line).any (fun x => let h := s.whole x
        decide (roomFor s (tmax h.rt (tmax s.bridge.bt h.wt))) && decide (roomFor s (tmax s.bridge.bt (h.rt + 1))))) = true := by decide +kernel
/-- A head reads or writes a register page or its device page. -/
def tPage (head ca i step : Nat) : State :=
  { tState with arg := { head := head, address := BitVec.ofNat 64 ca, index := i, flag := true, value := 1 }, boot := { tState.boot with step := step } }
theorem witness_ControlRegisters_heads :
    ([(0, 14 * 2 ^ 36 + 0x100000, true), (5, 14 * 2 ^ 36 + 0x13FFF8, true), (1, 14 * 2 ^ 36 + 0x201000, true), (0, 14 * 2 ^ 36 + 0x201000, false),
        (0, 14 * 2 ^ 36 + 0x140000, false), (0, 14 * 2 ^ 36 + 0x100004, false), (0, 0, false), (2, 14 * 2 ^ 36 + 0x202000, false)].all (fun e =>
        let s := tPage e.1 e.2.1 0 5
        decide (headReaches s s.arg.head s.arg.address.toNat) == e.2.2 && (!e.2.2 || (s.csrWaits s.arg.address.toNat s.arg.value).isNone)) &&
      [(0, 0x40), (1, 0x40), (1, 0), (5, 0x18), (5, 0x38)].all (fun e => let s := tPage 0 0 e.2 e.1
        s.arg.flag && (s.arg.address == 0) && decide (s.boot.step = e.1) && decide (s.arg.index = e.2)) &&
      [0, 6 * 2 ^ 36, 14 * 2 ^ 36 + 0x100000].all (fun ca => ((tCsr ca).csrWaits ca 0x77).isNone)) = true := by decide +kernel
/-- The machine at a later step of boot, with the image's signature checks. -/
def tStepped (n : Nat) (good draining : Bool) : State :=
  let st : BootStore := { image := { version := 3, sig := sigOf good, warps := 1, descriptor := aKernel, ranges := aRangeSet } }
  let s := (if draining then tState.modCore 32 (fun c => { c with tamper := .draining }) else tState)
  { s with boot := { s.boot with step := n, ready := false, store := st }, blocks := [] }
theorem witness_ResetBootAndPower_steps :
    ([true, false].all (fun g => let s := tStepped 1 g false
        !s.boot.err && decide (s.boot.step = 1) && (decide (Verified s.boot.store.image.sig) == g) && s.boot.dies.getLsbD 0 &&
          decide ((s.core 32).tamper ≠ .quarantined)) &&
      [true, false].all (fun d => let s := tStepped 2 true d
        decide (s.boot.step = 2) && ((List.range 6).any (fun x => s.boot.dies.getLsbD x && (s.core (33 * x + 32)).tamper == .draining) == d)) &&
      decide ((tStepped 3 true false).boot.step = 3) &&
      (let s := tStepped 4 true false
       let img := s.boot.store.image
       decide (s.boot.step = 4) && decide (img.warps ≤ 16) && s.coreLive 32 && decide ((s.core 32).tamper = .inService) &&
         (match kernelOf img.descriptor 0, rangeSet img.ranges with
         | some k, some rs => let b : Block := Task.shape { tr := { warps := img.warps }, ker := k, ranges := rs }
           decide (b.rspan + b.sspan ≤ 3 * 2 ^ 20 - 2 ^ 18)
         | _, _ => false))) = true := by decide +kernel

/-! ## Witnesses: results of the engines -/

/-- A chain descriptor: rows of `nc` + 1 elements from `sa` to `da`, with steps (CODE, ARG, K, K2); formats 15 FP32, 17 BF16. -/
def chain192 (sa da nc nr ss ds sf df sstr dstr : Nat) (ops : List (Nat × Nat × Nat × Nat)) : List Byte :=
  leBytes 8 sa ++ leBytes 8 da ++ leBytes 2 nc ++ leBytes 2 nr ++ leBytes 4 0 ++ leBytes 8 sstr ++ leBytes 8 dstr ++ leBytes 1 ss ++ leBytes 1 ds ++
    leBytes 1 sf ++ leBytes 1 df ++ leBytes 1 0 ++ leBytes 19 0 ++
    (ops ++ List.replicate (8 - ops.length) (0, 0, 0, 0)).flatMap (fun (o : Nat × Nat × Nat × Nat) => leBytes 1 o.1 ++ leBytes 1 o.2.1 ++ leBytes 6 0 ++ leBytes 4 o.2.2.1 ++ leBytes 4 o.2.2.2)
/-- The chain engine has the command, over scratchpad words that hold small numbers as FP32. -/
def tChain (d : List Byte) : State :=
  let s := putH tHome 0 d
  let s := s.modCore 0 (fun c => { c with uni := c.uni.writes 0x10000 ((List.range 8).flatMap (fun i => leBytes 4 (0x3F800000 + 0x123456 * i))) })
  { after (exec (.chain { cmdF with x := .none }) s) with arg := { core := 0, id := 0 } }
/-- Chains: a copy with a product and a sum, a rounding to BF16, a reduction by rows, and one that fails its check. -/
def chains : List (List Byte) :=
  [chain192 0 0x100 3 1 1 1 15 15 16 16 [(2, 0, 0x40000000, 0), (1, 0, 0x3F800000, 0)], chain192 0 0x100 7 0 1 1 15 17 0 0 [(4, 0, 0x3F900000, 0)],
    chain192 0 0x100 1 2 1 1 15 15 8 4 [(3, 0, 0x40000000, 0x3F800000), (9, 0, 0, 0)], chain192 0x100040 0x104 3 0 0 1 17 15 0 0 [(9, 1, 0, 0)]]
/-- Everything that the statement asks of a chain's start. -/
def chainOk (s : State) : Bool :=
  ((s.core 0).cmds.find 0).any (fun m =>
    let b := s.block m.ref.blk
    let d := chainDesc m.desc
    let sd := sext 64 m.b.toNat
    let dd := sext 64 m.c.toNat
    (m.op == .chain) && !m.started && decide (m.engine ≠ .matrix) && m.badData.isEmpty && decide (chainCheck d sd dd = 0) &&
    (match d.sf, d.df, d.rnd with
    | some sf, some df, some mode =>
      let dn := (if chainEnd d = none then d.nc else 1) * df.bytes
      let src := (List.range d.nr).map (fun i => s.enginePieces b d.ss ((d.sa : Int) + sd + i * d.sstr) (d.nc * sf.bytes) Range.r)
      let dst := (List.range d.nr).map (fun i => s.enginePieces b d.ds ((d.da : Int) + dd + i * d.dstr) dn Range.w)
      let src' := src.map (fun x => okD x [])
      let dst' := dst.map (fun x => okD x [])
      src.all good && dst.all good && (s.clearing 0 m.ti (src'.flatten ++ dst'.flatten) false).isNone &&
        src'.flatten.all (fun p => dst'.flatten.all (fun q => !p.meets q && !q.meets p)) &&
        decide (dst'.Pairwise (fun (x y : List Piece) => ∀ p ∈ x, ∀ q ∈ y, p.meets q = false ∧ q.meets p = false)) &&
        !(chainReads 0 m.ti (chainBytes m d sf df mode) (src'.zip dst') s m.kt).2.2.2
    | _, _, _ => false))
theorem witness_EngineResults_chains :
    (chains.all (fun d => chainOk (tChain d)) &&
      ((tChain (chain192 0 0x100 3 1 1 1 15 9 16 16 [])).core 0).cmds.any (fun e => decide (chainCheck (chainDesc e.2.desc) (sext 64 e.2.b.toNat) (sext 64 e.2.c.toNat) ≠ 0))) =
    true := by decide +kernel

/-- The copy engine has a push from rank 0 of two; C holds `lo` and `hi`; the other member may be ending. -/
def tPush (o : Op) (d : List Byte) (lo hi : Nat) (ending : Bool) : State :=
  let s := (withU (clus (putH tHome 0 d)) [(44, lo), (45, hi)]).modBlock 1 (fun b => { b with ending := ending })
  { after (exec (o.instr cmdF) s) with arg := { core := 0, id := 0 } }
/-- Pushes: to the other member by its rank and by a mask of both, from memory, from scratchpad, of a pattern; one whose member ends; one that fails its check. -/
def pushes : List (Op × List Byte × Nat × Nat × Bool × Nat) :=
  [(.cpyr, desc64 0x100100 (2 ^ 21 + 0x1000) 16 2 0 0 1 32 32, 8, 0, false, 0), (.cpyr, desc64 0x2000 (2 ^ 21 + 0x1000) 16 1 0 1 1 32 16, 0, 0, false, 0),
    (.cpym, desc64 0x2000 0x1000 16 1 0 1 1 32 64, 4, 3, false, 0), (.cpym, desc64 0x55AA55AA 0x7FF0 16 0 0 4 1 0 0, 0, 2, false, 0),
    (.cpyr, desc64 0x2000 (2 ^ 21 + 0x1000) 16 1 0 1 1 32 16, 0, 0, true, 5), (.cpyr, desc64 0x2000 (2 ^ 22) 16 1 0 1 1 32 16, 0, 0, false, 6),
    (.cpym, desc64 0x2000 0x1000 0 1 0 1 1 32 64, 4, 3, false, 6)]
def pushOk (e : Op × List Byte × Nat × Nat × Bool × Nat) : Bool :=
  let s := tPush e.1 e.2.1 e.2.2.1 e.2.2.2.1 e.2.2.2.2.1
  ((s.core 0).cmds.find 0).any (fun m =>
    let b := s.block m.ref.blk
    let d := copyDesc m.desc
    let aim := pushAim m d
    let rows := (List.range (d.n2 + 1)).flatMap (fun (q : Nat) => (List.range (d.n1 + 1)).map (fun (r : Nat) =>
      ((d.sa : Int) + sext 64 m.b.toNat + r * d.s1 + q * d.s2, aim.1 + r * d.d1 + q * d.d2)))
    let tos := aim.2.filterMap (s.member b)
    let src := rows.map (fun r => if d.ss = 4 then [] else okD (s.enginePieces b d.ss r.1 d.len Range.r) [])
    (m.op == e.1) && !m.started && decide (m.engine ≠ .matrix) && m.badData.isEmpty && (decide (pushCheck m d b.csize = 0) == decide (e.2.2.2.2.2 ≤ 5)) &&
      (e.2.2.2.2.2 = 6 || decide (tos.length = aim.2.length ∧ tos ≠ []) && tos.all (fun t => t.2.st == .resident && !t.2.failed && (t.2.ending == decide (e.2.2.2.2.2 = 5)))) &&
      (e.2.2.2.2.2 ≠ 0 || decide (∀ r ∈ rows, 0 ≤ r.2 ∧ r.2 + d.len ≤ b.sspan) &&
        rows.all (fun r => d.ss = 4 || good (s.enginePieces b d.ss r.1 d.len Range.r)) && (s.clearing 0 m.ti src.flatten false).isNone &&
        tos.all (fun t => rows.all (fun r => src.flatten.all (fun p =>
          let w : Piece := { kind := 1, core := t.2.core, place := t.2.sbase + r.2.toNat, n := d.len }
          !p.meets w && !w.meets p)))))
theorem witness_EngineResults_pushes : pushes.all pushOk = true := by decide +kernel

/-- The copy engine has MCST of scratchpad 0x80, or MRED, with a list of one local destination; or PCPY. -/
def tDeliver (o : Op) (d : List Byte) (a : Attr := .leased) : State :=
  let s := withU (putH (homed (tAddr 8) a) 0 d) [(16, 0x100000), (17, 0), (32, 0x80), (33, 0)]
  { after (exec (o.instr (sm o)) s) with arg := { core := 0, id := 0 } }
/-- A list with one destination. -/
def list1 (n len addr dev : Nat) : List Byte := leBytes 2 n ++ leBytes 2 len ++ leBytes 12 0 ++ leBytes 8 addr ++ leBytes 8 dev
/-- Lists: delivered, odd, without permission, with a wrong length. -/
def lists : List (Op × List Byte × Nat) :=
  [(.mcst, list1 1 16 0x100104 0, 0), (.mred, list1 1 0 0x100208 0, 0), (.mcst, list1 1 128 0x100104 0, 1), (.mred, list1 1 0 0x100202 0, 1),
    (.mcst, list1 1 16 0x500000 0, 2), (.mred, list1 1 0 0x500000 0, 2), (.mcst, list1 1 7 0x100104 0, 3), (.mred, list1 9 0 0x100104 0, 3)]
def listOk (e : Op × List Byte × Nat) : Bool :=
  let s := tDeliver e.1 e.2.1
  ((s.core 0).cmds.find 0).any (fun m =>
    let b := s.block m.ref.blk
    let n := if m.op = .mcst then listLen m.desc else m.f.x.ty.bytes
    let addr := listAddr m.desc 0
    let odd := if m.op = .mcst then addr % 4 ≠ 0 ∨ 128 < addr % 128 + n else addr % n ≠ 0
    let src := s.enginePieces b 1 ((m.b.toNat % 2 ^ 32 : Nat) : Int) (if m.op = .mcst then n else 0) Range.r
    let status := s.vaPiece b Range.w (m.a.toNat + 4) 2
    let p := s.vaPiece b (if m.op = .mcst then Range.w else Range.a) addr n
    let st := okD status { kind := 1, core := 0, place := 0, n := 0 }
    let q := okD p { kind := 1, core := 0, place := 0, n := 0 }
    (m.op == e.1) && !m.started && decide (m.engine ≠ .matrix) &&
      (if e.2.2 = 3 then decide (listCheck m ≠ 0) else
        decide (listCheck m = 0) && decide (listN m.desc = 1) && !(listDev m.desc 0).testBit 15 && good src && good status &&
          (if e.2.2 = 0 then decide (¬odd) && good p && (q.attr != .priv) && (s.clearing 0 m.ti [st, q] true).isNone
           else (s.clearing 0 m.ti [st] true).isNone && (if e.2.2 = 1 then decide odd else !good p))))
/-- An atomic at a home whose word is poisoned. -/
def tSpoilt : State :=
  let s := tDeliver .mred (list1 1 0 0x100208 0)
  { s with homes := s.homes.set 0x4004 { s.homes.get 0x4004 default with poison := 15 } }
theorem witness_EngineResults_lists : lists.all listOk = true := by decide +kernel

/-- A descriptor of PCPY: from offset `off` of module 7 to scratchpad. -/
def pcpy32 (off da len : Nat) : List Byte := leBytes 8 (7 * 2 ^ 51 + 3 * 2 ^ 41 + off) ++ leBytes 8 da ++ leBytes 4 len ++ leBytes 1 1 ++ leBytes 11 0
/-- Copies from a peer that start, or fail their check; lists, delivered and dropped, that complete. -/
theorem witness_EngineResults_ends :
    ([(0x1000, 0x2000, 64, true), (0x1000, 0x2000, 63, false), (0x1002, 0x2000, 64, false)].all (fun (e : Nat × Nat × Nat × Bool) =>
        let s := tDeliver .pcpy (pcpy32 e.1 e.2.1 e.2.2.1)
        ((s.core 0).cmds.find 0).any (fun m =>
          let b := s.block m.ref.blk
          let len := dfld m.desc 16 4
          let dst := s.enginePieces b (dfld m.desc 20 1) ((dfld m.desc 8 8 : Nat) : Int) len Range.w
          (m.op == .pcpy) && !m.started && decide (m.engine ≠ .matrix) && (decide (pcpyCheck m.desc = 0) == e.2.2.2) &&
            (!e.2.2.2 || good dst && (okD dst []).all (fun p => p.kind == 1) && (s.clearing 0 m.ti (okD dst []) false).isNone &&
              !s.named (BitVec.ofNat 64 (dfld m.desc 0 8)) len))) &&
      (lists.filter (fun e => e.2.2 ≠ 3)).all (fun e =>
        let s : State := { after (exec .commandStart (tDeliver e.1 e.2.1)) with arg := { core := 0, id := 0 } }
        ((s.core 0).cmds.find 0).any (fun m => m.started && m.reqs.isEmpty && m.spoiled.isEmpty && m.err.toNat == 0 && m.image.isNone &&
          (match s.currentRuns { m with runs := statusRuns m } with
          | .ok runs => (s.clearing 0 m.ti ((runs.filter (fun r => r.kind == 0 && r.attr != .priv)).map WriteRun.piece) true).isNone
          | .error _ => false)))) = true := by decide +kernel

/-! ## Witnesses: results of the matrix engine -/

/-- An operand map. -/
def map32 (base pitch rows fmt cb : Nat) (scaled : Option (Nat × Nat) := none) : List Byte :=
  leBytes 4 base ++ leBytes 4 pitch ++ leBytes 4 rows ++ leBytes 1 fmt ++ leBytes 1 cb ++ leBytes 2 (if scaled.isSome then 1 else 0) ++
    leBytes 4 (scaled.getD (0, 0)).1 ++ leBytes 4 (scaled.getD (0, 0)).2 ++ leBytes 8 0
/-- The matrix engine has a command with its maps and its eight parameters. -/
def tMatrix (o : Op) (x : Ext) (a b : List Byte) (regs : List Nat) (s : State := homed tState) : State :=
  let s := withU (putH s 0 (a ++ b)) (regs.zipIdx.map (fun e => (32 + e.2, e.1)))
  { after (exec (o.instr { sm o with x := x }) s) with arg := { core := 0, id := 0 } }
/-- Parameters of an accumulator form: tile, rows and columns, row and element of the map at 0x100000. -/
def accRegs (base pitch rows cols row el : Nat) : List Nat := [base, pitch, rows, cols, 0x100000, 0, row, el]
/-- Parameters of a product, with maps at 0x100000 and 0x100020. -/
def mmaRegs (base pitch kb : Nat) : List Nat := [base, pitch, kb, 0, 0x100000, 0, 0x100020, 0]
/-- The form starts, with what its check finds: 0 sound, 1 failed, 2 tile outside, 3 map outside. -/
def startOk (s : State) (k : Nat) : Bool :=
  ((s.core 0).cmds.find 0).any (fun m =>
    let b := s.block m.ref.blk
    let code := (m.check (s.feature b.service 2) b).1
    (m.engine == .matrix) && !m.started && decide ((s.core 0).cmds.length = 1) && m.err.toNat == 0 &&
      (match k with
       | 0 => code == 0 && m.tileIn b && decide (∀ r ∈ m.runsOf, r.1 + r.2 ≤ b.sspan)
       | 1 => code != 0
       | 3 => code == 0 && m.tileIn b && m.runsOf.any (fun r => decide (b.sspan < r.1 + r.2))
       | _ => code == 0 && !m.tileIn b))
/-- It completes, with no byte poisoned. -/
def endOk (s : State) : Bool :=
  let s : State := { after (exec .commandStart s) with arg := { core := 0, id := 0 } }
  ((s.core 0).cmds.find 0).any (fun m =>
    m.started && m.reqs.isEmpty && !m.garbled && m.spoiled.isEmpty && decide ((s.block m.ref.blk).core = 0) && (s.cores.find 0).isSome &&
      m.err.toNat == 0 && (s.core 0).accPoison.isEmpty && (s.core 0).uniPoison.isEmpty && decide ((s.core 0).cmds.length = 1) &&
      (!(isMma m.op) || (pairClass (opMap m.desc).ty (opMap m.desc2).ty).isSome) &&
      (!(hasMap m.op) || decide ((opMap m.desc).ty ∈ [Ty.f32, .bf16, .f16, .e4m3, .e5m2, .cb4, .i32, .i8, .n8])))
/-- Matrix commands that are sound: products of BF16 and of integers, and the accumulator forms. -/
def matrixGood : List State :=
  [tMatrix .mma (.mma 0 0) (map32 0x100 0x80 8 17 0) (map32 0x800 0x80 64 17 0) (mmaRegs 4 256 0),
    tMatrix .mmas (.mma 0 1) (map32 0x100 0x80 8 6 0) (map32 0x800 0x100 64 10 0) (mmaRegs 4 256 0),
    tMatrix .accz (sm .accz).x [] [] (accRegs 4 64 3 5 0 0), tMatrix .accscl .none [] [] (accRegs 4 64 3 5 0 0),
    tMatrix .accld (mods 0 .none .none .f32) (map32 0x100 0x80 8 17 0) [] (accRegs 4 64 3 5 2 64),
    tMatrix .acccvt (mods 0 .none .none .i32) (map32 0x100 0x80 8 8 0) [] (accRegs 4 64 3 5 2 64)]
theorem witness_MatrixResults_products : (matrixGood.take 2).all (fun s => startOk s 0 && endOk s) = true := by decide +kernel
theorem witness_MatrixResults_forms :
    ((matrixGood.drop 2).all (fun s => startOk s 0 && endOk s) &&
      startOk (tMatrix .accz (sm .accz).x [] [] (accRegs 4 64 0 5 0 0)) 1 && startOk (tMatrix .mma (.mma 0 0) [] [] (mmaRegs 4 256 0)) 1 &&
      startOk (tMatrix .accz (sm .accz).x [] [] (accRegs (2 ^ 20 - 4) 64 3 5 0 0)) 2 &&
      startOk (tMatrix .accld (mods 0 .none .none .f32) (map32 0x7FC0 0x40 8 17 0) [] (accRegs 4 64 3 5 2 64)) 3) = true := by decide +kernel
/-- An element that ACCCVT converts. -/
theorem witness_MatrixResults_converted : Converted { aCmd with f := { x := mods 0 .none .none .i32 } } .i32 [] none 7 7 := by
  simp only [Converted]
  decide

/-- A gang of two warps; warp 1 presents its MMA with other parameters, or the same. -/
def tGang (first same : Bool) : State :=
  let s := (withU (homed tState) ((mmaRegs 4 256 0).zipIdx.map (fun e => (32 + e.2, e.1)))).modFib ⟨0, 0, 0⟩ (fun f => { f with g := 3 })
  let s := s.modBlock 0 (fun b => { b with warps := b.warps ++ b.warps })
  let s := if same then s else s.modFib ⟨0, 1, 0⟩ (fun f => { f with s := f.s.set 33 512 })
  if first then s else { after (exec (.mma { sm .mma with x := .mma 0 0 }) s) with cur := { ref := ⟨0, 1, 0⟩, pc := 0x1000 } }
theorem witness_MatrixResults_gangs :
    [(true, true), (false, true), (false, false)].all (fun (e : Bool × Bool) =>
      let s := tGang e.1 e.2
      meets .mma { sm .mma with x := .mma 0 0 } s (fun c =>
        let vaA : Nat := ((paramWords c 8).getD 4 0).toNat + ((paramWords c 8).getD 5 0).toNat * 2 ^ 32
        let vaB : Nat := ((paramWords c 8).getD 6 0).toNat + ((paramWords c 8).getD 7 0).toNat * 2 ^ 32
        let pa := s.enginePieces c.blk 0 vaA 32 Range.r
        let pb := s.enginePieces c.blk 0 vaB 32 Range.r
        let x := s.readPieces 0 0x80000000 (okD pa [])
        !c.poisoned && decide (c.fib.g.setWidth 16 = (3 : BitVec 16)) && !s.opfWaits c.r && !s.memHeld c.r true && decide (vaA % 32 = 0 ∧ vaB % 32 = 0) &&
          good pa && good pb && ((s.core 0).latches.length == if e.1 then 0 else 1) &&
          (s.core 0).latches.all (fun g => g.members.all (fun y => decide (y.1.warp < c.r.warp))) &&
          (s.clearing 0 0x80000000 (okD pa [] ++ okD pb []) false).isNone && !x.2.1.any Prod.snd &&
          !(x.1.readPieces 0 0x80000000 (okD pb [])).2.1.any Prod.snd)) = true := by decide +kernel

/-! ## Witnesses: runahead -/

/-- The fibre is in an episode that began here; register v16 is invalid in lane 15. -/
def tRa (s : State) : State :=
  fibre s (fun f => { f with raOn := true, raC := 16, ra := some { s.episode ⟨0, 0, 0⟩ 99 0x1000 with inval := [64 * 16 + 15] } })
/-- The form stands as `Ahead` says, with a context and an episode of a property. -/
def aheadOk (o : Op) (f : Ins) (s : State) (p : Ctx → Episode → Bool) : Bool :=
  match ctxLocs s s.cur.ref o f with
  | .ok (d, a, b, x) =>
    let c := s.ctx o f d a b x
    s.mayIssue s.cur.ref s.cur.pc && (s.illegalBit (s.block s.cur.ref.blk).service o f).isNone && (o.cls != .s || (s.block s.cur.ref.blk).service) &&
      !f.hnt.rx && decide (c.act ≠ 0) && decide (c.blk.width ≤ 64) && (s.fib s.cur.ref).ra.any (p c)
  | .error _ => false
/-- The lanes that read only valid sources. -/
def validCtx (c : Ctx) (e : Episode) : Ctx := { c with act := laneSet (c.lanes.filter (fun l => !c.srcInvalid e l)) }
/-- Registers' forms with room, with a poisoned source, and without room for their entries. -/
def raForms (ops : List Op) (rule : Op → Ins → LaneIn → LaneOut) (s : State) : Bool :=
  ops.all (fun o => aheadOk o (sm o) (tRa s) (fun c e =>
    let x := c.laneRes (rule o (sm o))
    !(validCtx c e).poisoned && fits c e x.effs))
theorem witness_Runahead_forms :
    (raForms intForms intRule tLone && raForms bitForms bitRule tLone && raForms moveForms moveRule tLone && raForms floatForms floatRule tLone &&
      raForms compareForms compareRule tLone && raForms convertForms convertRule tLone &&
      aheadOk .iadd goodAdd (tRa (tState.modCore 0 (fun c => { c with uniPoison := [16] }))) (fun c e => (validCtx c e).poisoned) &&
      aheadOk .iadd goodAdd (fibre (tRa tOnes) (fun f => { f with raC := 0 })) (fun c e => !fits c e (c.laneRes (intRule .iadd goodAdd)).effs) &&
      [Op.fence, .fibsw, .nop, .yield].all (fun o => aheadOk o (sm o) (tRa tState) (fun c e => !(validCtx c e).poisoned && fits c e []))) = true := by decide +kernel

/-- Register 20 holds nothing that lane 15 may not read: the episode has no invalid lane. -/
def tClean (s : State) : State := fibre (tRa s) (fun f => { f with ra := f.ra.map (fun e => { e with inval := [] }) })
/-- A word of scratchpad that is poisoned, at lane `l`'s place. -/
def spoilt (s : State) (l : Nat) : State := s.modCore 0 (fun c => { c with uniPoison := [0x10000 / 4 + l] })
/-- A load of the windows in an episode: with clean bytes, or with poisoned bytes that no earlier command holds. -/
def raLocal (o : Op) (f : Ins) (s : State) (acc : Bool) (bad : Bool) : Bool :=
  aheadOk o f s (fun c e =>
    let at' := spotsIn acc true c
    let wait (l : Nat) : Bool := s.readHeld (at' l).1 c.r.blk (at' l).2.2 c.size ((at' l).2.1 == 1)
    let b (l : Nat) : Bool := (List.range c.size).any (fun i => s.storePoison (at' l).1 ((at' l).2.2 + i) ((at' l).2.1 == 1))
    !(validCtx c e).poisoned && c.lanes.all (fun l => !c.srcInvalid e l) && decide (SpotsOf o c at') &&
      (if bad then c.lanes.any (fun l => b l && !wait l) else c.lanes.all (fun l => !b l || wait l) && fits c e (c.lanes.flatMap (fun l => vregEffs (destReg c) f.x.ty.words l 0))))
/-- A form that changes nothing outside the episode. -/
def raDropped (o : Op) (f : Ins) (s : State) (at' : Ctx → Spots) : Bool :=
  aheadOk o f s (fun c e =>
    let v := validCtx c e
    !v.poisoned && decide (SpotsOf o v (at' v)) &&
      fits c e (if o.dOnlySrc then [] else c.lanes.flatMap (fun l => vregEffs (destReg c) (if o = .cass then c.dw / 2 else c.dw) l 0)))
theorem witness_Runahead_locals :
    (raLocal .lds (winF (v 24) (mems .b32)) (tClean (tAddr 4)) false false && raLocal .lda (winF (v 24) (mems .b32)) (tClean (tAddr 4)) true false &&
      raLocal .lds (winF (v 24) (mems .b32)) (tClean (spoilt (tAddr 4) 3)) false true &&
      raLocal .lds (winF (v 24) (mems .b32)) (tClean ((spoilt (tAddr 4) 3).modCore 0 (fun x => { x with
        cmds := ((withCmd .cpy (desc64 0x1000 0 64 0 0 1 1 0 0)).core 0).cmds }))) false false &&
      [Op.sts, .sta].all (fun o => raDropped o (winF (v 8) (mems .b32)) (tRa (tAddr 4)) (spotsIn (o == .sta) true)) &&
      [Op.atoms, .reds].all (fun o => raDropped o (winF (v 8) (mems .n32 .b .rlx)) (tRa (tAddr 4)) (spotsIn false false)) &&
      raDropped .cass (winF (v 8) (mems .b32 .b .rlx)) (tRa (tAddr 4)) (spotsIn false false) &&
      (let s := tRa (withMap (tAddr 8) (0xFF * 2 ^ 44 + 0x10000))
       [Op.ldo, .sto].all (fun o => raDropped o { d := v 24, a := u 40, b := v 16, x := mems .b32 } s (spotsMap s false)))) = true := by decide +kernel
/-- Loads that hit in the L1. -/
theorem witness_Runahead_hits :
    [Attr.leased, .priv].all (fun a =>
      let s := tClean (withL1 (tlbAs (tAddr 8) a) a)
      let f := globF .b32
      aheadOk .ldg f s (fun c e =>
        match c.accesses (c.globalAcc Range.r c.size) false true false with
        | .ok as => !(validCtx c e).poisoned && c.lanes.all (fun l => !c.srcInvalid e l) &&
            c.lanes.all (fun l => !isMapIa (laneIa c true l) && !isIdentity (laneIa c true l)) &&
            as.all (fun a => (a.attr != .manual) && (match s.l1Read c.blk.core (l1Key (a.place / 128) a.ns) (a.place % 128) c.size c.fib.ptime with
              | some (_, t, bad) => decide (t = c.fib.ptime) && !bad | none => false)) &&
            fits c e (as.flatMap (fun a => vregEffs (destReg c) 1 a.lane 0))
        | .error _ => false)) = true := by decide +kernel
theorem witness_Runahead_endings :
    (endingForms.all (fun o => aheadOk o (sm o) (tRa (if o.cls == .s then svc tState else tState)) (fun _ _ => true)) &&
      aheadOk .spawn (sm .spawn) (tRa tState) (fun _ _ => true) && aheadOk .csrw (sm .csrw) (tRa (svc tState)) (fun _ _ => true) &&
      [({ goodAdd with hnt := { rx := true } }, tState, Op.iadd), (sm .csrr, tState, .csrr), ({ goodAdd with hnt := { br := .likely } }, tState, .iadd)].all
        (fun (e : Ins × State × Op) =>
          let s := tRa e.2.1
          s.mayIssue s.cur.ref s.cur.pc && (s.fib s.cur.ref).ra.isSome &&
            (e.1.hnt.rx || (s.illegalBit (s.block s.cur.ref.blk).service e.2.2 e.1).isSome || (e.2.2.cls == .s && !(s.block s.cur.ref.blk).service)))) =
    true := by decide +kernel
/-- The fibre alone in its slot, or beside a Ready one that the episode has not seen, or has. -/
def tOther (other seen : Bool) : State :=
  let s := if other then tState else tState.modBlock 0 (fun b => { b with warps := b.warps.map (fun w => { w with fibs := w.fibs.take 1 }) })
  fibre (tRa s) (fun f => { f with ra := f.ra.map (fun e => { e with ready := if seen then [1] else [] }) })
theorem witness_Runahead_others :
    [(false, false), (true, false), (true, true)].all (fun (e : Bool × Bool) =>
      let s := tOther e.1 e.2
      (s.fib ⟨0, 0, 0⟩).ra.any (fun x => (s.readyOthers ⟨0, 0, 0⟩).all x.ready.contains == (!e.1 || e.2))) = true := by decide +kernel
/-- The load that an episode waits for has its data; a byte of them may be poisoned. -/
def tTrigger (bad inside : Bool) : State :=
  let s := answered tBehind .homeGrant
  let s := if bad then s.modCore 0 (fun c => { c with l1 := c.l1.mapVal (fun _ x => { x with secs := x.secs.mapVal (fun _ y => { y with poison := true }) }) }) else s
  let s := if inside then fibre s (fun f => { f with ra := some (s.episode ⟨0, 0, 0⟩ 0 0x100C) }) else s
  { s with arg := { ref := ⟨0, 0, 0⟩, id := 0 } }
theorem witness_PoisonedLoads :
    ([(false, true), (true, false)].all (fun (e : Bool × Bool) =>
        let s := tTrigger e.1 e.2
        ((s.warp 0 0).pend.find 0).any (fun p => (match p.body with
          | .load l => l.refused.isNone && !l.failed && (e.1 || !l.poisoned) && l.reqs.isEmpty && (l.space == .global) && (l.op == .ldg) &&
              ((s.fib ⟨0, 0, 0⟩).ra.isSome == e.2) && (s.fib ⟨0, 0, 0⟩).ra.all (fun x => x.trigger == 0) && decide ((s.warp 0 0).pend.length = 1) &&
              l.accs.all (fun a => (s.laneRead ⟨0, 0, 0⟩ l a).isSome) &&
              (l.accs.any (fun a => (s.laneRead ⟨0, 0, 0⟩ l a).any (fun x => x.2.2)) == e.1)
          | _ => false))) &&
      [Op.lds, .lda].all (fun o =>
        let s := if o = .lds then spoilt (tAddr 4) 3 else (tAddr 4).modCore 0 (fun c => { c with accPoison := [3] })
        plain o (winF (v 24) (mems .b32)) s (fun c =>
          let at' := spotsIn (o == .lda) true c
          decide (calm c) && decide (SpotsOf o c at') &&
            c.lanes.all (fun l => (s.overlapping c.r (at' l).1 (at' l).2.2 c.size ((at' l).2.1 == 1)).isEmpty &&
              (s.readingMatrix (at' l).1 (at' l).2.2 c.size ((at' l).2.1 == 1)).isEmpty) &&
            c.lanes.any (fun l => (List.range c.size).any (fun i => s.storePoison (at' l).1 ((at' l).2.2 + i) ((at' l).2.1 == 1)))))) = true := by
  decide +kernel
/-- A state that runs an instruction next, with its memory in canonical form. -/
theorem witness_StepKeepsCanonicalMemory : (tExit.memWf && isNext (Sys2Proof.Machine.step tExit)) = true := by decide +kernel

end Sys2Proof.Tests
end

section
/-!
SUPPORT. The three ends of an instruction on registers: no fault, FPX and POI (R39, R61 steps 9 and 10, R62); and the lane forms
as a list, each by the rule it follows in a lane.
-/

namespace Sys2Proof.Rules

open Sys2Proof Sys2Proof.Machine

/-! ## What a list of changes aims at -/

/-- The changes that write a destination are those that do not aim at the flags. -/
theorem isDest_iff_aimOf (e : Eff) : e.isDest = true ↔ (aimOf e).1 ≠ 5 := by
  cases e <;> simp [Eff.isDest, aimOf]

/-- Free values leave every destination in place. -/
theorem map_aimOf_garble (n : Nat) (es : List Eff) : (garble n es).map aimOf = es.map aimOf := by
  rw [garble, List.map_map, ← List.zipIdx_map_fst 0 es, List.map_map, List.zipIdx_map_fst]
  refine List.map_congr_left ?_
  rintro ⟨e, k⟩ -
  cases e <;> rfl

/-- The destinations of free values are those of the results, without the flags. -/
theorem mem_aims_garble_dests (n : Nat) (es : List Eff) (d : Nat × Nat × Nat) :
    d ∈ (garble n (es.filter Eff.isDest)).map aimOf ↔ d ∈ es.map aimOf ∧ d.1 ≠ 5 := by
  simp only [map_aimOf_garble, List.mem_map, List.mem_filter, isDest_iff_aimOf]
  constructor
  · rintro ⟨e, ⟨he, hd⟩, rfl⟩; exact ⟨⟨e, he, rfl⟩, hd⟩
  · rintro ⟨⟨e, he, rfl⟩, hd⟩; exact ⟨e, ⟨he, hd⟩, rfl⟩

/-- Whether changes fall on the warp is a fact about what they aim at. -/
theorem effsOk_iff_aims {w n : Nat} {es : List Eff} :
    effsOk w n es ↔ ∀ d ∈ es.map aimOf, (d.1 = 0 → d.2.2 < w) ∧ d.1 ≠ 4 ∧ (d.1 = 1 → d.2.2 < n) := by
  simp only [effsOk, List.forall_mem_map]
  refine forall₂_congr fun e _ => ?_
  cases e <;> simp [aimOf]

theorem effsOk_garble_dests {w n : Nat} {es : List Eff} (k : Nat) (h : effsOk w n es) :
    effsOk w n (garble k (es.filter Eff.isDest)) :=
  effsOk_iff_aims.2 fun d hd => effsOk_iff_aims.1 h d ((mem_aims_garble_dests k es d).1 hd).1

/-! ## The ends of an instruction on registers -/

/-- What is left of a result where a source is poisoned: free values in its destinations alone (R62). -/
def poisonRes (c : Ctx) (x : Res) : Res := { effs := garble (c.s.free + x.free) (x.effs.filter Eff.isDest), x := x.x }

/-- A poisoned source: the destinations take free values, then POI. -/
theorem finish_poisoned {c : Ctx} {x : Res} (hfault : x.fault = none) (hp : c.poisoned = true) :
    c.finish x = (c.plain (poisonRes c x) (x.free + (poisonRes c x).effs.length) (poisonRes c x).effs).raise
      c.r cPOI 0 c.pc c.path false 0 := by
  simp only [Ctx.finish, hfault, hp, if_true]; rfl

/-- An enabled flag set: the results are written at once, whether or not they could have stayed outstanding, then FPX. -/
theorem finish_fpx {c : Ctx} {x : Res} (hfault : x.fault = none) (hp : c.poisoned = false)
    (hx : fpxSet c.fib.fpcs x.effs ≠ 0) :
    c.finish x = (c.plain x x.free x.effs).raise c.r 5 ((fpxSet c.fib.fpcs x.effs).setWidth 64) (c.pc + 12)
      (((c.plain x x.free x.effs).fib c.r).path (c.pc + 12)) false 0 := by
  have henabled : (fpcsEnables c.fib.fpcs == 0) = false := by
    refine beq_eq_false_iff_ne.2 fun h => hx ?_
    simp [fpxSet, h]
  simp only [Ctx.finish, hfault, hp, henabled, Bool.and_false, Bool.false_and, Bool.false_eq_true, if_false,
    hx, ne_eq, not_false_eq_true, if_true]
  rfl

/-! ## The forms that compute one result in each active lane -/

theorem effsOk_laneRes {o : Op} {f : Ins} {s : State} {c : Ctx} (h : Ready o f s c) (g : LaneIn → LaneOut) :
    effsOk c.blk.width c.fib.lanes.length (c.laneRes g).effs := by
  refine effsOk_flatMap _ _ fun e he => ?_
  obtain ⟨l, hl, rfl⟩ := List.mem_map.1 he
  exact effsOk_laneEffs _ _ _ (h.lane_path hl).2 (h.lane_lt hl)

theorem laneRes_sr_lt {o : Op} {f : Ins} {s : State} {c : Ctx} (h : Ready o f s c) (g : LaneIn → LaneOut) :
    ∀ e ∈ (c.laneRes g).sr, e.1 < c.fib.lanes.length := by
  intro e he
  simp only [Ctx.laneRes, List.mem_filterMap, List.mem_map, Option.map_eq_some_iff] at he
  obtain ⟨_, ⟨l, hl, rfl⟩, _, -, rfl⟩ := he
  exact h.lane_lt hl

/-- A path lies within the lanes of its fibre. -/
theorem ready_path_lt {o : Op} {f : Ins} {s : State} {c : Ctx} (h : Ready o f s c) {l : Nat} (hl : c.path.getLsbD l = true) :
    l < c.fib.lanes.length := by
  rw [h.pathAt, ← h.ref] at hl
  rw [Ctx.fib, h.state]
  exact Fibre.path_lt hl

/-- A lane form depends only on what it computes from a lane's values. -/
theorem laneOp_congr {o : Op} {f : Ins} {s : State} {g g' : LaneIn → LaneOut} (h : ∀ i, g i = g' i) :
    laneOp o f s g = laneOp o f s g' := by
  rw [funext h]

/-- A lane form that is ready does its own work and nothing else. -/
theorem laneOp_eq_finish {o : Op} {f : Ins} {s : State} {c : Ctx} (h : Ready o f s c) (g : LaneIn → LaneOut) :
    laneOp o f s g = .next (c.finish (c.laneRes g)) := by
  rw [laneOp, regOp, h.issue_eq]

/-- A lane form that sets an enabled flag writes its results, then FPX is raised (R39). -/
theorem laneOp_fpx {o : Op} {f : Ins} {s : State} {c : Ctx} (h : Ready o f s c) (g : LaneIn → LaneOut)
    (hp : c.poisoned = false) (hx : fpxSet c.fib.fpcs (c.laneRes g).effs ≠ 0) :
    ∃ t, After c (c.laneRes g) t ∧ laneOp o f s g = .next (t.raise c.r 5 ((fpxSet c.fib.fpcs (c.laneRes g).effs).setWidth 64)
      (c.pc + 12) ((t.fib c.r).path (c.pc + 12)) false 0) := by
  refine ⟨_, Ctx.plain_after h.hasFib _ _ (fun _ hl => ready_path_lt h hl) (effsOk_laneRes h g)
    (fun _ he => nomatch he) (laneRes_sr_lt h g), (laneOp_eq_finish h g).trans (congrArg _ (finish_fpx rfl hp hx))⟩

/-- A lane form with a poisoned source (R62, R322; log 67 for the forms of R86). -/
theorem laneOp_poisoned {o : Op} {f : Ins} {s : State} {c : Ctx} (h : Ready o f s c) (g : LaneIn → LaneOut)
    (hp : c.poisoned = true) :
    ∃ es t, (∀ d, d ∈ es.map aimOf ↔ d ∈ (c.laneRes g).effs.map aimOf ∧ d.1 ≠ 5) ∧ After c { effs := es } t ∧
      laneOp o f s g = .next (t.raise c.r cPOI 0 c.pc c.path false 0) := by
  refine ⟨(poisonRes c (c.laneRes g)).effs, _, mem_aims_garble_dests _ _, Ctx.plain_after h.hasFib _ _
    (fun _ hl => ready_path_lt h hl) (effsOk_garble_dests _ (effsOk_laneRes h g))
    (fun _ he => nomatch he) (fun _ he => nomatch he), (laneOp_eq_finish h g).trans (congrArg _ (finish_poisoned rfl hp))⟩

/-- Forms do what their rule says of a lane, and nothing else, once each of them is the lane form that computes the rule. -/
theorem lanesDo_of_exec {ops : List Op} {rule : Op → Ins → LaneIn → LaneOut}
    (h : ∀ o ∈ ops, ∀ f s, exec (o.instr f) s = laneOp o f s (rule o f)) : LanesDo ops rule := by
  intro o ho f s c hready
  simp only [PoisonDoes, h o ho f s]
  exact ⟨laneOp_after hready _, laneOp_fpx hready _, laneOp_poisoned hready _⟩

end Sys2Proof.Rules
end

section
/-!
SUPPORT. The integer forms (R90, R91): the model's meaning of each in a lane is the rule's exact value, delivered.
-/

namespace Sys2Proof.Rules

open Sys2Proof Sys2Proof.Machine

/-- The forms of R90 that deliver by Wrap whatever SAT says. -/
def wrapsOnly (o : Op) : Bool := decide (o = .imulh ∨ o = .imin ∨ o = .imax ∨ o = .iclamp)

/-- R90: beside the carry forms, the rule delivers the exact value to the result type. -/
theorem intOut_eq_intRule {o : Op} {f : Ins} {i : LaneIn} {sat : Bool} {t : Ty} {y : Int}
    (hsat : (f.x.sat && !wrapsOnly o) = sat) (ht : intType o f = t) (hy : y = intExact o f i)
    (hadd : o ≠ .iaddc := by decide) (hsub : o ≠ .isubb := by decide) : intOut sat t y = intRule o f i := by
  subst hsat ht hy
  unfold intRule
  split
  · exact absurd rfl hadd
  · exact absurd rfl hsub
  · exact absurd rfl hadd
  · exact absurd rfl hsub
  · rfl

/-! ## Exact values -/

theorem natAbs_eq_ite (a : Int) : (a.natAbs : Int) = if a < 0 then -a else a := by
  split <;> omega

theorem natAbs_sub_eq_ite (a b : Int) : ((a - b).natAbs : Int) = if a < b then b - a else a - b := by
  split <;> omega

/-- ICLAMP gives C where the bounds cross. -/
theorem min_max_eq_ite (a b c : Int) :
    min (max a b) c = if c ≤ (if a ≤ b then b else a) then c else (if a ≤ b then b else a) := by
  rw [min_comm, min_def, max_def]

/-- The addend of IMADW is 64 bits wide, signed as its factors are. -/
theorem wideType_mTy (m : Nat) : (if mTy m = .i32 then Ty.i64 else .n64) = if mTy m = .n32 then Ty.n64 else .i64 := by
  unfold mTy; split <;> rfl

theorem dotOut_eq_sum (f : Ins) (n w : Nat) (i : LaneIn) :
    dotOut f n w i = intOut f.x.sat .i32 ((List.range n).foldl (fun acc k => acc +
      dotPart (decide (f.x.m % 8 ≤ 1)) w i.a k * dotPart (decide (f.x.m % 2 = 0)) w i.b k) 0 + sext 32 i.c) := by
  have hsb : (f.x.m % 8 % 2 == 0) = decide (f.x.m % 2 = 0) := by
    rw [Nat.mod_mod_of_dvd _ (by decide : 2 ∣ 8)]; rfl
  simp only [dotOut, hsb]
  rfl

theorem dotOut4_eq_intRule (f : Ins) (i : LaneIn) : dotOut f 4 8 i = intRule .idp4 f i :=
  (dotOut_eq_sum f 4 8 i).trans (intOut_eq_intRule (Bool.and_true _) rfl (by simp [intExact, List.range_succ]))

theorem dotOut2_eq_intRule (f : Ins) (i : LaneIn) : dotOut f 2 16 i = intRule .idp2 f i :=
  (dotOut_eq_sum f 2 16 i).trans (intOut_eq_intRule (Bool.and_true _) rfl (by simp [intExact, List.range_succ]))

/-! ## The carry chain -/

theorem wrapTo_natCast (w n : Nat) : wrapTo w n = n % 2 ^ w := by
  rw [wrapTo, ← Int.natCast_emod, Int.toNat_natCast]

theorem carryOut_add_eq_intRule (f : Ins) (i : LaneIn) : carryOut false f i = intRule .iaddc f i := by
  unfold carryOut intRule
  cases f.x with
  | carry co cin ci t =>
    have hy (k : Nat) : (i.a : Int) + i.b + k = ((i.a + i.b + k : Nat) : Int) := by push_cast; rfl
    simp only [carryOp, Bool.false_eq_true, if_false, hy, wrapTo_natCast, Nat.cast_le]
    rfl
  | _ => rfl

theorem carryOut_sub_eq_intRule (f : Ins) (i : LaneIn) : carryOut true f i = intRule .isubb f i := by
  unfold carryOut intRule
  cases f.x <;> rfl

/-! ## The forms -/

/-- Each form of R90 and R91 is the lane form that computes its rule. -/
theorem exec_intForm {o : Op} (ho : o ∈ intForms) (f : Ins) (s : State) :
    exec (o.instr f) s = laneOp o f s (intRule o f) := by
  simp only [intForms, List.mem_cons, List.not_mem_nil, or_false] at ho
  rcases ho with rfl | rfl | rfl | rfl | rfl | rfl | rfl | rfl | rfl | rfl | rfl | rfl | rfl | rfl | rfl | rfl
  · show execIadd f s = _
    exact laneOp_congr fun i => intOut_eq_intRule (Bool.and_true _) rfl rfl
  · show execIsub f s = _
    exact laneOp_congr fun i => intOut_eq_intRule (Bool.and_true _) rfl rfl
  · show execImul f s = _
    exact laneOp_congr fun i => intOut_eq_intRule (Bool.and_true _) rfl rfl
  · show execImulh f s = _
    exact laneOp_congr fun i => intOut_eq_intRule (Bool.and_false _) rfl rfl
  · show execImad f s = _
    exact laneOp_congr fun i => intOut_eq_intRule (Bool.and_true _) rfl rfl
  · show execImadw f s = _
    exact laneOp_congr fun i => intOut_eq_intRule (Bool.and_true _) (wideType_mTy _) (by rw [← wideType_mTy]; rfl)
  · show execImin f s = _
    exact laneOp_congr fun i => intOut_eq_intRule (Bool.and_false _) rfl (min_def _ _)
  · show execImax f s = _
    exact laneOp_congr fun i => intOut_eq_intRule (Bool.and_false _) rfl (max_def _ _)
  · show execIabs f s = _
    exact laneOp_congr fun i => intOut_eq_intRule (Bool.and_true _) rfl (natAbs_eq_ite _)
  · show execIneg f s = _
    exact laneOp_congr fun i => intOut_eq_intRule (Bool.and_true _) rfl rfl
  · show execIclamp f s = _
    exact laneOp_congr fun i => intOut_eq_intRule (Bool.and_false _) rfl (min_max_eq_ite _ _ _)
  · show execIsad f s = _
    exact laneOp_congr fun i => intOut_eq_intRule (Bool.and_true _) rfl (congrArg (· + _) (natAbs_sub_eq_ite _ _))
  · show execIdp4 f s = _
    exact laneOp_congr (dotOut4_eq_intRule f)
  · show execIdp2 f s = _
    exact laneOp_congr (dotOut2_eq_intRule f)
  · show execIaddc f s = _
    exact laneOp_congr (carryOut_add_eq_intRule f)
  · show execIsubb f s = _
    exact laneOp_congr (carryOut_sub_eq_intRule f)

/-- Settles O1: every form is the lane form of its rule (`exec_intForm`), and a lane form does its rule and nothing else. -/
theorem integerArithmetic : Obligations.IntegerArithmetic :=
  lanesDo_of_exec fun _ ho => exec_intForm ho

end Sys2Proof.Rules
end

section
/-!
SUPPORT. The forms on bits (R92 to R97): the model's meaning of each in a lane is the rule's.
-/

namespace Sys2Proof.Rules

open Sys2Proof Sys2Proof.Machine

/-! ## Values -/

/-- R93: a count of the width or more shifts in as many signs as a count one below it. -/
theorem min_pred_eq_ite (c w : Nat) : min c (w - 1) = if c < w then c else w - 1 := by
  split <;> omega

theorem sarAt_eq (w a c : Nat) :
    sarAt w a c = wrapTo w (sext w a / ((2 ^ (if c < w then c else w - 1) : Nat) : Int)) := by
  rw [sarAt, min_pred_eq_ite]

theorem funnelCount_eq (f : Ins) (c : Nat) :
    funnelCount f c = if f.x.m % 2 = 1 then (if c ≤ 32 then c else 32) else c % 32 := by
  rw [funnelCount, min_def]

theorem bfeAt_eq (t : Ty) (a pos len : Nat) : bfeAt t a pos len =
    let l := if len ≤ t.bits then len else t.bits
    let fld := ofBits l (fun k => if pos + k < t.bits then a.testBit (pos + k) else t.signed && a.testBit (t.bits - 1))
    if l = 0 then 0 else if t.signed then wrapTo t.bits (sext l fld) else fld := by
  simp only [bfeAt, min_def]

/-- R96: a number's length in bits is one more than the place of its highest one. -/
theorem clzOf_eq (w x : Nat) : clzOf w x = if x % 2 ^ w = 0 then w else w - 1 - Nat.log2 (x % 2 ^ w) := by
  rw [clzOf, bitLen]
  split <;> omega

theorem popcOf_eq_countP (w x : Nat) : popcOf w x = (List.range w).countP x.testBit :=
  List.countP_eq_length_filter.symm

/-- R97: the selector of a result byte names one of the eight bytes and, by bit 3, asks for its sign. -/
theorem permOne_eq_prmtPart (i : LaneIn) (k : Nat) :
    permOne i.a i.c (bitsOf (i.b % 65536) (4 * k) 4) = prmtPart i k :=
  rfl

theorem prmtAt_eq_sum (i : LaneIn) : prmtAt i.a i.c (i.b % 65536) =
    prmtPart i 0 + prmtPart i 1 * 2 ^ 8 + prmtPart i 2 * 2 ^ 16 + prmtPart i 3 * 2 ^ 24 := by
  simp only [prmtAt, permOne_eq_prmtPart, foldl_bytes4]

theorem blutOut_eq_bitRule (f : Ins) (i : LaneIn) : blutOut f i = bitRule .blut f i := by
  unfold blutOut bitRule
  cases f.x <;> rfl

/-! ## The forms -/

/-- A result that is a value alone. -/
theorem valueOut_congr {x y : Nat} (h : x = y) : ({ v := some x } : LaneOut) = { v := some y } := by rw [h]

/-- Each form of R92 to R97 is the lane form that computes its rule. -/
theorem exec_bitForm {o : Op} (ho : o ∈ bitForms) (f : Ins) (s : State) :
    exec (o.instr f) s = laneOp o f s (bitRule o f) := by
  simp only [bitForms, List.mem_cons, List.not_mem_nil, or_false] at ho
  rcases ho with rfl | rfl | rfl | rfl | rfl | rfl | rfl | rfl | rfl | rfl | rfl | rfl | rfl | rfl | rfl | rfl | rfl |
    rfl | rfl | rfl | rfl | rfl
  · show execAnd f s = _; rfl
  · show execOr f s = _; rfl
  · show execXor f s = _; rfl
  · show execAndn f s = _; rfl
  · show execOrn f s = _; rfl
  · show execNot f s = _; rfl
  · show execBlut f s = _
    exact laneOp_congr (blutOut_eq_bitRule f)
  · show execShl f s = _; rfl
  · show execShr f s = _; rfl
  · show execSar f s = _
    exact laneOp_congr fun i => valueOut_congr (sarAt_eq _ _ _)
  · show execRol f s = _; rfl
  · show execRor f s = _; rfl
  · show execFshl f s = _
    exact laneOp_congr fun i => valueOut_congr (by rw [funnelCount_eq])
  · show execFshr f s = _
    exact laneOp_congr fun i => valueOut_congr (by rw [funnelCount_eq])
  · show execBfe f s = _
    exact laneOp_congr fun i => valueOut_congr (bfeAt_eq _ _ _ _)
  · show execBfi f s = _
    exact laneOp_congr fun i => valueOut_congr (by simp only [min_def, Bool.and_eq_true, decide_eq_true_eq]; rfl)
  · show execBmsk f s = _
    exact laneOp_congr fun i => valueOut_congr (by simp only [Bool.decide_and])
  · show execBrev f s = _; rfl
  · show execPopc f s = _
    exact laneOp_congr fun i => valueOut_congr (popcOf_eq_countP _ _)
  · show execClz f s = _
    exact laneOp_congr fun i => valueOut_congr (clzOf_eq _ _)
  · show execCtz f s = _; rfl
  · show execPrmt f s = _
    exact laneOp_congr fun i => valueOut_congr (prmtAt_eq_sum i)

/-- Settles O2: every form is the lane form of its rule (`exec_bitForm`), and a lane form does its rule and nothing else. -/
theorem bitOperations : Obligations.BitOperations :=
  lanesDo_of_exec fun _ ho => exec_bitForm ho

end Sys2Proof.Rules
end

section
/-!
SUPPORT. The minima, maxima, compares, classes and parts of floats (R107 to R110): the model's meaning of each in a lane is the
rule's.
-/

namespace Sys2Proof.Rules

open Sys2Proof Sys2Proof.Machine

/-! ## Minima and maxima -/

/-- R38: without FTZ an input is read as it stands. -/
@[simp] theorem ftzIn_false (x : Nat) : ftzIn false x = x := by
  simp [ftzIn]

/-- R107: one pick for the minimum and the maximum. -/
theorem maxmin_eq_pickOf (hi : Bool) (t : Ty) (x y : Nat) :
    (if hi then fmaxPat t x y else fminPat t x y) = pickOf hi t x y := by
  simp only [pickOf, fmaxPat, fminPat]
  cases (decodeF t x).isNaN with
  | true => cases (decodeF t y).isNaN <;> simp
  | false =>
    cases (decodeF t y).isNaN with
    | true => simp
    | false =>
      cases vcmp (decodeF t x) (decodeF t y) with
      | lt => simp
      | gt => simp
      | eq => cases (decodeF t x).neg <;> cases hi <;> rfl

/-- R107 on one element. -/
theorem minmaxElem_eq_pickOf (hi ftz : Bool) (t : Ty) (x y : Nat) : minmaxElem hi ftz t x y =
    (pickOf hi t (ftzIn ftz x) (ftzIn ftz y), snanFlag [decodeF t (ftzIn ftz x), decodeF t (ftzIn ftz y)]) := by
  rw [minmaxElem, maxmin_eq_pickOf]

/-- R107 on the one element of a scalar form. -/
theorem minmaxOut_eq_pickOf (hi ftz : Bool) (t : Ty) (i : LaneIn) : minmaxOut hi ftz t i =
    { v := some (pickOf hi t (ftzIn ftz i.a) (ftzIn ftz i.b))
      fl := snanFlag [decodeF t (ftzIn ftz i.a), decodeF t (ftzIn ftz i.b)] } := by
  rw [minmaxOut, minmaxElem_eq_pickOf]

/-- Element 0 of a packed operand. -/
theorem bitsOf_element_zero (x : Nat) : bitsOf x 0 16 = x % 65536 :=
  congrArg (· % 65536) (Nat.div_one x)

/-- Element 1 of a packed operand. -/
theorem bitsOf_element_one (x : Nat) : bitsOf x 16 16 = x / 65536 % 65536 :=
  rfl

/-- R107 on the two elements of a packed form, which FTZ leaves alone. -/
theorem minmaxPack_eq_pickOf (hi : Bool) (t : Ty) (i : LaneIn) : minmaxPack hi t i =
    { v := some (pickOf hi t (i.a % 65536) (i.b % 65536) +
        pickOf hi t (i.a / 65536 % 65536) (i.b / 65536 % 65536) * 65536)
      fl := snanFlag [decodeF t (i.a % 65536), decodeF t (i.b % 65536)] |||
        snanFlag [decodeF t (i.a / 65536 % 65536), decodeF t (i.b / 65536 % 65536)] } := by
  simp only [minmaxPack, minmaxElem_eq_pickOf, ftzIn_false, bitsOf_element_zero, bitsOf_element_one]

/-! ## Compares -/

/-- R108: beside a NaN, .num is false, .nan is true and every other relation is U. -/
theorem relUnordered_eq_relNaN (c : Cmp) (u : Bool) : relUnordered c u = relNaN c u := by
  cases c <;> rfl

/-- R108: the relations on the order of two operands that are not NaN. -/
theorem relOrdered_eq_relTrue (c : Cmp) (x : Ordering) : relOrdered c x = relTrue c x := by
  cases c <;> cases x <;> rfl

/-- R108: the relations on which a quiet NaN sets IV. -/
theorem asksOrder_eq_decide (c : Cmp) :
    (c == .lt || c == .le || c == .gt || c == .ge) = decide (c = .lt ∨ c = .le ∨ c = .gt ∨ c = .ge) := by
  cases c <;> rfl

/-- R108: the truth of a relation and its flags. -/
theorem cmpFloat_eq_floatRel (c : Cmp) (u : Bool) (a b : Val) : cmpFloat c u a b = floatRel c u a b := by
  simp only [cmpFloat, floatRel, relUnordered_eq_relNaN, relOrdered_eq_relTrue, asksOrder_eq_decide]

/-- R108: FSETP reads its operands after FTZ. -/
theorem fcmpOut_f32_eq_compareRule (f : Ins) (i : LaneIn) :
    fcmpOut (fpcsFtz i.fpcs) .f32 f i = compareRule .fsetp f i := by
  simp only [fcmpOut, cmpFloat_eq_floatRel, compareRule]
  cases f.x <;> rfl

/-- R108: DSETP reads its operands as they stand. -/
theorem fcmpOut_f64_eq_compareRule (f : Ins) (i : LaneIn) : fcmpOut false .f64 f i = compareRule .dsetp f i := by
  simp only [fcmpOut, cmpFloat_eq_floatRel, compareRule]
  cases f.x <;> rfl

/-- R108: PSETP2 takes one predicate from each element. -/
theorem execPsetp2_eq_laneOp (f : Ins) (s : State) : execPsetp2 f s = laneOp .psetp2 f s (compareRule .psetp2 f) := by
  refine laneOp_congr fun i => ?_
  simp only [cmpFloat_eq_floatRel, compareRule]
  cases f.x <;> rfl

/-- R108: FSET delivers the truth as a pattern of bits or as 1.0. -/
theorem execFset_eq_laneOp (f : Ins) (s : State) : execFset f s = laneOp .fset f s (compareRule .fset f) := by
  refine laneOp_congr fun i => ?_
  simp only [cmpFloat_eq_floatRel, compareRule]
  cases f.x <;> rfl

/-! ## Classes and parts -/

/-- R109: the class bits as powers of two. -/
theorem classOf_eq_compareRule (f : Ins) (i : LaneIn) :
    ({ v := some (classOf f.x.ty i.a) } : LaneOut) = compareRule .fclass f i := by
  simp only [classOf, compareRule]
  cases decodeF f.x.ty i.a with
  | nan sig => cases sig <;> rfl
  | inf neg => cases neg <;> rfl
  | fin neg m e => cases neg <;> simp only <;> split_ifs <;> rfl

/-- R110: NX says that the integral value differs from the operand. -/
theorem integral_inexact_ite (neg : Bool) (m : Nat) (e : Int) (mode : Rnd) :
    (if (integral neg m e mode).2 then fNX else 0) = if cmpScaled (integral neg m e mode).1 0 m e = .eq then 0 else fNX := by
  by_cases h : cmpScaled (chooseSig neg m e 0 mode 0) 0 m e = .eq <;> simp [integral, h]

/-- R110: FRND reads its operand after FTZ. -/
theorem execFrnd_eq_laneOp (f : Ins) (s : State) : execFrnd f s = laneOp .frnd f s (compareRule .frnd f) := by
  refine laneOp_congr fun i => ?_
  simp only [compareRule, or_true, decide_true, Bool.true_and]
  cases decodeF .f32 (ftzIn (fpcsFtz i.fpcs) i.a) with
  | nan sig => rfl
  | inf neg => rfl
  | fin neg m e => simp only [integral_inexact_ite]; rfl

/-- R110: FGETEXP names its infinities by their patterns. -/
theorem execFgetexp_eq_laneOp (f : Ins) (s : State) : execFgetexp f s = laneOp .fgetexp f s (compareRule .fgetexp f) := by
  refine laneOp_congr fun i => ?_
  simp only [compareRule]
  cases decodeF .f32 i.a <;> rfl

/-- R110: a zero passes unchanged, as its exponent is taken for 0. -/
theorem execFgetman_eq_laneOp (f : Ins) (s : State) : execFgetman f s = laneOp .fgetman f s (compareRule .fgetman f) := by
  refine laneOp_congr fun i => ?_
  simp only [compareRule]
  cases decodeF .f32 i.a with
  | nan sig => rfl
  | inf neg => rfl
  | fin neg m e => simp only [sub_ite, sub_zero]

/-! ## The forms -/

/-- Each form of R107 to R110 is the lane form that computes its rule. -/
theorem exec_compareForm {o : Op} (ho : o ∈ compareForms) (f : Ins) (s : State) :
    exec (o.instr f) s = laneOp o f s (compareRule o f) := by
  simp only [compareForms, List.mem_cons, List.not_mem_nil, or_false] at ho
  rcases ho with rfl | rfl | rfl | rfl | rfl | rfl | rfl | rfl | rfl | rfl | rfl | rfl | rfl | rfl
  · show execFmin f s = _
    exact laneOp_congr fun i => minmaxOut_eq_pickOf _ _ _ i
  · show execFmax f s = _
    exact laneOp_congr fun i => minmaxOut_eq_pickOf _ _ _ i
  · show execDmin f s = _
    exact laneOp_congr fun i => minmaxOut_eq_pickOf _ _ _ i
  · show execDmax f s = _
    exact laneOp_congr fun i => minmaxOut_eq_pickOf _ _ _ i
  · show execPmin2 f s = _
    exact laneOp_congr (minmaxPack_eq_pickOf _ _)
  · show execPmax2 f s = _
    exact laneOp_congr (minmaxPack_eq_pickOf _ _)
  · show execFsetp f s = _
    exact laneOp_congr (fcmpOut_f32_eq_compareRule f)
  · show execDsetp f s = _
    exact laneOp_congr (fcmpOut_f64_eq_compareRule f)
  · exact execPsetp2_eq_laneOp f s
  · exact execFset_eq_laneOp f s
  · show execFclass f s = _
    exact laneOp_congr (classOf_eq_compareRule f)
  · exact execFrnd_eq_laneOp f s
  · exact execFgetexp_eq_laneOp f s
  · exact execFgetman_eq_laneOp f s

/-- Settles O5: every form is the lane form of its rule (`exec_compareForm`), and a lane form does its rule and nothing else:
FPX of an enabled flag also where the result is written late (log 3), and POI from a poisoned source (log 67). -/
theorem floatCompares : Obligations.FloatCompares :=
  lanesDo_of_exec fun _ ho => exec_compareForm ho

end Sys2Proof.Rules
end
